-- ==== Sys2Proof/Word.lean ====
section
/-! DEFINITION. The words the Ilembra IX640 manual treats as bits, and its fixed numbers.
Counts, times, indices and sizes are natural numbers in the state; keys, masks, sets of node ids and codes are bit vectors. -/

namespace Sys2Proof

/-- A byte of a frame on any of the links (12 "Formats and Signals"). -/
abbrev Byte := BitVec 8

/-- A parcel's content digest (R1 "full key", 32 bytes). -/
abbrev FullKey := BitVec 256

/-- The first 8 bytes of the full key (R1 "short key"). -/
abbrev ShortKey := BitVec 64

/-- A node id, 0 to 15 (00 "Terms"). -/
abbrev NodeId := BitVec 4

/-- A set of node ids; bit n stands for node id n (Table 12-1 "holder set"). -/
abbrev NodeSet := BitVec 16

/-- A mask over the nineteen events, in the layout of Table 12-1 "event mask": byte 0 is bits 23 to 16. -/
abbrev EventMask := BitVec 24

/-- A hold's matter number (R50). -/
abbrev Matter := BitVec 32

/-- The number of catalogue entries (R1). -/
def catalogueSize : Nat := 131072

/-- The number of Hold Table slots (R50). -/
def holdTableSize : Nat := 64

/-- The greatest RT value, and the expiry NEVER (R32, R46). -/
def rtMax : Nat := 1099511627775

/-- Seconds in a day: day boundaries are its multiples (00 "Day boundary"). -/
def daySeconds : Nat := 86400

end Sys2Proof
end

