-- ==== Sys2Proof/Syntax.lean ====
section
/-! DEFINITION. The commands the IX640 takes: one constructor of `Instr` for each row of spec/opcode_table.json.
A request carries its tag and its operands as Table 12-3 lays them out; an event carries what the report that brings it
says (which record was written, which timer ended, what the drive controller answered). -/

namespace Sys2Proof

/-- The errors the sender of a frame detects (R107). -/
inductive SendFault
  | bit
  | form
  | noAck
  deriving DecidableEq, Repr

/-- The errors a receiver of a frame detects (R107). -/
inductive RecvFault
  | fill
  | check
  | form
  deriving DecidableEq, Repr

/-- The completions the drive controller returns (R152). -/
inductive MediaResult
  | done
  | failed
  | matched
  | mismatched
  deriving DecidableEq, Repr

/-- A record of the catalogue store whose write the store port reports failed (R9, R11). `start` is any write of a
START in progress (R177). -/
inductive StoreWrite
  | entry (index : BitVec 17)
  | holdSlot (slot : BitVec 6)
  | floor
  | cursor
  | start
  deriving DecidableEq, Repr

/-- A read of the catalogue store that the store port reports failed (R11): the reads made at a reset (R15, R44, R68,
R85, R117, R159), the reads of the two walks (R72), the read CTC makes to dispatch the Receive FIFO's oldest HAVE, DROP or
WANT (R122, R123, R130), and a read of an entry for any other action (log 48). -/
inductive StoreRead
  | header
  | settings
  | floor
  | highWater
  | holdSlot (slot : BitVec 6)
  | cursor
  | loadVisit
  | refreshVisit
  | dispatch
  | entry (index : BitVec 17)
  deriving DecidableEq, Repr

/-- The commands of the block, one constructor for each row of spec/opcode_table.json, in the table's order. -/
inductive Instr
  /-- Core power is applied; the SLOT pins, and whether the time domain was kept powered throughout (R30, R33, R194). -/
  | coldStart (slot : BitVec 4) (timeDomainKept : Bool)
  /-- RESET_N is asserted and released; the SLOT pins at its release (R30, R194). -/
  | warmReset (slot : BitVec 4)
  /-- GUARD_N goes low (R148). -/
  | guardAsserted
  /-- GUARD_N goes high (R148). -/
  | guardReleased
  /-- MEDIA_READY goes high; the media size the drive controller presents (R14, R145). -/
  | mediaReadyRise (size : BitVec 40)
  /-- SVC_EN goes low (R188). -/
  | svcEnFall
  /-- START: choice byte and 52-byte configuration record, byte 0 the most significant (R176, Table 12-4). -/
  | start (tag : Byte) (choice : Byte) (record : BitVec 416)
  /-- The writes of a START have completed (R178). -/
  | startAccepted
  | setTime (tag : Byte) (time : BitVec 40)
  | setSpace (tag : Byte) (blocks : BitVec 40)
  /-- LODGE: the eight extent slots are 72 bytes, the first slot the most significant (Table 12-3). -/
  | lodge (tag : Byte) (fullKey : BitVec 256) (custLen : Byte) (cust : BitVec 32) (cls : Byte) (extCount : Byte) (slots : BitVec 576)
  | adopt (tag : Byte) (fullKey : BitVec 256) (custLen : Byte) (cust : BitVec 32) (cls : Byte) (lodgeTime : BitVec 40) (extCount : Byte) (slots : BitVec 576)
  | refill (tag : Byte) (index : BitVec 24) (extCount : Byte) (slots : BitVec 576)
  | dispose (tag : Byte) (index : BitVec 24)
  | placeHold (tag : Byte) (matter : BitVec 32) (patLen : Byte) (pattern : BitVec 32)
  | liftHold (tag : Byte) (matter : BitVec 32)
  /-- LOOKUP: selector, and the short key or the index in its low three bytes (Table 12-3). -/
  | lookup (tag : Byte) (selector : Byte) (operand : BitVec 64)
  | listReleasable (tag : Byte) (startIndex : BitVec 24) (count : Byte)
  | mediaRead (tag : Byte) (startBlock : BitVec 40) (count : BitVec 32) (handle : BitVec 64)
  | mediaWrite (tag : Byte) (startBlock : BitVec 40) (count : BitVec 32) (handle : BitVec 64)
  | mediaTrim (tag : Byte) (startBlock : BitVec 40) (count : BitVec 32) (handle : BitVec 64)
  | dormant (tag : Byte)
  | wake (tag : Byte)
  | readStatus (tag : Byte)
  | clearEvents (tag : Byte) (mask : BitVec 24)
  | setEventEnables (tag : Byte) (mask : BitVec 24)
  /-- The link transmitter finishes the frame it is sending (R173). -/
  | transmitFrameDone
  | inspectStatus
  | inspectEntry (index : BitVec 24)
  | inspectKey (key : BitVec 64)
  | inspectHold (slot : Byte)
  | inspectPeer (id : Byte)
  | inspectClock
  | setWatch (key : BitVec 64)
  | clearWatch
  /-- A frame completes at this node as a receiver: its kind, sender id and payload; the length field is the payload's
  length (R87, R93 <1>). -/
  | frameReceived (kind : BitVec 3) (sender : BitVec 4) (payload : List Byte)
  | beaconDispatch
  | holdDispatch
  | liftDispatch
  | haveDispatch
  | dropDispatch
  | wantDispatch
  | claimDispatch
  | attemptStart
  /-- The arbitration value of the frame the line carried instead (R91). -/
  | arbitrationLost (winner : BitVec 7)
  | frameSent
  | sendError (e : SendFault)
  | receiveError (e : RecvFault)
  | dominantRunError
  | leaveSilent
  | bitRateChange
  | rtAdvance
  | floorWriteComplete
  | beaconTimerExpiry
  | presenceWindowEnd (id : BitVec 4)
  | roundBoundary
  | holdSlotWriteComplete (slot : BitVec 6)
  | settlePeriodEnd
  | loadVisit
  | refreshVisit
  | entryWriteComplete (index : BitVec 17)
  | storeWriteFailed (record : StoreWrite)
  | storeReadFailed (record : StoreRead)
  | mediaCompletion (tag : Byte) (result : MediaResult)
  | mediaTimerExpiry
  | scrubTick
  | appealTimerExpiry (index : BitVec 17)
  | appealRearm (index : BitVec 17)
  | recruitTimerExpiry (key : BitVec 64)
  | candidateExpiry (key : BitVec 64)
  | claimLifetimeExpiry (key : BitVec 64)
  | mediaReadyFall
  | svcEnRise
  | serviceAnswerSent
  /-- The bytes of a frame on the request link, from its length field (R173, 12.3). -/
  | unknownRequestFrame (bytes : List Byte)
  /-- The bytes of a command on the service line, from its length byte (R188, 12.4). -/
  | unknownServiceCommand (bytes : List Byte)
  | elevenRecessiveBitsRead
  /-- Core power is removed; whether the battery then powers the time domain (R33). -/
  | corePowerLoss (battery : Bool)
  deriving DecidableEq, Repr

end Sys2Proof
end

