-- ==== Sys2Proof/Decode.lean ====
section
/-! DEFINITION. Commands read from a word of the table's bits. No row of spec/opcode_table.json carries bits (its
"fields" are empty and it has no "fixed"), so no word spells a command. The byte layouts of the link and service frames
(chapter 12) are read in Machine/Formats.lean. -/

namespace Sys2Proof

/-- The command that the low `nbits` of `w` spell by the table's bits: none, since the table gives no row any bits. -/
def decodeTableWord (_nbits _w : Nat) : Option Instr := none

end Sys2Proof
end

