-- ==== Sys2Proof/Config.lean ====
section
/-! DEFINITION. What the manual leaves open and the part still does: FREE VALUES. Each is a constant with no body,
applied to a plain counter of the state (`State.free`), so that nothing can be proved of it and a claim about the model
holds whatever the part does there. -/

namespace Sys2Proof.Config

/-- R9, R11: whether a store write that was cut short (by a reset, a loss of core power or a failed access) left its
record as it would be after the write. FREE VALUE, log 5. -/
opaque cutWriteLands : Nat → Bool

/-- R173: "An answer and a notice that become ready at the same moment may be sent in either order." The number, taken
modulo the count of frames that tie, picks the one sent first. FREE VALUE, log 7. -/
opaque firstToSend : Nat → Nat

/-- R114: the recessive bits a SILENT node has read between two events of the line, whole quiet milliseconds apart, which
no command gives. FREE VALUE, log 8. -/
opaque gapBits : Nat → Nat

/-- R90 <4>, R108, R114: whether other nodes' flags came before those bits. FREE VALUE, log 8. -/
opaque gapDominant : Nat → Bool

/-- R108, R114: the recessive bits that a SILENT node has read before the flags of other nodes, or before the dominant bits
of a DOMINANT_RUN_ERROR; of the latter its remainder by 17, for the 9 bits of the flag and fewer than the 8 of the
delimiter. FREE VALUE, log 8. -/
opaque gapLead : Nat → Nat

/-- R92, R114: whether another receiver drove the acknowledgement slot of a frame that a SILENT node has read, which the
command does not give. FREE VALUE, log 8. -/
opaque slotDriven : Nat → Bool

/-- R88, R114: the recessive bits at the end of what a SILENT node has read of a frame with a fill or check error, whose bits
the command does not give: 8 or 0 after a fill error by whether the number is odd, and its remainder by 7 after a check
error. FREE VALUE, log 8. -/
opaque errorTail : Nat → Nat

end Sys2Proof.Config
end

