-- ==== Sys2Proof/Machine/State.lean ====
section
/-! DEFINITION. The state of the IX640, block by block as the manual's "Block configuration" lists it, as plain data,
with the value each field holds after a reset as its default. `State.reset` is a cold start of a blank store with an
unpowered time domain (log 4). -/

namespace Sys2Proof.Machine

/-! ### Parcels and the catalogue entry (chapter 1) -/

/-- Standing of an entry (R1, 1.2). -/
inductive EntryState
  | free
  | lodging
  | retained
  | releasable
  | disposing
  | damaged
  deriving DecidableEq, Repr

/-- How an entry was taken in (R1). -/
inductive Origin
  | lodgedHere
  | adopted
  deriving DecidableEq, Repr

/-- The announcement of an entry that has not yet entered the Send Queue (R1, R29). -/
inductive Owed
  | nothing
  | haveFrame
  | dropFrame
  deriving DecidableEq, Repr

/-- A run of consecutive blocks of the media (00 "Extent"). -/
structure Extent where
  first : Nat
  count : Nat
  deriving DecidableEq, Repr

/-- A custodian code of 1 to 4 bytes, kept left-aligned with the bytes beyond its length 0 (R1, R193 <3>). -/
structure Custodian where
  len : Nat := 0
  code : BitVec 32 := 0
  deriving DecidableEq, Repr

/-- A catalogue entry: the fields of R1's table. The defaults are the FREE record. -/
structure Entry where
  state : EntryState := .free
  fullKey : FullKey := 0
  shortKey : ShortKey := 0
  cust : Custodian := {}
  cls : Nat := 0
  origin : Origin := .lodgedHere
  lodgeTime : Nat := 0
  expiry : Nat := 0
  extents : List Extent := []
  refill : Option (List Extent) := none
  eraseBegun : Bool := false
  holders : NodeSet := 0
  holdCount : Nat := 0
  lastScrub : Option Nat := none
  owed : Owed := .nothing
  deriving DecidableEq, Repr

/-- Catalogue entries by index: indices strictly rising, no entry equal to the FREE record, which every unlisted index
holds (R2). `catWf` of Machine/Catalogue.lean states the form. -/
abbrev Cat := List (Nat × Entry)

/-! ### Holds (chapter 3) -/

/-- The stored fields of an occupied Hold Table slot (R50, "Kept in store: yes"). -/
structure HoldRec where
  matter : Matter
  patLen : Nat
  pattern : BitVec 32
  placed : Nat
  unknown : Bool
  origin : NodeId
  deriving DecidableEq, Repr

/-- An occupied Hold Table slot of the working copy (R50). -/
structure HoldSlot where
  hold : HoldRec
  lifting : Bool := false
  heard : Bool := false
  sendOwed : Bool := false
  deriving DecidableEq, Repr

/-- An entry of the Lifted List (R51). -/
structure Lifted where
  matter : Matter
  time : Nat
  age : Nat := 0
  owed : Bool := false
  deriving DecidableEq, Repr

/-- The causes of hold doubt that are set (R63). Doubt stands while any is. -/
structure Doubt where
  start : Bool := false
  loss : Bool := false
  overflow : Bool := false
  deriving DecidableEq, Repr

/-! ### The settings (10.3) -/

/-- The configuration settings of 10.3, after clamping. A class period is `none` for UNBOUNDED. -/
structure Settings where
  k : Nat
  q : Nat
  periods : List (Option Nat)
  beacon : Nat
  skew : Nat
  holdRound : Nat
  appealStep : Nat
  recruitStep : Nat
  claimLifetime : Nat
  scrubTick : Nat
  mediaTimeout : Nat
  bitRate : Nat
  scrubAbort : Bool
  deriving DecidableEq, Repr

/-! ### The catalogue store -/

/-- The durable records of the part, each written whole by CTC (R9). `header` is the catalogue header, whose absence
makes the store blank (R15). -/
structure Store where
  header : Bool := false
  settings : Settings := { k := 1, q := 1, periods := List.replicate 16 (some 0), beacon := 1, skew := 1, holdRound := 60, appealStep := 5, recruitStep := 5, claimLifetime := 1, scrubTick := 1, mediaTimeout := 1, bitRate := 0, scrubAbort := false }
  rf : Nat := 0
  highWater : Nat := 0
  cursor : Nat := 0
  holds : List (Option HoldRec) := List.replicate holdTableSize none
  entries : Cat := []
  deriving DecidableEq, Repr

/-! ### Node, bus and time enumerations -/

/-- The node states of R14. -/
inductive NodeState
  | awaitingStart
  | loading
  | running
  | dormant
  | waking
  | storeFault
  deriving DecidableEq, Repr

/-- The confinement states of R111. -/
inductive Confinement
  | voiced
  | restrained
  | silent
  deriving DecidableEq, Repr

/-- Presence of a Peer Table slot (R115). -/
inductive Presence
  | absent
  | present
  | self
  deriving DecidableEq, Repr

/-- Time marker of a Peer Table slot (R39). -/
inductive TimeMarker
  | usable
  | skewed
  | invalid
  deriving DecidableEq, Repr

/-- Reason of a DROP frame (R94). -/
inductive DropReason
  | damaged
  | disposed
  deriving DecidableEq, Repr

/-- Supply of the part (R33): core power on; off with the time domain on the battery; off with the time domain
unpowered. -/
inductive Power
  | on
  | offKept
  | offLost
  deriving DecidableEq, Repr

/-! ### Peer frames (R94) -/

/-- The contents of a WANT frame (R94, R127). -/
structure Want where
  key : ShortKey
  lodgeTime : Nat
  cls : Nat
  held : Bool
  size : Nat
  cust : Custodian
  holders : NodeSet
  deriving DecidableEq, Repr

/-- A frame of the shelf peer bus by its contents (R94); the sender id stands beside it. -/
inductive PeerFrame
  | hold (matter : Matter) (patLen : Nat) (pattern : BitVec 32) (placed : Nat)
  | lift (matter : Matter) (time : Nat)
  | drop (key : ShortKey) (reason : DropReason)
  | claim (key : ShortKey)
  | want (w : Want)
  | haveCopy (key : ShortKey) (lodgeTime : Nat) (cls : Nat)
  | beacon (rt : Nat) (timeInvalid dormant fault : Bool)
  deriving DecidableEq, Repr

/-- Whose record a queued frame was built from, where its payload does not say so: CTC's entry `index` (`superseded`
once a later announcement of the entry is made, R29), or CNU's repair list (R130). -/
inductive Producer
  | byPayload
  | announcement (index : Nat) (superseded : Bool)
  | repair (index : Nat)
  deriving DecidableEq, Repr

/-- What a Send Queue slot holds: a whole frame, or the BEACON, which "carries no fixed contents" (R96). -/
inductive QueuedContent
  | beacon
  | frame (f : PeerFrame)
  deriving DecidableEq, Repr

/-- A slot of the Send Queue (R95). -/
structure SendItem where
  content : QueuedContent
  producer : Producer := .byPayload
  inAttempt : Bool := false
  deriving DecidableEq, Repr

/-- An entry of the Receive FIFO (R100). -/
structure RxItem where
  sender : NodeId
  frame : PeerFrame
  deriving DecidableEq, Repr

/-- The error sequence a node is in (R108): whether a send error began it, whether it drove its 9-bit flag dominant, and
whether it has read 16 consecutive dominant bits since that flag. -/
structure ErrorSeq where
  sending : Bool
  dominantFlag : Bool
  dominantRun : Bool
  deriving DecidableEq, Repr

/-- A slot of the Peer Table (R115). The last-heard time is held as the core time of the last BEACON's dispatch. -/
structure Peer where
  presence : Presence := .absent
  marker : TimeMarker := .invalid
  stamp : Option Nat := none
  localTime : Option Nat := none
  heardAt : Option Nat := none
  dormant : Bool := false
  fault : Bool := false
  deriving DecidableEq, Repr

/-! ### Census (chapter 7) -/

/-- An entry of the Appeal List (R126). `timer` is the core time at which the appeal timer ends, present while the
status is WAITING. -/
structure Appeal where
  index : Nat
  key : ShortKey
  appealed : Bool := false
  timer : Option Nat
  appealTime : Nat := 0
  wantOwed : Bool := false
  deriving DecidableEq, Repr

/-- An entry of the Candidate List (R133). `timer` is absent while the candidate waits (R134). -/
structure Candidate where
  key : ShortKey
  lodgeTime : Nat
  cls : Nat
  held : Bool
  cust : Custodian
  size : Nat
  holders : NodeSet
  claimsHeard : List (NodeId × Nat) := []
  lastWant : Nat
  rank : Nat
  timer : Option Nat
  deriving DecidableEq, Repr

/-- An entry of the Claim List (R137). -/
structure Claim where
  key : ShortKey
  lodgeTime : Nat
  cls : Nat
  cust : Custodian
  size : Nat
  holders : NodeSet
  claimTime : Nat
  deadline : Nat
  owed : Bool := false
  deriving DecidableEq, Repr

/-! ### Extent Map and media work (chapter 8) -/

/-- Role of a run of the Extent Map (R143). -/
inductive Role
  | entry
  | refill
  deriving DecidableEq, Repr

/-- A run of the Extent Map (R143). -/
structure Run where
  first : Nat
  count : Nat
  owner : Nat
  role : Role
  deriving DecidableEq, Repr

/-- An outstanding request as its answer names it: tag and kind byte (R174, 12.3). -/
structure Req where
  tag : Byte
  kind : Byte
  deriving DecidableEq, Repr

/-- The host's media operations (R146). -/
inductive HostOp
  | read
  | write
  | trim
  deriving DecidableEq, Repr

/-- A gated host command (R147). `seq` is its place in the gate's order of acceptance, which R151 compares. -/
structure HostCmd where
  req : Req
  op : HostOp
  first : Nat
  count : Nat
  handle : BitVec 64
  seq : Nat
  deriving DecidableEq, Repr

/-- A lodge, adopt or refill VERIFY (R149). Host commands with `seq` below `before` were accepted before the request
that queued it (R151); a VERIFY queued by a load visit has `before` 0 and no request. -/
structure VerifyWork where
  index : Nat
  refill : Bool
  extents : List Extent
  fullKey : FullKey
  before : Nat
  req : Option Req
  deriving DecidableEq, Repr

/-- A disposition ERASE: one extent of an entry (R149). `order` is the place of the entry's DISPOSE or load visit in their
order of acceptance, which the queue keeps. -/
structure EraseWork where
  index : Nat
  extent : Extent
  order : Nat
  deriving DecidableEq, Repr

/-- A command at the media port (R152). -/
inductive MediaCmd
  | host (c : HostCmd)
  | verify (v : VerifyWork)
  | erase (e : EraseWork)
  | scrub (index : Nat) (extents : List Extent) (fullKey : FullKey)
  deriving DecidableEq, Repr

/-- The command in flight with its issue tag (R152). -/
structure InFlight where
  tag : Byte
  cmd : MediaCmd
  deriving DecidableEq, Repr

/-- The endings of a media command as its owner takes them (R153, R154, R156). -/
inductive Ending
  | done
  | failed
  | matched
  | mismatched
  | timeout
  | aborted
  deriving DecidableEq, Repr

/-! ### Answers, notices and service answers (chapters 10 and 11) -/

/-- The outcomes of R175, in its order (12.3: codes 0x00 to 0x19). -/
inductive Reply
  | done
  | known
  | full
  | notReady
  | notNow
  | busy
  | badField
  | outOfRange
  | overlap
  | writeProtected
  | keyClash
  | checkMismatch
  | mediaFault
  | clockInvalid
  | timeLow
  | catalogueFull
  | notReleasable
  | notDamaged
  | held
  | guarded
  | tableFull
  | unknownKey
  | unknownMatter
  | shorten
  | scrubOwed
  | storeFault
  deriving DecidableEq, Repr

/-- The status block (R182, Table 12-7). -/
structure StatusBlock where
  flags : EventMask
  enables : EventMask
  topCode : Nat
  node : NodeState
  confinement : Confinement
  caution : Bool
  dupId : Bool
  doubt : Doubt
  guardAsserted : Bool
  rtValid : Bool
  owedScrub : Bool
  holdLateKey : Option ShortKey
  epoch : BitVec 32
  rt : Nat
  rf : Nat
  bdt : Nat
  mediaSize : Nat
  balance : Int
  noticeCount : Nat
  ownId : NodeId
  deriving DecidableEq, Repr

/-- The results an answer carries (R175, Table 12-5). -/
inductive Results
  | none
  | index (i : Nat)
  | space (blocks : Nat)
  | entry (i : Nat) (e : Entry)
  | releasable (found : List (Nat × ShortKey)) (resume : Option Nat)
  | status (b : StatusBlock)
  | events (flags enables : EventMask) (topCode : Nat)
  | node (n : NodeState)
  | floors (rf highWater : Nat)
  | entryState (st : EntryState)
  | holdCount (n : Nat)
  | cls (c : Nat)
  deriving DecidableEq, Repr

/-- An answer frame. `queued` says that its request stands in the request queue and leaves it when the answer has been
sent (R174); an answer that RLI gives at once (FULL, BUSY of R174 <2>, BAD_FIELD of R173 <3>) has none there. -/
structure Answer where
  req : Req
  queued : Bool
  reply : Reply
  results : Results
  deriving DecidableEq, Repr

/-- The notices of R184. -/
inductive Notice
  | fetchAdoption (key : ShortKey) (lodgeTime cls : Nat) (cust : Custodian) (size : Nat) (holders : NodeSet)
  | fetchRefill (index : Nat) (key : ShortKey) (lodgeTime cls : Nat) (cust : Custodian) (size : Nat) (holders : NodeSet)
  | releasable (index : Nat) (key : ShortKey)
  | damaged (index : Nat) (key : ShortKey)
  | holdEntered (matter : Matter) (patLen : Nat) (pattern : BitVec 32) (sender : NodeId)
  | claimLapsed (key : ShortKey)
  deriving DecidableEq, Repr

/-- The frame the link transmitter is sending (R173). -/
inductive TxFrame
  | answer (a : Answer)
  | notice (n : Notice)
  deriving DecidableEq, Repr

/-- An answer that is ready, with the moment it became so (R173). -/
structure ReadyAnswer where
  stamp : Nat
  answer : Answer
  deriving DecidableEq, Repr

/-- A START between its checks and its acceptance (R176 <2>, R177). `prepare` is set when the store was blank. -/
structure Starting where
  req : Req
  settings : Settings
  prepare : Bool
  deriving DecidableEq, Repr

/-- The causes of a watch hit (R191). -/
structure HitCauses where
  lodged : Bool := false
  adopted : Bool := false
  state : Bool := false
  holdCount : Bool := false
  holder : Bool := false
  scrub : Option MediaResult := none
  deriving DecidableEq, Repr

/-- A change that is a watch hit if its key is the watch key when the hit is recorded (R191). -/
structure Hit where
  key : ShortKey
  causes : HitCauses
  index : Nat
  state : EntryState
  holdCount : Nat
  holders : NodeSet
  deriving DecidableEq, Repr

/-- A record of the Watch Log (R191). -/
structure WatchRec where
  rt : Nat
  rtValid : Bool
  hit : Hit
  deriving DecidableEq, Repr

/-! ### Outstanding writes -/

/-- What follows outside an entry when the write of its change completes (R10). -/
inductive Effect
  /-- The answer to the request that made the change. -/
  | answer (r : Req) (reply : Reply) (results : Results)
  /-- HAVE is queued by R29 <1>. -/
  | announceHave
  /-- DROP with reason DAMAGED is queued by R29 <2>. -/
  | announceDamaged
  /-- The index is handed to CNU (R19 <4>, R24 <1>, R78). -/
  | census
  /-- CNU re-checks the index after a DROP (R123). -/
  | recheck
  /-- A VERIFY of the entry is queued at MAR (R18 <5>, R23). -/
  | queueVerify (refill : Bool) (before : Nat) (req : Option Req)
  /-- The RELEASABLE notice and event (R74). -/
  | releasableNotice
  /-- The DAMAGED event, the DAMAGED notice and the FETCH for refill (R164 <4>). -/
  | damagedNotices
  /-- The ERASEs of the entry are queued at MAR if it is still DISPOSING (R26 <3>), at the place of its DISPOSE in the order
  of acceptance (R149). -/
  | queueErases (order : Nat)
  /-- The granted ERASE is released to the media port (R26 <5>). -/
  | releaseErase
  /-- The entry has been freed: steps <2> to <4> of R28, with the DROP of R27 where `drop` holds. -/
  | freed (key : ShortKey) (drop : Bool)
  /-- The runs of a refilled entry's old extents leave the map, and those of the new ones become its ENTRY runs (R24 <1>,
  R143). -/
  | refillTaken (old new : List Extent)
  /-- The refill runs of the extents of an ended REFILL leave the map (R24 <2>, R143). -/
  | refillDropped (extents : List Extent)
  /-- A repair HAVE is offered (R130). -/
  | repairHave
  /-- The walk moves on from the index it was visiting (R72 <4>). -/
  | visitDone
  deriving DecidableEq, Repr

/-- A LOOKUP that waits for a write (R180); the key where it asked by short key. -/
structure LookupWait where
  req : Req
  byKey : Option ShortKey
  deriving DecidableEq, Repr

/-- An outstanding write of a catalogue entry: the record it stores (with the lodge high-water it raises, R13), and what
follows its completion. -/
structure EntryWrite where
  index : Nat
  entry : Entry
  highWater : Option Nat := none
  effects : List Effect := []
  hit : Option Hit := none
  lookups : List LookupWait := []
  deriving DecidableEq, Repr

/-- Why a Hold Table slot is being written (R56, R57, R58, R59). -/
inductive SlotPurpose
  /-- PLACE HOLD of the link. -/
  | placed (r : Req)
  /-- A hold entered from a peer's frame. -/
  | entered
  /-- LIFT HOLD of the link. -/
  | lifted (r : Req)
  /-- A peer's LIFT, with the lift time of its frame. -/
  | liftHeard (time : Nat)
  deriving DecidableEq, Repr

/-- An outstanding write of a Hold Table slot; `waiters` are duplicate PLACE HOLDs that wait for it (R55 <4>). -/
structure SlotWrite where
  slot : Nat
  record : Option HoldRec
  matter : Matter
  purpose : SlotPurpose
  waiters : List Req := []
  deriving DecidableEq, Repr

/-! ### Walks (chapter 4) -/

/-- The kind of a walk, with the start epoch a refresh walk keeps (R69). -/
inductive WalkKind
  | load
  | refresh (startEpoch : BitVec 32)
  deriving DecidableEq, Repr

/-- The walk record of a running walk (R69). `visiting` names the index whose visit's write is outstanding. -/
structure Walk where
  kind : WalkKind
  next : Nat
  visiting : Option Nat := none
  deriving DecidableEq, Repr

/-- The settle period (R82): not begun, running until a core time, or ended. -/
inductive Settle
  | notBegun
  | until (deadline : Nat)
  | ended
  deriving DecidableEq, Repr

/-! ### Service answers (chapter 11) -/

/-- What INSPECT STATUS reports beyond the status block (R190, Table 12-9). -/
structure Inspection where
  sendCount : Nat
  recvCount : Nat
  runCount : Nat
  recoveryCount : Nat
  walk : Option Walk
  pendingWalk : Bool
  settleEnded : Bool
  cursor : Nat
  freeCount : Nat
  watchKey : Option ShortKey
  watchLog : List WatchRec
  deriving DecidableEq, Repr

/-- What INSPECT CLOCK reports (R190). -/
structure ClockReport where
  rt : Nat
  rtValid : Bool
  bdt : Nat
  rf : Nat
  floorWrite : Option Nat
  lastKnown : Nat
  highWater : Nat
  quorumSkew : Option (Nat × Nat)
  deriving DecidableEq, Repr

/-- The body of a service answer (Table 12-9). An INSPECT PEER answer carries the last-heard time in milliseconds. -/
inductive SvcBody
  | empty
  | status (b : StatusBlock) (i : Inspection)
  | entry (index : Nat) (e : Entry)
  | slot (h : Option HoldSlot)
  | peer (p : Peer) (lastHeard : Option Nat)
  | clock (c : ClockReport)
  deriving DecidableEq, Repr

/-- A service answer: the three parts of its status byte (R189), the outcome and the body. -/
structure SvcAnswer where
  changing : Bool
  watchMark : Bool
  node : NodeState
  reply : Reply
  body : SvcBody
  deriving DecidableEq, Repr

/-! ### The blocks -/

/-- Power, the input pins as they stand, and the count of MEDIA_ABORT pulses made (log 11). -/
structure Pins where
  power : Power := .on
  guardAsserted : Bool := false
  mediaReady : Bool := false
  svcEn : Bool := false
  presentedSize : Nat := 0
  mediaAborts : Nat := 0
  deriving DecidableEq, Repr

/-- Catalogue Controller (chapter 1). `unread` holds the indices whose record the store port has reported unreadable to the
next action that needs it (R11, log 48). -/
structure Ctc where
  node : NodeState := .awaitingStart
  work : Cat := []
  writes : List EntryWrite := []
  freeList : List Nat := []
  highWater : Nat := 0
  eraseDone : List (Nat × Nat) := []
  holdLateKey : Option ShortKey := none
  loaded : Nat := 0
  loadStopped : Bool := false
  settingsRead : Option Settings := none
  inForce : Option Settings := none
  unread : List Nat := []
  deriving DecidableEq, Repr

/-- Retention Clock (chapter 2). -/
structure Rck where
  rt : Nat := 0
  rtValid : Bool := false
  bdt : Nat := 0
  rf : Nat := 0
  floorWrites : List Nat := []
  deriving DecidableEq, Repr

/-- Hold Unit (chapter 3). -/
structure Hdu where
  slots : List (Option HoldSlot) := List.replicate holdTableSize none
  writes : List SlotWrite := []
  lifted : List Lifted := []
  epoch : BitVec 32 := 0
  doubt : Doubt := { start := true }
  doubtTimer : Option Nat := none
  roundTimer : Option Nat := none
  deriving DecidableEq, Repr

/-- Refresh Walker (chapter 4). -/
structure Rwk where
  walk : Option Walk := none
  pendingWalk : Bool := false
  settle : Settle := .notBegun
  loadEnded : Bool := false
  deriving DecidableEq, Repr

/-- Peer Bus Controller (chapters 5 and 6). -/
structure Pbc where
  ownId : NodeId := 0
  bitRate : Nat := 1
  rateChange : Option Nat := none
  awaitingEleven : Bool := true
  sendOpen : Bool := false
  sendQueue : List SendItem := []
  attempt : Option PeerFrame := none
  heldBeacon : Bool := false
  restrainedWait : Bool := false
  rxFifo : List RxItem := []
  dupId : Bool := false
  ackDriven : Bool := false
  errorSeq : Option ErrorSeq := none
  sendCount : Nat := 0
  recvCount : Nat := 0
  confinement : Confinement := .voiced
  caution : Bool := false
  runCount : Nat := 0
  recoveryCount : Nat := 0
  peers : List Peer := { presence := .self } :: List.replicate 15 {}
  beaconTimer : Option Nat := none
  deriving DecidableEq, Repr

/-- Census Unit (chapter 7). -/
structure Cnu where
  appeals : List Appeal := []
  candidates : List Candidate := []
  claims : List Claim := []
  repairs : List Nat := []
  openSpace : Nat := 0
  deriving DecidableEq, Repr

/-- Extent Gate (8.1, 8.2). -/
structure Exg where
  runs : List Run := []
  reportedSize : Nat := 0
  sizeTaken : Bool := false
  loadedEnd : Nat := 0
  deriving DecidableEq, Repr

/-- Media Arbiter (8.3, 8.4). -/
structure Mar where
  gated : List HostCmd := []
  verifies : List VerifyWork := []
  erases : List EraseWork := []
  grantedErase : Option EraseWork := none
  inFlight : Option InFlight := none
  timer : Option Nat := none
  issueTag : Byte := 0
  hostSeq : Nat := 0
  disposeSeq : Nat := 0
  deriving DecidableEq, Repr

/-- Scrub Scheduler (chapter 9). -/
structure Scs where
  cursor : Nat := 0
  cursorWrites : List Nat := []
  balance : Int := 0
  tickTimer : Option Nat := none
  request : Option Nat := none
  owed : Bool := false
  scrubbable : Nat := 0
  waitingDormant : Option Req := none
  wake : Option Req := none
  mediaSleep : Bool := false
  deriving DecidableEq, Repr

/-- Request Link Interface (10.1 to 10.6). -/
structure Rli where
  requests : List Req := []
  answers : List ReadyAnswer := []
  notices : List Notice := []
  noticeStamp : Nat := 0
  tx : Option TxFrame := none
  starting : Option Starting := none
  moment : Nat := 0
  deriving DecidableEq, Repr

/-- Event Unit (10.7): flags and enables in the layout of Table 12-1. After a reset the GUARD enable alone is set. -/
structure Evu where
  flags : EventMask := 0
  enables : EventMask := 0x010000
  deriving DecidableEq, Repr

/-- Service Line Interface (chapter 11). -/
structure Sli where
  watchKey : Option ShortKey := none
  watchLog : List WatchRec := []
  answer : Option SvcAnswer := none
  deriving DecidableEq, Repr

/-- The whole machine: the catalogue store, the twelve blocks, the pins, the model's core clock and count of free
values, and the commands that wait. -/
structure State where
  pins : Pins := {}
  store : Store := {}
  ctc : Ctc := {}
  rck : Rck := {}
  hdu : Hdu := {}
  rwk : Rwk := {}
  pbc : Pbc := {}
  cnu : Cnu := {}
  exg : Exg := {}
  mar : Mar := {}
  scs : Scs := {}
  rli : Rli := {}
  evu : Evu := {}
  sli : Sli := {}
  coreMs : Nat := 0
  free : Nat := 0
  pending : List Instr := []
  deriving DecidableEq, Repr

/-- The machine right after reset: a cold start of a blank store with SLOT at 0, the time domain unpowered and the input
pins inactive (log 4). Every field has its default but the two that the reset's end itself brings about: MEDIA_ABORT has
pulsed once (R157), and CLOCK is latched since RT is found invalid (R34 <5>, R187). -/
def State.reset : State :=
  { pins := { mediaAborts := 1 }, evu := { flags := 0x100000 } }

/-- No rule of the manual stops the part: a failed store access, a media failure and a bus error are states of it
(R11, R147, R107). So no meaning raises a fault. Safe: nothing is hidden behind one. -/
inductive Fault
  deriving DecidableEq, Repr

/-- A command with no meaning. -/
inductive Refusal
  /-- The command of this mnemonic is not modelled. Raised by an arm of `exec` only, for a command without a meaning;
  safe, since nothing can be concluded about a run that stops there. Every command has its meaning, so none is. -/
  | notModelled (mnemonic : String)
  deriving DecidableEq, Repr

end Sys2Proof.Machine
end

