-- ==== Sys2Proof/Machine/Flags.lean ====
section
/-! DEFINITION. The Event Unit (10.7): the nineteen events with their codes, raising and clearing, the pending events,
the top code and ALERT_N. -/

namespace Sys2Proof.Machine

/-- The events of R185's table, in its order. -/
inductive Event
  | guard
  | storeFault
  | holdLate
  | holdDoubt
  | clock
  | damaged
  | releasable
  | dupId
  | busState
  | rxOverflow
  | rxAlmostFull
  | presence
  | malformed
  | mediaTimeout
  | scrubLag
  | candidateFull
  | appealFull
  | claimLapsed
  | watchHit
  deriving DecidableEq, Repr

/-- The events in the order the top code takes them: group A, then B, then C (R186 <2>). -/
def allEvents : List Event :=
  [.guard, .storeFault, .holdLate, .holdDoubt, .clock, .damaged, .releasable,
   .dupId, .busState, .rxOverflow, .rxAlmostFull, .presence, .malformed,
   .mediaTimeout, .scrubLag, .candidateFull, .appealFull, .claimLapsed, .watchHit]

/-- The code of an event (R185). -/
def Event.code : Event → Nat
  | .guard => 0x11
  | .storeFault => 0x12
  | .holdLate => 0x13
  | .holdDoubt => 0x14
  | .clock => 0x15
  | .damaged => 0x16
  | .releasable => 0x17
  | .dupId => 0x21
  | .busState => 0x22
  | .rxOverflow => 0x23
  | .rxAlmostFull => 0x24
  | .presence => 0x25
  | .malformed => 0x26
  | .mediaTimeout => 0x31
  | .scrubLag => 0x32
  | .candidateFull => 0x33
  | .appealFull => 0x34
  | .claimLapsed => 0x35
  | .watchHit => 0x36

/-- The bit of an event in the event mask: byte 0 (bits 23 to 16) is group A, byte 1 group B, byte 2 group C, and within
a group bit i stands for the event whose code ends in i + 1 (Table 12-1). -/
def Event.bit (e : Event) : Nat := 8 * (3 - e.code / 16) + (e.code % 16 - 1)

/-- The mask of one event. -/
def Event.mask (e : Event) : EventMask := BitVec.twoPow 24 e.bit

/-- The bits of the mask that stand for an event; the others are unused and ignored (R193 <3>). -/
def usedEvents : EventMask := 0x7F3F3F

/-- Raising an event latches its flag; raising a latched one changes nothing (R185). -/
def raise (e : Event) (s : State) : State :=
  { s with evu := { s.evu with flags := s.evu.flags ||| e.mask } }

/-- Whether an event's flag is latched. -/
def latched (s : State) (e : Event) : Bool := s.evu.flags.getLsbD e.bit

/-- An event is pending when its flag is latched and its enable is set (R186). -/
def isPending (s : State) (e : Event) : Bool := latched s e && s.evu.enables.getLsbD e.bit

/-- The code of the first pending event, or 0x00 (R186 <2>). -/
def topCode (s : State) : Nat :=
  match allEvents.find? (isPending s) with
  | some e => e.code
  | none => 0

/-- ALERT_N is low while at least one event is pending (R186 <1>). -/
def alertLow (s : State) : Bool := allEvents.any (isPending s)

/-- CLEAR EVENTS clears the marked flags; GUARD is raised again at once while GUARD_N stays asserted (R148, R185). -/
def clearFlags (mask : EventMask) (s : State) : State :=
  let cleared := { s with evu := { s.evu with flags := s.evu.flags &&& ~~~ mask } }
  if s.pins.guardAsserted && mask.getLsbD Event.guard.bit && latched s .guard then raise .guard cleared else cleared

/-- SET EVENT ENABLES sets each enable to its mark (R186). -/
def setEnables (mask : EventMask) (s : State) : State :=
  { s with evu := { s.evu with enables := mask &&& usedEvents } }

end Sys2Proof.Machine
end

