-- ==== Sys2Proof/Machine/Values.lean ====
section
/-! DEFINITION. The manual's computations on plain values: sets of node ids, extents, expiry, custodian matching,
placement order, and the sorted choice of bounded time. Nothing here reads or changes the state. -/

namespace Sys2Proof.Machine

/-! ### Sets of node ids (Table 12-1 "holder set") -/

/-- The sixteen node ids, lowest first. -/
def allNodes : List NodeId := (List.range 16).map (BitVec.ofNat 4)

/-- Whether a set names a node. -/
def setHas (set : NodeSet) (id : NodeId) : Bool := set.getLsbD id.toNat

/-- A set with a node added. -/
def setAdd (set : NodeSet) (id : NodeId) : NodeSet := set ||| BitVec.twoPow 16 id.toNat

/-- A set with a node removed. -/
def setRemove (set : NodeSet) (id : NodeId) : NodeSet := set &&& ~~~ BitVec.twoPow 16 id.toNat

/-- The members of a set, lowest first. -/
def setMembers (set : NodeSet) : List NodeId := allNodes.filter (setHas set)

/-- The set of the nodes of a list. -/
def setOf (ids : List NodeId) : NodeSet := ids.foldl setAdd 0

/-! ### Extents (R1, R144) -/

/-- The block after an extent's last. -/
def Extent.stop (e : Extent) : Nat := e.first + e.count

/-- Whether two extents share a block (R17 <8>, R144). -/
def sharesBlock (a b : Extent) : Bool :=
  decide (a.first < b.stop) && decide (b.first < a.stop)

/-- Whether two extents of one list share a block (R17 <8>). -/
def selfOverlap : List Extent → Bool
  | [] => false
  | e :: es => es.any (sharesBlock e) || selfOverlap es

/-- The size of an entry in blocks: "always the sum of the block counts of the extents field" (R1). -/
def extentsSize (es : List Extent) : Nat := (es.map Extent.count).sum

/-- A run's blocks. -/
def Run.extent (r : Run) : Extent := ⟨r.first, r.count⟩

/-! ### Time and expiry (R43, R45, R46) -/

/-- The last day boundary at or below a time (R43). -/
def dayAtOrBelow (t : Nat) : Nat := t / daySeconds * daySeconds

/-- The smallest day boundary at or above a time (R45 <2>). -/
def dayAtOrAbove (t : Nat) : Nat := (t + (daySeconds - 1)) / daySeconds * daySeconds

/-- The expiry of a parcel from its lodge time and class period, `none` being UNBOUNDED (R45, R46). -/
def expiryOf (lodgeTime : Nat) (period : Option Nat) : Nat :=
  match period with
  | none => rtMax
  | some days =>
    let boundary := dayAtOrAbove (lodgeTime + days * daySeconds)
    if rtMax ≤ boundary then rtMax else boundary

/-- Insertion into a list kept from largest to smallest. -/
def insertLargest (x : Nat) : List Nat → List Nat
  | [] => [x]
  | y :: ys => if y ≤ x then x :: y :: ys else y :: insertLargest x ys

/-- A list sorted from largest to smallest, equal values kept as separate members (R42 <3>). -/
def sortLargest : List Nat → List Nat
  | [] => []
  | x :: xs => insertLargest x (sortLargest xs)

/-! ### Custodian matching (R53) -/

/-- The custodian of a code's length and bytes: bytes beyond the length are ignored and kept as 0 (R193 <3>). -/
def custodianOf (len : Nat) (code : BitVec 32) : Custodian :=
  ⟨len, code &&& ~~~ (BitVec.allOnes 32 >>> (8 * len))⟩

/-- Whether a hold matches a custodian code: the leading c bits agree, c the lesser of n and 8b (R53). -/
def holdMatches (h : HoldRec) (c : Custodian) : Bool :=
  let lead := min h.patLen (8 * c.len)
  decide ((c.code ^^^ h.pattern) >>> (32 - lead) = 0)

/-- The number of occupied slots whose hold matches (R54). -/
def matchCount (slots : List (Option HoldSlot)) (c : Custodian) : Nat :=
  slots.countP fun slot =>
    match slot with
    | some h => holdMatches h.hold c
    | none => false

/-! ### Placement order (R124) -/

/-- The stride of a short key's placement order: odd, from 1 to 15 (R124). -/
def placementStride (key : ShortKey) : Nat := 2 * (key.toNat / 16 % 8) + 1

/-- The node ids in the placement order of a short key (R124). -/
def placementOrder (key : ShortKey) : List NodeId :=
  (List.range 16).map fun i => BitVec.ofNat 4 (key.toNat % 16 + i * placementStride key)

/-- A node's placement position for a short key: its place in that order (R124). -/
def placementPosition (key : ShortKey) (id : NodeId) : Nat := (placementOrder key).idxOf id

/-! ### Lists -/

/-- Insertion of an index into a list kept in rising order. -/
def insertIndex (i : Nat) : List Nat → List Nat
  | [] => [i]
  | j :: js => if i < j then i :: j :: js else if i = j then j :: js else j :: insertIndex i js

/-- The first element that satisfies a test, changed, the rest kept. -/
def updateFirst {α : Type} (p : α → Bool) (f : α → α) : List α → List α
  | [] => []
  | x :: xs => if p x then f x :: xs else x :: updateFirst p f xs

/-- The list without the first element that satisfies a test. -/
def removeFirst {α : Type} (p : α → Bool) : List α → List α
  | [] => []
  | x :: xs => if p x then xs else x :: removeFirst p xs

/-- The last element that satisfies a test, changed, the rest kept. -/
def updateLast {α : Type} (p : α → Bool) (f : α → α) (xs : List α) : List α :=
  (updateFirst p f xs.reverse).reverse

end Sys2Proof.Machine
end

