-- ==== Sys2Proof/Machine/Operands.lean ====
section
/-! DEFINITION. The operand forms of the requests (Tables 12-3 and 12-4): extent slots, custodian codes, the
configuration record with its clamps, and the layout checks RLI makes before a request enters the queue (R193 <4>). -/

namespace Sys2Proof.Machine

/-- The short key is the first 8 bytes of the full key (R1, R193 <1>). -/
def shortKeyOf (key : FullKey) : ShortKey := key.extractLsb' 192 64

/-- Extent slot `i`: a 5-byte start block and a 4-byte block count, the first slot first (Table 12-3). -/
def slotExtent (slots : BitVec 576) (i : Nat) : Extent :=
  ⟨(slots.extractLsb' (72 * (7 - i) + 32) 40).toNat, (slots.extractLsb' (72 * (7 - i)) 32).toNat⟩

/-- The first `n` extent slots, in parcel order. -/
def usedSlots (slots : BitVec 576) (n : Nat) : List Extent := (List.range n).map (slotExtent slots)

/-- Whether the extent operands fit their layout: a count of 1 to 8, and each used slot's block count 1 to 2^24
(R193 <4>). -/
def extentsFit (extCount : Byte) (slots : BitVec 576) : Bool :=
  decide (1 ≤ extCount.toNat) && decide (extCount.toNat ≤ 8) &&
    (usedSlots slots extCount.toNat).all fun e => decide (1 ≤ e.count) && decide (e.count ≤ 16777216)

/-- Clamping to the nearest limit of a range (R176 <4>). -/
def clamp (low high x : Nat) : Nat := max low (min high x)

/-- `n` bytes of the configuration record from byte `at`, most significant first (Table 12-4). -/
def recordField (r : BitVec 416) (off n : Nat) : Nat :=
  r.toNat / 2 ^ (8 * (52 - off - n)) % 2 ^ (8 * n)

/-- A class period as sent: 0xFFFF is UNBOUNDED, and greater values than 36,500 are clamped (R193 <5>). -/
def periodOf (days : Nat) : Option Nat := if days = 0xFFFF then none else some (min 36500 days)

/-- The settings of a configuration record, each numeric setting clamped to its range (R176 <4>, 10.3, Table 12-4). -/
def settingsOf (r : BitVec 416) : Settings where
  k := clamp 1 8 (recordField r 0 1)
  q := clamp 1 9 (recordField r 1 1)
  periods := (List.range 16).map fun c => periodOf (recordField r (2 + 2 * c) 2)
  beacon := clamp 1 60 (recordField r 34 1)
  skew := clamp 1 3600 (recordField r 35 2)
  holdRound := clamp 60 3600 (recordField r 37 2)
  appealStep := clamp 5 1000 (recordField r 39 2)
  recruitStep := clamp 5 1000 (recordField r 41 2)
  claimLifetime := clamp 1 240 (recordField r 43 1)
  scrubTick := clamp 1 86400 (recordField r 44 4)
  mediaTimeout := clamp 1 600 (recordField r 48 2)
  bitRate := clamp 0 3 (recordField r 50 1)
  scrubAbort := decide (recordField r 51 1 ≠ 0)

/-- Whether a new class period is shorter than the stored one: the stored one UNBOUNDED and the new one not, or both
bounded and the new one the smaller (R176 <5>). -/
def shortens (stored new : Option Nat) : Bool :=
  match stored, new with
  | none, some _ => true
  | some p, some p' => decide (p' < p)
  | _, none => false

/-- The lowest class whose period the new settings shorten (R176 <5>). -/
def shortenedClass (stored new : Settings) : Option Nat :=
  (List.range 16).find? fun c =>
    shortens (stored.periods.getD c (some 0)) (new.periods.getD c (some 0))

/-- Whether an index operand names an entry, 0 to 131,071 (R1). -/
def indexFits (index : BitVec 24) : Bool := decide (index.toNat < catalogueSize)

end Sys2Proof.Machine
end

