-- ==== Sys2Proof/Machine/Ops.lean ====
section
/-! DEFINITION. Operations every block shares: the core supply, the settings in force, the core clock's units, the free
values, and the request link (answers, notices, the transmitter, the request queue). -/

namespace Sys2Proof.Machine

/-! ### Supply, settings and clock -/

/-- A command takes effect while core power is on; without it nothing takes it (R33, log 12). -/
def powered (s : State) (f : State → State) : Host.Outcome State Fault Refusal :=
  .next (if s.pins.power = .on then f s else s)

/-- Seconds in the core clock's milliseconds. -/
def seconds (n : Nat) : Nat := 1000 * n

/-- A setting in force, or the given value before START (R178). -/
def inForceOr {α : Type} (s : State) (f : Settings → α) (before : α) : α :=
  match s.ctc.inForce with
  | some c => f c
  | none => before

/-- The copy target K in force. -/
def copyTarget (s : State) : Nat := inForceOr s Settings.k 0

/-- The class period of a class in force (R47). -/
def periodInForce (s : State) (cls : Nat) : Option Nat :=
  inForceOr s (fun c => c.periods.getD cls (some 0)) (some 0)

/-- The claim lifetime in milliseconds (R129, R137). -/
def claimLifetime (s : State) : Nat := inForceOr s (fun c => seconds (60 * c.claimLifetime)) 0

/-- The presence window: three beacon intervals in force; before START those of the stored settings as read, and 60
seconds each where none were read (R117). -/
def presenceWindow (s : State) : Nat :=
  match s.ctc.inForce, s.ctc.settingsRead with
  | some c, _ => seconds (3 * c.beacon)
  | none, some c => seconds (3 * c.beacon)
  | none, none => seconds 180

/-- A deadline that is set and has come. -/
def isDue (s : State) (deadline : Option Nat) : Bool :=
  match deadline with
  | some t => decide (t ≤ s.coreMs)
  | none => false

/-- Whether hold doubt stands: its set of causes is not empty (R63). -/
def doubtStands (s : State) : Bool := s.hdu.doubt.start || s.hdu.doubt.loss || s.hdu.doubt.overflow

/-- The last known time (R35). -/
def lastKnown (s : State) : Nat := if s.rck.rtValid then s.rck.rt else max s.rck.rf s.ctc.highWater

/-- The media size: the greater of the reported size and the end of the highest ENTRY run the load walk placed
(R145 <3>). -/
def mediaSize (s : State) : Nat := max s.exg.reportedSize s.exg.loadedEnd

/-- A free value of whether a cut write landed, and the state with the count of free values advanced (R9, log 5). -/
def takeLanding (s : State) : Bool × State :=
  (Config.cutWriteLands s.free, { s with free := s.free + 1 })

/-! ### Answers and notices (10.1, 10.2, 10.6) -/

/-- An answer becomes ready (R173). -/
def pushAnswer (a : Answer) (s : State) : State :=
  { s with rli := { s.rli with answers := s.rli.answers ++ [⟨s.rli.moment, a⟩] } }

/-- The owner ends a request of the request queue (R174). -/
def answerReq (r : Req) (o : Reply) (res : Results) (s : State) : State := pushAnswer ⟨r, true, o, res⟩ s

/-- RLI answers a frame that does not enter the request queue (R173 <3>, R174 <1> and <2>). -/
def answerAtOnce (r : Req) (o : Reply) (s : State) : State := pushAnswer ⟨r, false, o, .none⟩ s

/-- A notice is posted when a slot of the Notice Queue is free, and otherwise leaves no trace (R183). The head notice is
ready (R173). -/
def postNotice (n : Notice) (s : State) : State :=
  if s.rli.notices.length < 32 then
    { s with rli := { s.rli with
        notices := s.rli.notices ++ [n]
        noticeStamp := if s.rli.notices = [] then s.rli.moment else s.rli.noticeStamp } }
  else s

/-- The frames that wait for the transmitter, each with the moment it became ready (R173). -/
def waitingFrames (s : State) : List (Nat × TxFrame) :=
  s.rli.answers.map (fun a => (a.stamp, TxFrame.answer a.answer)) ++
    match s.rli.notices with
    | [] => []
    | n :: _ => [(s.rli.noticeStamp, .notice n)]

/-- The waiting frames that became ready earliest (R173). -/
def earliestFrames (s : State) : List (Nat × TxFrame) :=
  (waitingFrames s).filter fun w => (waitingFrames s).all fun v => decide (w.1 ≤ v.1)

/-- The transmitter begins a frame; a notice stays in the queue until it has been sent (R173). -/
def beginTx (w : Nat × TxFrame) (s : State) : State :=
  match w.2 with
  | .answer a => { s with rli := { s.rli with answers := s.rli.answers.erase ⟨w.1, a⟩, tx := some w.2 } }
  | .notice _ => { s with rli := { s.rli with tx := some w.2 } }

/-- An idle transmitter takes the waiting frame that became ready earliest; among frames ready at one moment a free value
picks (R173, log 7). -/
def startTx (s : State) : State :=
  if s.rli.tx.isSome then s
  else
    match earliestFrames s with
    | [] => s
    | [w] => beginTx w s
    | w :: ws =>
      beginTx ((w :: ws).getD (Config.firstToSend s.free % (ws.length + 1)) w) { s with free := s.free + 1 }

/-- The moment of readiness ends with a command that made a frame ready. -/
def closeMoment (s : State) : State :=
  if (waitingFrames s).any (fun w => decide (w.1 = s.rli.moment)) then
    { s with rli := { s.rli with moment := s.rli.moment + 1 } }
  else s

/-- The link's part at the end of a command: what became ready in it became so at one moment, and an idle transmitter
begins (R173). -/
def linkEnd (s : State) : State := startTx (closeMoment s)

/-! ### Request arrival (R173, R174) -/

/-- Whether a request of this tag is outstanding (R174 <2>): one of the request queue, whose answer has not been sent. A request
that was answered FULL, BUSY or BAD_FIELD at once never entered the queue and is none (log 54). -/
def tagOutstanding (s : State) (tag : Byte) : Bool := s.rli.requests.any fun r => decide (r.tag = tag)

/-- A request enters the request queue (R174). -/
def enterQueue (r : Req) (s : State) : State := { s with rli := { s.rli with requests := s.rli.requests ++ [r] } }

/-- A request arrives: one outside its layout is answered BAD_FIELD at once (R193 <4>), and otherwise R174 answers FULL
or BUSY at once or hands it to its owner. -/
def arrive (r : Req) (fits : Bool) (owner : State → State) (s : State) : State :=
  if !fits then answerAtOnce r .badField s
  else if 32 ≤ s.rli.requests.length then answerAtOnce r .full s
  else if tagOutstanding s r.tag then answerAtOnce r .busy s
  else owner (enterQueue r s)

/-- A request taken by its owner, with the link's part at the end; `kind` is the request kind of Table 12-3. A frame with
tag 0 is discarded (R173 <2>). -/
def request (tag kind : Byte) (fits : Bool) (s : State) (owner : Req → State → State) :
    Host.Outcome State Fault Refusal :=
  powered s fun s => if tag = 0 then s else linkEnd (arrive ⟨tag, kind⟩ fits (owner ⟨tag, kind⟩) s)

/-- Checks in order: the outcome of the first that fails (R17, R23, R25, R36, R55, R57, R146, R167, R176). Each is the
condition under which it fails, with the answer it then gives. -/
def firstFailing : List (Bool × Reply × Results) → Option (Reply × Results)
  | [] => none
  | (fails, answer) :: rest => if fails then some answer else firstFailing rest

/-- A request that is checked and, if it passes, accepted. -/
def checked (r : Req) (checks : List (Bool × Reply × Results)) (accept : State → State) (s : State) : State :=
  match firstFailing checks with
  | some (o, res) => answerReq r o res s
  | none => accept s

/-- The node-state check of a request taken in RUNNING alone: NOT_READY in AWAITING START and LOADING, NOT_NOW in DORMANT
and WAKING, STORE_FAULT in STORE FAULT (R17 <1>, R25 <1>, R36 <1>, R167 <1>). -/
def runningOnly (s : State) : List (Bool × Reply × Results) :=
  [(decide (s.ctc.node = .awaitingStart ∨ s.ctc.node = .loading), .notReady, .node s.ctc.node),
   (decide (s.ctc.node = .dormant ∨ s.ctc.node = .waking), .notNow, .node s.ctc.node),
   (decide (s.ctc.node = .storeFault), .storeFault, .none)]

/-- The node-state check of a request served from RUNNING on, STORE FAULT included (R179, R180, R181). -/
def afterLoading (s : State) : List (Bool × Reply × Results) :=
  [(decide (s.ctc.node = .awaitingStart ∨ s.ctc.node = .loading), .notReady, .node s.ctc.node)]

/-- The status block as it stands (R182). -/
def statusBlock (s : State) : StatusBlock where
  flags := s.evu.flags
  enables := s.evu.enables
  topCode := topCode s
  node := s.ctc.node
  confinement := s.pbc.confinement
  caution := s.pbc.caution
  dupId := s.pbc.dupId
  doubt := s.hdu.doubt
  guardAsserted := s.pins.guardAsserted
  rtValid := s.rck.rtValid
  owedScrub := s.scs.owed
  holdLateKey := s.ctc.holdLateKey
  epoch := s.hdu.epoch
  rt := s.rck.rt
  rf := s.rck.rf
  bdt := s.rck.bdt
  mediaSize := mediaSize s
  balance := s.scs.balance
  noticeCount := s.rli.notices.length
  ownId := s.pbc.ownId

/-- What CLEAR EVENTS and SET EVENT ENABLES answer: status block bytes 0 to 6 (Table 12-5). -/
def eventResults (s : State) : Results := .events s.evu.flags s.evu.enables (topCode s)

end Sys2Proof.Machine
end

