-- ==== Sys2Proof/Machine/Catalogue.lean ====
section
/-! DEFINITION. The Retention Catalogue's records and their durable writing (1.1, 1.4, 1.5): reading and writing a
sparse catalogue in canonical form, finding an entry by its short key, the census terms of R8, the working copy with its
outstanding writes (R9, R10), and the watch hits that follow a change (R191). -/

namespace Sys2Proof.Machine

/-! ### The sparse catalogue -/

/-- The FREE record, without an owed DROP (R2): what an unlisted index reads as. -/
def freeEntry : Entry := {}

/-- The record at an index: an unlisted index holds the FREE record (R2). -/
def catGet (c : Cat) (i : Nat) : Entry :=
  match c with
  | [] => freeEntry
  | (j, e) :: rest => if j = i then e else catGet rest i

/-- The catalogue with the record at an index replaced, in canonical form: a record equal to the FREE record is not
listed. -/
def catSet (c : Cat) (i : Nat) (e : Entry) : Cat :=
  match c with
  | [] => if e = freeEntry then [] else [(i, e)]
  | (j, f) :: rest =>
    if i < j then if e = freeEntry then (j, f) :: rest else (i, e) :: (j, f) :: rest
    else if i = j then if e = freeEntry then rest else (i, e) :: rest
    else (j, f) :: catSet rest i e

/-- The canonical form: indices strictly rising, no listed record equal to the FREE record. -/
def catWf : Cat → Bool
  | [] => true
  | (i, e) :: rest => decide (e ≠ freeEntry) && rest.all (fun p => decide (i < p.1)) && catWf rest

/-- The working copy of an entry (R9: "every read of the record inside the IX640 sees the working copy"). -/
def entryAt (s : State) (i : Nat) : Entry := catGet s.ctc.work i

/-- Whether the read of a record fails for the action at hand, which passes over it without change in STORE FAULT (R11,
log 48). -/
def skips (s : State) (i : Nat) : Bool := decide (s.ctc.node = .storeFault) && decide (i ∈ s.ctc.unread)

/-- An action that has gone through the records it needs leaves no failed read behind (R11, log 48). -/
def readDone (s : State) : State := { s with ctc := { s.ctc with unread := [] } }

/-- An action that needs the record of an entry, or passes over it where its read fails (R11, log 48). -/
def withRecord (i : Nat) (act : State → State) (s : State) : State := if skips s i then readDone s else act s

/-- Whether an entry is not FREE. -/
def Entry.occupied (e : Entry) : Bool := decide (e.state ≠ .free)

/-- An owed-free entry: a FREE entry whose DROP is still owed (R2). -/
def Entry.owedFree (e : Entry) : Bool := decide (e.state = .free ∧ e.owed = .dropFrame)

/-- The index of the non-FREE entry with a short key, in a catalogue (R3). -/
def catFind (c : Cat) (key : ShortKey) : Option Nat :=
  (c.find? fun p => p.2.occupied && decide (p.2.shortKey = key)).map Prod.fst

/-- The indices CTC reads for a frame or LOOKUP: in a STORE FAULT that stopped the load walk, those loaded before the
failed read (R81); otherwise all, an entry not yet visited being found in the store (R16). -/
def readableCat (s : State) : Cat :=
  if s.ctc.loadStopped then s.ctc.work.filter fun p => decide (p.1 < s.ctc.loaded) else s.ctc.work

/-- The non-FREE entry with a short key as CTC finds it (R16, R81). -/
def findKey (s : State) (key : ShortKey) : Option Nat := catFind (readableCat s) key

/-! ### Census terms (R8) -/

/-- Whether a node is PRESENT in the Peer Table. -/
def isPresent (s : State) (id : NodeId) : Bool := decide ((s.pbc.peers.getD id.toNat {}).presence = .present)

/-- The members of a set that are PRESENT (R8, R131). -/
def presentMembers (s : State) (set : NodeSet) : List NodeId := (setMembers set).filter (isPresent s)

/-- States that count toward the node's own live copy (1.2, R8 <1>). -/
def ownCopy (st : EntryState) : Bool := decide (st = .retained ∨ st = .releasable ∨ st = .disposing)

/-- The live holders of an entry: PRESENT members of its holder set, plus 1 for its own live copy (R8 <1>). -/
def liveHolders (s : State) (e : Entry) : Nat :=
  (presentMembers s e.holders).length + (ownCopy e.state).toNat

/-- An entry is short when its live holders are fewer than K (R8 <2>). -/
def isShort (s : State) (e : Entry) : Bool := decide (liveHolders s e < copyTarget s)

/-- RETAINED or RELEASABLE: a stored copy, which SCS scrubs (R5 <2>, R159). -/
def storedCopy (st : EntryState) : Bool := decide (st = .retained ∨ st = .releasable)

/-- An entry is eligible for appeal (R8 <3>). -/
def eligibleForAppeal (s : State) (e : Entry) : Bool :=
  storedCopy e.state && (decide (s.rck.rf < e.expiry) || decide (0 < e.holdCount))

/-- The number of holds of the working Hold Table that match a custodian code (R54). -/
def holdsOn (s : State) (c : Custodian) : Nat := matchCount s.hdu.slots c

/-! ### Watch hits (R191) -/

/-- The causes a change of an entry brings, scrub results apart: a change of state, hold count or holder set. The filling
of a FREE entry's fields at an acceptance, and their discarding at a freeing, are the change of state alone (log 16). -/
def changeCauses (before after : Entry) : HitCauses where
  state := decide (before.state ≠ after.state)
  holdCount := decide (after.state ≠ .free ∧ before.holdCount ≠ after.holdCount)
  holder := decide (after.state ≠ .free ∧ before.holders ≠ after.holders)

/-- The hit of a change, if it has a cause. -/
def hitOf (i : Nat) (key : ShortKey) (after : Entry) (c : HitCauses) : Option Hit :=
  if c = {} then none else some ⟨key, c, i, after.state, after.holdCount, after.holders⟩

/-- A hit on the watch key appends a record to the Watch Log, a ninth overwriting the oldest, and raises WATCH_HIT
(R191). -/
def recordHit (h : Option Hit) (s : State) : State :=
  match h with
  | none => s
  | some h =>
    if s.sli.watchKey = some h.key then
      let log := s.sli.watchLog ++ [⟨s.rck.rt, s.rck.rtValid, h⟩]
      raise .watchHit { s with sli := { s.sli with watchLog := log.drop (log.length - 8) } }
    else s

/-! ### The working copy and its writes (R9, R10) -/

/-- SCS takes a report of an entry into or out of RETAINED and RELEASABLE in the same event, once the entry's load visit
has counted it; a count that falls to 0 clears the owed-scrub marker (R159, R172 <3>). -/
def noteScrubbable (i : Nat) (before after : EntryState) (s : State) : State :=
  if s.ctc.loaded ≤ i ∨ storedCopy before = storedCopy after then s
  else if storedCopy after then { s with scs := { s.scs with scrubbable := s.scs.scrubbable + 1 } }
  else
    { s with scs := { s.scs with
        scrubbable := s.scs.scrubbable - 1
        owed := s.scs.owed && decide (1 < s.scs.scrubbable) } }

/-- The working copy of an entry takes a change (R9). -/
def setWork (i : Nat) (e : Entry) (s : State) : State :=
  { s with ctc := { s.ctc with work := catSet s.ctc.work i e } }

/-- A write of an entry's working copy is begun, or queued behind an outstanding write of it (R10). In STORE FAULT no
write is made, and a watch hit is recorded when the change is taken (R10, R191). -/
def queueWrite (w : EntryWrite) (s : State) : State :=
  if s.ctc.node = .storeFault then recordHit w.hit s
  else { s with ctc := { s.ctc with writes := s.ctc.writes ++ [w] } }

/-- A change of an entry with given watch causes: working copy, SCS's count, and the write with what follows it. -/
def changeEntry (i : Nat) (e : Entry) (causes : HitCauses) (effects : List Effect) (s : State) : State :=
  let before := entryAt s i
  let key := if before.occupied then before.shortKey else e.shortKey
  queueWrite { index := i, entry := e, effects := effects, hit := hitOf i key e causes }
    (noteScrubbable i before.state e.state (setWork i e s))

/-- A change of an entry with nothing outside it waiting for the write. -/
def putEntry (i : Nat) (e : Entry) (s : State) : State :=
  changeEntry i e (changeCauses (entryAt s i) e) [] s

/-- Whether a write of an entry is outstanding: the entry is marked changing (R10). -/
def isChanging (s : State) (i : Nat) : Bool := s.ctc.writes.any fun w => decide (w.index = i)

/-- Whether an entry is still DISPOSING in the working copy, with no other state in a write still to come (R26 <3>,
log 29). -/
def stillDisposing (s : State) (i : Nat) : Bool :=
  decide ((entryAt s i).state = .disposing) &&
    s.ctc.writes.all fun w => decide (w.index ≠ i) || decide (w.entry.state = .disposing)

/-- The index of a FREE entry that owes no DROP returns to the free-entry list (R2, R6). -/
def returnIndex (i : Nat) (s : State) : State :=
  if (entryAt s i).occupied || (entryAt s i).owedFree then s
  else { s with ctc := { s.ctc with freeList := insertIndex i s.ctc.freeList } }

/-- A FREE entry owes its DROP: it keeps its short key, and its index is on the free-entry list no longer (R2, R29). -/
def oweDrop (i : Nat) (key : ShortKey) (s : State) : State :=
  putEntry i { shortKey := key, owed := .dropFrame }
    { s with ctc := { s.ctc with freeList := s.ctc.freeList.erase i } }

end Sys2Proof.Machine
end

