-- ==== Sys2Proof/Machine/Formats.lean ====
section
/-! DEFINITION. The layouts of chapter 12 and the line rules of 5.1 to 5.3: bytes and bits of peer frames, request link
frames and service frames, the check, the fill bits, arbitration, and the reading of raw frames into commands. -/

namespace Sys2Proof.Machine

/-! ### Bytes and bits (R193) -/

/-- A number as `n` bytes, most significant first (R193 <1>). -/
def toBytes (n x : Nat) : List Byte := (List.range n).map fun i => BitVec.ofNat 8 (x / 256 ^ (n - 1 - i))

/-- The number that bytes spell, most significant first (R193 <1>). -/
def ofBytes (bs : List Byte) : Nat := bs.foldl (fun a b => a * 256 + b.toNat) 0

/-- The bits of a field, most significant first; `true` is the recessive level, bit value 1 (R85, R87). -/
def fieldBits (w x : Nat) : List Bool := (List.range w).map fun i => x.testBit (w - 1 - i)

/-- The number that bits spell, most significant first. -/
def ofBits (bits : List Bool) : Nat := bits.foldl (fun a b => 2 * a + b.toNat) 0

/-- The bits of bytes in the order they are sent. -/
def bytesBits (bs : List Byte) : List Bool := bs.flatMap fun b => fieldBits 8 b.toNat

/-- One bit into the check register: generator x^16 + x^12 + x^5 + 1 (R89). -/
def checkStep (reg : BitVec 16) (bit : Bool) : BitVec 16 :=
  if (reg.getLsbD 15) ^^ bit then (reg <<< 1) ^^^ 0x1021#16 else reg <<< 1

/-- The check of a run of bits: the register starts at all ones and is not inverted at the end (R89). -/
def checkOf (bits : List Bool) : BitVec 16 := bits.foldl checkStep 0xFFFF#16

/-! ### Peer frames on the line (R87 to R89) -/

/-- A frame as its fields: the length field is the payload's length (R87). -/
structure RawFrame where
  kind : BitVec 3
  sender : NodeId
  payload : List Byte
  deriving DecidableEq, Repr

/-- The fields the check covers: kind, sender id, length, payload (R89). -/
def coveredBits (f : RawFrame) : List Bool :=
  fieldBits 3 f.kind.toNat ++ fieldBits 4 f.sender.toNat ++ fieldBits 6 f.payload.length ++ bytesBits f.payload

/-- The start bit through the check, before fill bits are inserted (R87). -/
def plainBits (f : RawFrame) : List Bool :=
  false :: coveredBits f ++ fieldBits 16 (checkOf (coveredBits f)).toNat

/-- Insertion of a fill bit of the other level after every 7 consecutive bits of equal level; the fill bit is the first
bit of the next run (R88). `run` bits of level `level` stand before. -/
def insertFill (run : Nat) (level : Bool) : List Bool → List Bool
  | [] => []
  | b :: bs =>
    let run' := if b = level then run + 1 else 1
    if run' = 7 then b :: (!b) :: insertFill 1 (!b) bs else b :: insertFill run' b bs

/-- A receiver's removal of fill bits; `none` is a fill error, 8 equal bits where a fill bit should stand, or a cut
before a fill bit (R88). -/
def removeFill (run : Nat) (level : Bool) : List Bool → Option (List Bool)
  | [] => some []
  | b :: bs =>
    let run' := if b = level then run + 1 else 1
    if run' = 7 then
      match bs with
      | [] => none
      | fill :: rest => if fill = b then none else (removeFill 1 fill rest).map (b :: ·)
    else (removeFill run' b bs).map (b :: ·)

/-- The bits of a frame as its sender sends them: start bit through check with fill bits, then the acknowledgement slot
(sent recessive), its delimiter and the seven recessive bits of the end field (R87, R88). -/
def frameBits (f : RawFrame) : List Bool :=
  insertFill 0 true (plainBits f) ++ List.replicate 9 true

/-- Bytes from bits, eight at a time. -/
def bitsBytes : Nat → List Bool → List Byte
  | 0, _ => []
  | n + 1, bits => BitVec.ofNat 8 (ofBits (bits.take 8)) :: bitsBytes n (bits.drop 8)

/-- A receiver's reading of the bits from the start bit through the check: the frame when its fill bits are in place, its
length field matches the bits read and its check is good, and otherwise the error it detects (R88, R89, R107). -/
def readFrameBits (bits : List Bool) : Except RecvFault RawFrame :=
  match removeFill 0 true bits with
  | none => .error .fill
  | some plain =>
    let body := plain.drop 1
    let length := ofBits ((body.drop 7).take 6)
    let covered := body.take (13 + 8 * length)
    if ofBits (body.drop (13 + 8 * length)) = (checkOf covered).toNat ∧ body.length = 29 + 8 * length then
      .ok ⟨BitVec.ofNat 3 (ofBits (body.take 3)), BitVec.ofNat 4 (ofBits ((body.drop 3).take 4)),
        bitsBytes length (body.drop 13)⟩
    else .error .check

/-- The 7-bit arbitration value: the kind above the id (R87). -/
def arbitrationValue (kind : BitVec 3) (id : NodeId) : BitVec 7 := kind ++ id

/-- Contention over the arbitration field, bit by bit from the most significant: the line carries dominant (0) when either
sends it, and the sender that sent recessive and reads dominant has lost (R85, R91 <1>). -/
def losesBits : List Bool → List Bool → Bool
  | mine :: ms, other :: os =>
    let line := mine && other
    if mine && !line then true else if other && !line then false else losesBits ms os
  | _, _ => false

/-- Whether a fill bit stands among the arbitration bits: the start bit and six dominant bits call for one before the last
(R88, R91). -/
def fillInField (value : BitVec 7) : Bool := decide (value.toNat ≤ 1)

/-- Whether a sender of arbitration value `mine` loses the line to what the line carried instead, of value `other`: to a
smaller value, or, with the values equal, at the recessive fill bit of its own field read dominant (R91, log 25). -/
def losesArbitration (mine other : BitVec 7) : Bool :=
  losesBits (fieldBits 7 mine.toNat) (fieldBits 7 other.toNat) || (decide (mine = other) && fillInField mine)

/-- The recessive bits at the end of a frame's bits as sent from start bit to check, fill bits included (R87, R88, R114). -/
def recessiveTail (f : RawFrame) : Nat := ((insertFill 0 true (plainBits f)).reverse.takeWhile id).length

/-! ### Payloads (R94, Table 12-2) -/

/-- The kind value of a frame (R94). -/
def kindOf : PeerFrame → BitVec 3
  | .hold .. => 0
  | .lift .. => 1
  | .drop .. => 2
  | .claim .. => 3
  | .want .. => 4
  | .haveCopy .. => 5
  | .beacon .. => 6

/-- The table length of a kind; kind 7 has none (R94). -/
def tableLength (kind : BitVec 3) : Option Nat :=
  match kind.toNat with
  | 0 => some 14
  | 1 => some 9
  | 2 => some 9
  | 3 => some 8
  | 4 => some 25
  | 5 => some 14
  | 6 => some 6
  | _ => none

/-- The code of a DROP reason (Table 12-1). -/
def dropReasonCode : DropReason → Nat
  | .damaged => 1
  | .disposed => 2

/-- The payload bytes of a frame (Table 12-2). -/
def payloadOf : PeerFrame → List Byte
  | .hold m n p t => toBytes 4 m.toNat ++ toBytes 1 n ++ toBytes 4 p.toNat ++ toBytes 5 t
  | .lift m t => toBytes 4 m.toNat ++ toBytes 5 t
  | .drop k r => toBytes 8 k.toNat ++ toBytes 1 (dropReasonCode r)
  | .claim k => toBytes 8 k.toNat
  | .want w =>
    toBytes 8 w.key.toNat ++ toBytes 5 w.lodgeTime ++ toBytes 1 ((if w.held then 128 else 0) + w.cls) ++
      toBytes 4 w.size ++ toBytes 1 w.cust.len ++ toBytes 4 w.cust.code.toNat ++ toBytes 2 w.holders.toNat
  | .haveCopy k t c => toBytes 8 k.toNat ++ toBytes 5 t ++ toBytes 1 c
  | .beacon rt invalid dormant fault =>
    toBytes 5 rt ++ toBytes 1 (invalid.toNat + 2 * dormant.toNat + 4 * fault.toNat)

/-- The whole frame a node of id `id` sends for its contents. -/
def rawOf (id : NodeId) (f : PeerFrame) : RawFrame := ⟨kindOf f, id, payloadOf f⟩

/-- The number in bytes `off` to `off + n - 1` of a payload or body. -/
def field (bs : List Byte) (off n : Nat) : Nat := ofBytes ((bs.drop off).take n)

/-- A received payload by its kind: `none` when R102 finds the frame malformed. A HOLD's pattern length above 32 is
clamped; unused bits are ignored (R102). -/
def readPayload (kind : BitVec 3) (bs : List Byte) : Option PeerFrame :=
  if tableLength kind = some bs.length then
    match kind.toNat with
    | 0 => some (.hold (BitVec.ofNat 32 (field bs 0 4)) (min 32 (field bs 4 1)) (BitVec.ofNat 32 (field bs 5 4)) (field bs 9 5))
    | 1 => some (.lift (BitVec.ofNat 32 (field bs 0 4)) (field bs 4 5))
    | 2 =>
      let key := BitVec.ofNat 64 (field bs 0 8)
      match field bs 8 1 with
      | 1 => some (.drop key .damaged)
      | 2 => some (.drop key .disposed)
      | _ => none
    | 3 => some (.claim (BitVec.ofNat 64 (field bs 0 8)))
    | 4 =>
      let cls := field bs 13 1 % 128
      let len := field bs 18 1
      if 15 < cls ∨ len = 0 ∨ 4 < len then none
      else some (.want ⟨BitVec.ofNat 64 (field bs 0 8), field bs 8 5, cls, decide (128 ≤ field bs 13 1), field bs 14 4,
        custodianOf len (BitVec.ofNat 32 (field bs 19 4)), BitVec.ofNat 16 (field bs 23 2)⟩)
    | 5 => if 15 < field bs 13 1 then none else some (.haveCopy (BitVec.ofNat 64 (field bs 0 8)) (field bs 8 5) (field bs 13 1))
    | 6 =>
      let marks := field bs 5 1
      some (.beacon (field bs 0 5) (marks.testBit 0) (marks.testBit 1) (marks.testBit 2))
    | _ => none
  else none

/-! ### Codes (Table 12-1) -/

/-- Entry state codes. -/
def EntryState.code : EntryState → Nat
  | .free => 0
  | .lodging => 1
  | .retained => 2
  | .releasable => 3
  | .disposing => 4
  | .damaged => 5

/-- Node state codes. -/
def NodeState.code : NodeState → Nat
  | .awaitingStart => 0
  | .loading => 1
  | .running => 2
  | .dormant => 3
  | .waking => 4
  | .storeFault => 5

/-- Confinement state codes. -/
def Confinement.code : Confinement → Nat
  | .voiced => 0
  | .restrained => 1
  | .silent => 2

/-- Presence codes. -/
def Presence.code : Presence → Nat
  | .absent => 0
  | .present => 1
  | .self => 2

/-- Time marker codes. -/
def TimeMarker.code : TimeMarker → Nat
  | .usable => 0
  | .skewed => 1
  | .invalid => 2

/-- Origin codes. -/
def Origin.code : Origin → Nat
  | .lodgedHere => 0
  | .adopted => 1

/-- Announce owed codes. -/
def Owed.code : Owed → Nat
  | .nothing => 0
  | .haveFrame => 1
  | .dropFrame => 2

/-- Scrub result codes, 0 where there is none. -/
def scrubResultCode : Option MediaResult → Nat
  | some .matched => 1
  | some .mismatched => 2
  | some _ => 3
  | none => 0

/-- Outcome codes: 0x00 to 0x19 in the order of R175 (12.3). -/
def Reply.code : Reply → Nat
  | .done => 0x00
  | .known => 0x01
  | .full => 0x02
  | .notReady => 0x03
  | .notNow => 0x04
  | .busy => 0x05
  | .badField => 0x06
  | .outOfRange => 0x07
  | .overlap => 0x08
  | .writeProtected => 0x09
  | .keyClash => 0x0A
  | .checkMismatch => 0x0B
  | .mediaFault => 0x0C
  | .clockInvalid => 0x0D
  | .timeLow => 0x0E
  | .catalogueFull => 0x0F
  | .notReleasable => 0x10
  | .notDamaged => 0x11
  | .held => 0x12
  | .guarded => 0x13
  | .tableFull => 0x14
  | .unknownKey => 0x15
  | .unknownMatter => 0x16
  | .shorten => 0x17
  | .scrubOwed => 0x18
  | .storeFault => 0x19

/-! ### Records and blocks (Tables 12-6, 12-7, 12-9) -/

/-- One extent slot: 5-byte start block and 4-byte block count. -/
def extentBytes (e : Extent) : List Byte := toBytes 5 e.first ++ toBytes 4 e.count

/-- Eight extent slots, those beyond the list sent as 0 (R193 <3>). -/
def extentSlotBytes (es : List Extent) : List Byte :=
  (List.range 8).flatMap fun i => extentBytes (es.getD i ⟨0, 0⟩)

/-- The full key field: a FREE entry carries none, but an owed-free one shows its short key in bytes 5 to 12 (R193 <3>). -/
def keyBytes (e : Entry) : List Byte :=
  if e.state = .free then toBytes 8 e.shortKey.toNat ++ toBytes 24 0 else toBytes 32 e.fullKey.toNat

/-- The entry record, bytes 0 to 138 (Table 12-6). The bytes of an absent last scrub time are 0 (log 47). -/
def entryRecord (i : Nat) (e : Entry) : List Byte :=
  toBytes 3 i ++ toBytes 1 e.state.code ++
    toBytes 1 (e.lastScrub.isSome.toNat + 2 * e.refill.isSome.toNat + 4 * e.eraseBegun.toNat + 16 * e.owed.code) ++
    keyBytes e ++ toBytes 1 e.cust.len ++ toBytes 4 e.cust.code.toNat ++ toBytes 1 e.cls ++ toBytes 1 e.origin.code ++
    toBytes 5 e.lodgeTime ++ toBytes 5 e.expiry ++ toBytes 4 (extentsSize e.extents) ++ toBytes 1 e.extents.length ++
    extentSlotBytes e.extents ++ toBytes 2 e.holders.toNat ++ toBytes 1 e.holdCount ++ toBytes 5 (e.lastScrub.getD 0)

/-- The refill extents that follow on the service line, bytes 139 to 211 (Table 12-6). -/
def refillRecord (e : Entry) : List Byte :=
  toBytes 1 (e.refill.getD []).length ++ extentSlotBytes (e.refill.getD [])

/-- The status block, 46 bytes (Table 12-7). The scrub balance is in two's complement; with no HOLD_LATE key its bytes are 0
(log 47). -/
def statusBytes (b : StatusBlock) : List Byte :=
  toBytes 3 b.flags.toNat ++ toBytes 3 b.enables.toNat ++ toBytes 1 b.topCode ++ toBytes 1 b.node.code ++
    toBytes 1 b.confinement.code ++
    toBytes 2 (b.caution.toNat + 2 * b.dupId.toNat + 4 * (b.doubt.start || b.doubt.loss || b.doubt.overflow).toNat +
      8 * b.doubt.start.toNat + 16 * b.doubt.loss.toNat + 32 * b.doubt.overflow.toNat + 64 * b.guardAsserted.toNat +
      128 * b.rtValid.toNat + 256 * b.owedScrub.toNat + 512 * b.holdLateKey.isSome.toNat) ++
    toBytes 4 b.epoch.toNat ++ toBytes 8 (b.holdLateKey.getD 0).toNat ++ toBytes 5 b.rt ++ toBytes 5 b.rf ++
    toBytes 5 b.bdt ++ toBytes 5 b.mediaSize ++ [BitVec.ofInt 8 b.balance] ++ toBytes 1 b.noticeCount ++
    toBytes 1 b.ownId.toNat

/-- The results of an answer (Table 12-5). The bytes of an absent resume index are 0 (log 47). -/
def resultBytes : Results → List Byte
  | .none => []
  | .index i => toBytes 3 i
  | .space n => toBytes 5 n
  | .entry i e => entryRecord i e
  | .releasable found resume =>
    toBytes 1 found.length ++ toBytes 1 resume.isSome.toNat ++ toBytes 3 (resume.getD 0) ++
      found.flatMap fun p => toBytes 3 p.1 ++ toBytes 8 p.2.toNat
  | .status b => statusBytes b
  | .events flags enables top => toBytes 3 flags.toNat ++ toBytes 3 enables.toNat ++ toBytes 1 top
  | .node n => toBytes 1 n.code
  | .floors rf hw => toBytes 5 rf ++ toBytes 5 hw
  | .entryState st => toBytes 1 st.code
  | .holdCount n => toBytes 1 n
  | .cls c => toBytes 1 c

/-- A request link frame: length, tag, kind, body and check (12.3). -/
def linkFrame (tag kind : Byte) (body : List Byte) : List Byte :=
  let covered := toBytes 2 (2 + body.length) ++ [tag, kind] ++ body
  covered ++ toBytes 2 (checkOf (bytesBits covered)).toNat

/-- The bytes of an answer frame (R175, 12.3). -/
def answerBytes (a : Answer) : List Byte :=
  linkFrame a.req.tag a.req.kind (toBytes 1 a.reply.code ++ resultBytes a.results)

/-- The contents shared by the two FETCH notices after their purpose (Table 12-8). -/
def fetchBytes (index : Nat) (key : ShortKey) (lodgeTime cls : Nat) (cust : Custodian) (size : Nat) (holders : NodeSet) : List Byte :=
  toBytes 3 index ++ toBytes 8 key.toNat ++ toBytes 5 lodgeTime ++ toBytes 1 cls ++ toBytes 1 cust.len ++
    toBytes 4 cust.code.toNat ++ toBytes 4 size ++ toBytes 2 holders.toNat

/-- The bytes of a notice frame, tag 0 (Table 12-8). -/
def noticeBytes : Notice → List Byte
  | .fetchAdoption k t c cu sz h => linkFrame 0 0x81 (toBytes 1 0 ++ fetchBytes 0 k t c cu sz h)
  | .fetchRefill i k t c cu sz h => linkFrame 0 0x81 (toBytes 1 1 ++ fetchBytes i k t c cu sz h)
  | .releasable i k => linkFrame 0 0x82 (toBytes 3 i ++ toBytes 8 k.toNat)
  | .damaged i k => linkFrame 0 0x83 (toBytes 3 i ++ toBytes 8 k.toNat)
  | .holdEntered m n p id => linkFrame 0 0x84 (toBytes 4 m.toNat ++ toBytes 1 n ++ toBytes 4 p.toNat ++ toBytes 1 id.toNat)
  | .claimLapsed k => linkFrame 0 0x85 (toBytes 8 k.toNat)

/-- The bytes on RLK_TX of the frame being sent. -/
def txBytes : TxFrame → List Byte
  | .answer a => answerBytes a
  | .notice n => noticeBytes n

/-- A Watch Log record, 14 bytes (12.4). -/
def watchBytes (r : WatchRec) : List Byte :=
  toBytes 5 r.rt ++
    toBytes 1 (r.rtValid.toNat + 2 * r.hit.causes.lodged.toNat + 4 * r.hit.causes.adopted.toNat + 8 * r.hit.causes.state.toNat +
      16 * r.hit.causes.holdCount.toNat + 32 * r.hit.causes.holder.toNat + 64 * r.hit.causes.scrub.isSome.toNat) ++
    toBytes 3 r.hit.index ++ toBytes 1 r.hit.state.code ++ toBytes 1 r.hit.holdCount ++ toBytes 2 r.hit.holders.toNat ++
    toBytes 1 (scrubResultCode r.hit.causes.scrub)

/-- The walk kind code of INSPECT STATUS: 0 none, 1 LOAD, 2 REFRESH (Table 12-9). -/
def walkCode : Option Walk → Nat
  | none => 0
  | some w =>
    match w.kind with
    | .load => 1
    | .refresh _ => 2

/-- The body of a service answer (Table 12-9). The bytes of a value that is absent are 0: the watch key, the next index with
no walk, an empty slot's hold, a stamp, a reception or last-heard time, a floor value being written, Q and the skew limit
(log 47). -/
def svcBodyBytes : SvcBody → List Byte
  | .empty => []
  | .status b i =>
    statusBytes b ++ toBytes 1 i.sendCount ++ toBytes 1 i.recvCount ++ toBytes 1 i.runCount ++ toBytes 1 i.recoveryCount ++
      toBytes 1 (walkCode i.walk) ++ toBytes 3 ((i.walk.map Walk.next).getD 0) ++
      toBytes 1 (i.pendingWalk.toNat + 2 * i.settleEnded.toNat + 4 * i.watchKey.isSome.toNat) ++ toBytes 3 i.cursor ++
      toBytes 3 i.freeCount ++ toBytes 8 (i.watchKey.getD 0).toNat ++ toBytes 1 i.watchLog.length ++ i.watchLog.flatMap watchBytes
  | .entry i e => entryRecord i e ++ refillRecord e
  | .slot none => toBytes 17 0
  | .slot (some h) =>
    toBytes 1 1 ++ toBytes 4 h.hold.matter.toNat ++ toBytes 1 h.hold.patLen ++ toBytes 4 h.hold.pattern.toNat ++
      toBytes 5 h.hold.placed ++
      toBytes 1 (h.hold.unknown.toNat + 2 * h.lifting.toNat + 4 * h.heard.toNat + 8 * h.sendOwed.toNat) ++
      toBytes 1 h.hold.origin.toNat
  | .peer p heard =>
    toBytes 1 p.presence.code ++ toBytes 1 p.marker.code ++
      toBytes 1 (p.stamp.isSome.toNat + 2 * p.localTime.isSome.toNat + 4 * heard.isSome.toNat + 8 * p.dormant.toNat +
        16 * p.fault.toNat) ++
      toBytes 5 (p.stamp.getD 0) ++ toBytes 5 (p.localTime.getD 0) ++ toBytes 4 (min 0xFFFFFFFF (heard.getD 0))
  | .clock c =>
    toBytes 5 c.rt ++ toBytes 1 (c.rtValid.toNat + 2 * c.floorWrite.isSome.toNat + 4 * c.quorumSkew.isSome.toNat) ++
      toBytes 5 c.bdt ++ toBytes 5 c.rf ++ toBytes 5 (c.floorWrite.getD 0) ++ toBytes 5 c.lastKnown ++ toBytes 5 c.highWater ++
      toBytes 1 (c.quorumSkew.getD (0, 0)).1 ++ toBytes 2 (c.quorumSkew.getD (0, 0)).2

/-- The status byte of a service answer (12.4). -/
def svcStatusByte (a : SvcAnswer) : Nat := 128 * a.changing.toNat + 64 * a.watchMark.toNat + a.node.code

/-- The bytes of a service answer (12.4). -/
def svcAnswerBytes (a : SvcAnswer) : List Byte :=
  let body := toBytes 1 (svcStatusByte a) ++ toBytes 1 a.reply.code ++ svcBodyBytes a.body
  let covered := toBytes 2 body.length ++ body
  covered ++ toBytes 2 (checkOf (bytesBits covered)).toNat

/-! ### Reading raw frames -/

/-- What RLI makes of the bytes of a frame (R173): a discard, a BAD_FIELD at once, or a request. -/
inductive LinkRead
  | discard
  | badField (tag kind : Byte)
  | request (i : Instr)
  deriving DecidableEq, Repr

/-- The operand length of a request kind; `none` names no request (Table 12-3). -/
def operandLength (kind : Byte) : Option Nat :=
  match kind.toNat with
  | 0x01 => some 53
  | 0x02 => some 5
  | 0x03 => some 5
  | 0x04 => some 111
  | 0x05 => some 116
  | 0x06 => some 76
  | 0x07 => some 3
  | 0x08 => some 9
  | 0x09 => some 4
  | 0x0A => some 9
  | 0x0B => some 4
  | 0x0C => some 17
  | 0x0D => some 17
  | 0x0E => some 17
  | 0x0F => some 0
  | 0x10 => some 0
  | 0x11 => some 0
  | 0x12 => some 3
  | 0x13 => some 3
  | _ => none

/-- Bytes `off` to `off + n - 1` of a body as a field of `w` bits. -/
def bvField (w : Nat) (bs : List Byte) (off n : Nat) : BitVec w := BitVec.ofNat w (field bs off n)

/-- The request of a kind byte, tag and operands of the right length (Table 12-3). -/
def requestOf (tag kind : Byte) (b : List Byte) : Option Instr :=
  match kind.toNat with
  | 0x01 => some (.start tag (bvField 8 b 0 1) (bvField 416 b 1 52))
  | 0x02 => some (.setTime tag (bvField 40 b 0 5))
  | 0x03 => some (.setSpace tag (bvField 40 b 0 5))
  | 0x04 => some (.lodge tag (bvField 256 b 0 32) (bvField 8 b 32 1) (bvField 32 b 33 4) (bvField 8 b 37 1) (bvField 8 b 38 1) (bvField 576 b 39 72))
  | 0x05 => some (.adopt tag (bvField 256 b 0 32) (bvField 8 b 32 1) (bvField 32 b 33 4) (bvField 8 b 37 1) (bvField 40 b 38 5) (bvField 8 b 43 1) (bvField 576 b 44 72))
  | 0x06 => some (.refill tag (bvField 24 b 0 3) (bvField 8 b 3 1) (bvField 576 b 4 72))
  | 0x07 => some (.dispose tag (bvField 24 b 0 3))
  | 0x08 => some (.placeHold tag (bvField 32 b 0 4) (bvField 8 b 4 1) (bvField 32 b 5 4))
  | 0x09 => some (.liftHold tag (bvField 32 b 0 4))
  | 0x0A => some (.lookup tag (bvField 8 b 0 1) (bvField 64 b 1 8))
  | 0x0B => some (.listReleasable tag (bvField 24 b 0 3) (bvField 8 b 3 1))
  | 0x0C => some (.mediaRead tag (bvField 40 b 0 5) (bvField 32 b 5 4) (bvField 64 b 9 8))
  | 0x0D => some (.mediaWrite tag (bvField 40 b 0 5) (bvField 32 b 5 4) (bvField 64 b 9 8))
  | 0x0E => some (.mediaTrim tag (bvField 40 b 0 5) (bvField 32 b 5 4) (bvField 64 b 9 8))
  | 0x0F => some (.dormant tag)
  | 0x10 => some (.wake tag)
  | 0x11 => some (.readStatus tag)
  | 0x12 => some (.clearEvents tag (bvField 24 b 0 3))
  | 0x13 => some (.setEventEnables tag (bvField 24 b 0 3))
  | _ => none

/-- RLI's reading of a received frame (R173): bad check or cut short, discarded; tag 0, discarded; a kind that names no
request or an operand length that is not the kind's, BAD_FIELD; any other frame, its request. A good frame of length 0 or 1,
with no room for tag and kind, is discarded, and bytes given after the check of a frame are ignored (log 10). -/
def readLinkFrame (bytes : List Byte) : LinkRead :=
  let length := field bytes 0 2
  let covered := bytes.take (2 + length)
  if bytes.length < 4 + length ∨ length < 2 then .discard
  else if field bytes (2 + length) 2 ≠ (checkOf (bytesBits covered)).toNat then .discard
  else
    let tag := bvField 8 bytes 2 1
    let kind := bvField 8 bytes 3 1
    let body := covered.drop 4
    if tag = 0 then .discard
    else if operandLength kind = some body.length then
      match requestOf tag kind body with
      | some i => .request i
      | none => .badField tag kind
    else .badField tag kind

/-- What SLI makes of the bytes of a service command (R188): a discard, a BAD_FIELD answer, or a command. -/
inductive SvcRead
  | discard
  | badField
  | command (i : Instr)
  deriving DecidableEq, Repr

/-- The service command of a kind byte and operand; `none` for an unknown kind or an operand of another length
(Table 12-9). -/
def svcCommandOf (kind : Byte) (b : List Byte) : Option Instr :=
  match kind.toNat, b.length with
  | 0x01, 0 => some .inspectStatus
  | 0x02, 3 => some (.inspectEntry (bvField 24 b 0 3))
  | 0x03, 8 => some (.inspectKey (bvField 64 b 0 8))
  | 0x04, 1 => some (.inspectHold (bvField 8 b 0 1))
  | 0x05, 1 => some (.inspectPeer (bvField 8 b 0 1))
  | 0x06, 0 => some .inspectClock
  | 0x07, 8 => some (.setWatch (bvField 64 b 0 8))
  | 0x08, 0 => some .clearWatch
  | _, _ => none

/-- SLI's reading of a received command (R188 <2>, 12.4). A good frame of length 0, with no room for a kind, is discarded,
and bytes given after the check of a frame are ignored (log 10). -/
def readSvcFrame (bytes : List Byte) : SvcRead :=
  let length := field bytes 0 1
  let covered := bytes.take (1 + length)
  if bytes.length < 3 + length ∨ length < 1 then .discard
  else if field bytes (1 + length) 2 ≠ (checkOf (bytesBits covered)).toNat then .discard
  else
    match svcCommandOf (bvField 8 bytes 1 1) (covered.drop 2) with
    | some i => .command i
    | none => .badField

end Sys2Proof.Machine
end

