-- ==== Sys2Proof/Machine/SendQueue.lean ====
section
/-! DEFINITION. The Send Queue (5.5) and the announcements CTC offers to it (1.11). -/

namespace Sys2Proof.Machine

/-- The kind of a queued frame. -/
def SendItem.kind (i : SendItem) : BitVec 3 :=
  match i.content with
  | .beacon => 6
  | .frame f => kindOf f

/-- A frame's place in the queue: after every frame of its own or a lower kind (R95). -/
def insertSend (i : SendItem) : List SendItem → List SendItem
  | [] => [i]
  | j :: js => if i.kind < j.kind then i :: j :: js else j :: insertSend i js

/-- Whether an offered frame enters: the queue is open, holds fewer than 16 frames, and neither DUP_ID nor SILENT refuses
it (R95). -/
def canOffer (s : State) : Bool :=
  s.pbc.sendOpen && decide (s.pbc.sendQueue.length < 16) && !s.pbc.dupId && decide (s.pbc.confinement ≠ .silent)

/-- A frame enters the queue at its place (R95 <1>). -/
def enqueue (i : SendItem) (s : State) : State :=
  { s with pbc := { s.pbc with sendQueue := insertSend i s.pbc.sendQueue } }

/-- A queued frame that its payload tells its producer. -/
def enqueueFrame (f : PeerFrame) (s : State) : State := enqueue { content := .frame f } s

/-! ### BEACON (R96, R119) -/

/-- The BEACON filled at the start bit of an attempt, from the state at that moment (R96). -/
def filledBeacon (s : State) : PeerFrame :=
  .beacon s.rck.rt (!s.rck.rtValid) (decide (s.ctc.node = .dormant ∨ s.ctc.node = .waking)) (decide (s.ctc.node = .storeFault))

/-- Whether a queued frame is the BEACON. -/
def SendItem.isBeacon (i : SendItem) : Bool := decide (i.content = .beacon)

/-- The beacon source offers a BEACON (R96, R119): none while SILENT or DUP_ID; one held behind a BEACON in an attempt; a
queued one replaced by itself, since it carries no contents; and otherwise entered or skipped. -/
def offerBeacon (s : State) : State :=
  if s.pbc.dupId ∨ s.pbc.confinement = .silent ∨ !s.pbc.sendOpen then s
  else if s.pbc.sendQueue.any (fun i => i.isBeacon && i.inAttempt) then
    { s with pbc := { s.pbc with heldBeacon := true } }
  else if s.pbc.sendQueue.any SendItem.isBeacon then s
  else if canOffer s then enqueue { content := .beacon } s
  else s

/-! ### Announcements of CTC (R29) -/

/-- A later announcement of an entry replaces an earlier one: frames of it still queued are not owed again if discarded
(R29). -/
def supersede (i : Nat) (s : State) : State :=
  { s with pbc := { s.pbc with sendQueue := s.pbc.sendQueue.map fun q =>
      match q.producer with
      | .announcement j _ => if j = i then { q with producer := .announcement j true } else q
      | _ => q } }

/-- A new entry's HAVE is held while an owed-free entry of the same short key still owes its DROP (R29), among the indices
that CTC reads (R81). -/
def heldBack (s : State) (key : ShortKey) : Bool :=
  (readableCat s).any fun p => p.2.owedFree && decide (p.2.shortKey = key)

/-- The HAVE of an entry: short key, lodge time and class (R29). -/
def haveOf (e : Entry) : PeerFrame := .haveCopy e.shortKey e.lodgeTime e.cls

/-- A change of announce owed of a non-FREE entry, written like any change of it (R29); none where it already stands so. -/
def setOwed (i : Nat) (o : Owed) (s : State) : State :=
  let e := entryAt s i
  if e.owed = o ∨ e.state = .free then s else putEntry i { e with owed := o } s

/-- HAVE is offered for an entry: it enters the queue, or announce owed is set to HAVE (R29). -/
def announceHave (i : Nat) (s : State) : State :=
  let e := entryAt s i
  let s := supersede i s
  if canOffer s && !heldBack s e.shortKey then
    setOwed i .nothing (enqueue { content := .frame (haveOf e), producer := .announcement i false } s)
  else setOwed i .haveFrame s

/-- DROP with reason DAMAGED is offered for an entry (R29 <2>). -/
def announceDamaged (i : Nat) (s : State) : State :=
  let e := entryAt s i
  let s := supersede i s
  if canOffer s then
    setOwed i .nothing (enqueue { content := .frame (.drop e.shortKey .damaged), producer := .announcement i false } s)
  else setOwed i .dropFrame s

/-- DROP with reason DISPOSED is offered for a freed entry: its index returns to the free-entry list, or the FREE entry
keeps its short key and owes the DROP (R2, R6, R27, R29 <3>). -/
def announceDisposed (i : Nat) (key : ShortKey) (s : State) : State :=
  let s := supersede i s
  if canOffer s then
    returnIndex i (enqueue { content := .frame (.drop key .disposed), producer := .announcement i false } s)
  else oweDrop i key s

/-- Whether CTC may be granted a slot for an entry: it owes an announcement that is not held back, the load walk has read it,
and its record can be read now (R11, R29, R30, R98). -/
def grantable (s : State) (p : Nat × Entry) : Bool :=
  decide (p.1 < s.ctc.loaded) && decide (p.2.owed ≠ .nothing) &&
    !(decide (p.2.owed = .haveFrame) && heldBack s p.2.shortKey) && !skips s p.1

/-- The frame of an owed announcement, built from the entry as it then is (R29): a FREE entry's DROP has reason
DISPOSED, any other's DAMAGED. -/
def owedFrame (e : Entry) : PeerFrame :=
  match e.owed with
  | .dropFrame => .drop e.shortKey (if e.state = .free then .disposed else .damaged)
  | _ => haveOf e

/-- An owed announcement enters the queue: announce owed becomes none, and the index of an owed-free entry goes to the
free-entry list (R2, R29). -/
def sendOwed (i : Nat) (e : Entry) (s : State) : State :=
  let s := enqueue { content := .frame (owedFrame e), producer := .announcement i false } s
  if e.state = .free then returnIndex i (putEntry i freeEntry s)
  else putEntry i { e with owed := .nothing } s

/-- The grant to CTC: the owed entry of lowest index (R29, R98 <2>). -/
def grantCtc (s : State) : Option State :=
  match s.ctc.work.find? (grantable s) with
  | some (i, e) => some (sendOwed i e s)
  | none => none

end Sys2Proof.Machine
end

