-- ==== Sys2Proof/Machine/Census.lean ====
section
/-! DEFINITION. The Census Unit (chapter 7): ranks, the Appeal List, repair announcements, candidates, claims, and the
owed census frames a grant takes. -/

namespace Sys2Proof.Machine

/-! ### Ranks (R125) -/

/-- Whether a node's placement position for a key is smaller than the own node's (R124, R125). -/
def standsBefore (s : State) (key : ShortKey) (id : NodeId) : Bool :=
  decide (placementPosition key id < placementPosition key s.pbc.ownId)

/-- The appeal rank of an entry: its live holders that stand before the node (R125 <1>). -/
def appealRank (s : State) (e : Entry) : Nat :=
  ((presentMembers s e.holders).filter (standsBefore s e.shortKey)).length

/-- The appeal delay in milliseconds (R125 <1>). -/
def appealDelay (s : State) (e : Entry) : Nat := appealRank s e * inForceOr s Settings.appealStep 0

/-- The recruit rank: the PRESENT peers outside the holder set that stand before the node (R125 <2>). -/
def recruitRank (s : State) (key : ShortKey) (holders : NodeSet) : Nat :=
  (allNodes.filter fun id => isPresent s id && !setHas holders id && standsBefore s key id).length

/-- The recruit delay of a rank in milliseconds (R125 <2>). -/
def recruitDelay (s : State) (rank : Nat) : Nat := rank * inForceOr s Settings.recruitStep 0

/-- Whether the settle period has begun and ended since the last reset (R82, R126 <2>). -/
def pastSettle (s : State) : Bool := decide (s.rwk.settle = .ended)

/-! ### The Appeal List (R126 to R129) -/

/-- The Appeal List entry of an index. -/
def appealOf (s : State) (i : Nat) : Option Appeal := s.cnu.appeals.find? fun a => decide (a.index = i)

/-- A change of the Appeal List entry of an index. -/
def updateAppeal (i : Nat) (f : Appeal → Appeal) (s : State) : State :=
  { s with cnu := { s.cnu with appeals := updateFirst (fun a => decide (a.index = i)) f s.cnu.appeals } }

/-- An index leaves the Appeal List, its owed WANT with it. -/
def removeAppeal (i : Nat) (s : State) : State :=
  { s with cnu := { s.cnu with appeals := s.cnu.appeals.filter fun a => decide (a.index ≠ i) } }

/-- Whether an entry is short and eligible for appeal (R8). -/
def appealable (s : State) (e : Entry) : Bool := isShort s e && eligibleForAppeal s e

/-- The WANT of an entry as it stands: its live holder set is the PRESENT members and the own id (R127). -/
def wantOf (s : State) (e : Entry) : PeerFrame :=
  .want ⟨e.shortKey, e.lodgeTime, e.cls, decide (0 < e.holdCount), extentsSize e.extents, e.cust,
    setAdd (setOf (presentMembers s e.holders)) s.pbc.ownId⟩

/-- A WANT is offered, or the WANT owed mark set (R127 <2>). -/
def offerWant (i : Nat) (s : State) : State :=
  if canOffer s then enqueueFrame (wantOf s (entryAt s i)) s
  else updateAppeal i (fun a => { a with wantOwed := true }) s

/-- An action on the Appeal List entry of an index, where one stands and passes a test. -/
def atAppeal (i : Nat) (test : Appeal → Bool) (act : State → State) (s : State) : State :=
  match appealOf s i with
  | some a => if test a then act s else s
  | none => s

/-- What the end of a WAITING entry's timer does: the entry is appealed for, or leaves the list (R127). -/
def appealOrLeave (i : Nat) (s : State) : State :=
  if appealable s (entryAt s i) then
    offerWant i (updateAppeal i (fun a => { a with appealed := true, timer := none, appealTime := s.coreMs }) s)
  else removeAppeal i s

/-- The appeal timer of a WAITING entry expires (R127). -/
def appealExpire (i : Nat) : State → State := atAppeal i (fun a => !a.appealed) (appealOrLeave i)

/-- The appeal timer starts, and ends at once where the delay is 0 (R125, R126, R129). A WANT still owed from the last appeal
stays owed (log 42). -/
def startAppeal (i : Nat) (s : State) : State :=
  let delay := appealDelay s (entryAt s i)
  let s := updateAppeal i (fun a => { a with appealed := false, timer := some (s.coreMs + delay) }) s
  if delay = 0 then appealExpire i s else s

/-- An index is offered for addition to the Appeal List (R126). -/
def offerAppeal (i : Nat) (s : State) : State :=
  if appealable s (entryAt s i) && pastSettle s && (appealOf s i).isNone then
    if 16 ≤ s.cnu.appeals.length then raise .appealFull s
    else
      startAppeal i { s with cnu := { s.cnu with
        appeals := s.cnu.appeals ++ [{ index := i, key := (entryAt s i).shortKey, timer := none }] } }
  else s

/-- The end of an APPEALED entry's re-arm period: one claim lifetime after its appeal time (R129). -/
def rearmTime (s : State) (a : Appeal) : Nat := a.appealTime + claimLifetime s

/-- The re-arm test of an APPEALED entry (R129). -/
def rearmOrLeave (i : Nat) (s : State) : State :=
  if appealable s (entryAt s i) then startAppeal i s else removeAppeal i s

/-- The test of an Appeal List entry at a report or a WANT heard: one no longer short, or no longer eligible for appeal, leaves
the list (R122, R129, R164, log 53). -/
def testAppeal (i : Nat) (s : State) : State := if appealable s (entryAt s i) then s else removeAppeal i s

/-- CNU's re-check of an entry after a DROP: one on the list is tested, one that is not is offered for addition (R123, R129). -/
def recheckAppeal (i : Nat) (s : State) : State := offerAppeal i (testAppeal i s)

/-- A WANT is heard for an entry on the list: it is tested (R129, log 53), and one that stays is taken as appealed for now (R128).
A WANT still owed by a re-armed entry from its last appeal stays owed when the entry hears one while WAITING, since R128 <1>
does not name that mark (log 42). -/
def appealHeard (i : Nat) (s : State) : State :=
  updateAppeal i (fun a =>
    if a.appealed then { a with appealTime := s.coreMs, wantOwed := false }
    else { a with appealed := true, timer := none, appealTime := s.coreMs }) (testAppeal i s)

/-! ### Repair announcements (R130) -/

/-- A repair HAVE enters the repair list: nothing changes where the index is there or the list is full (R130). -/
def keepRepair (i : Nat) (s : State) : State :=
  if i ∈ s.cnu.repairs ∨ 16 ≤ s.cnu.repairs.length then s
  else { s with cnu := { s.cnu with repairs := s.cnu.repairs ++ [i] } }

/-- A repair HAVE, built from the entry (R130). -/
def enqueueRepair (i : Nat) (s : State) : State :=
  enqueue { content := .frame (haveOf (entryAt s i)), producer := .repair i } s

/-- A repair HAVE is offered for an entry that is RETAINED or RELEASABLE at this moment, the completion of the holder set's
write (R130, log 43). -/
def offerRepair (i : Nat) (s : State) : State :=
  if storedCopy (entryAt s i).state then
    if canOffer s then enqueueRepair i s else keepRepair i s
  else s

/-! ### Candidates (R131 to R136) -/

/-- The candidate of a key. -/
def candidateOf (s : State) (key : ShortKey) : Option Candidate := s.cnu.candidates.find? fun c => decide (c.key = key)

/-- A change of the candidate of a key. -/
def updateCandidate (key : ShortKey) (f : Candidate → Candidate) (s : State) : State :=
  { s with cnu := { s.cnu with candidates := updateFirst (fun c => decide (c.key = key)) f s.cnu.candidates } }

/-- The candidate of a key leaves the list (R136). -/
def removeCandidate (key : ShortKey) (s : State) : State :=
  { s with cnu := { s.cnu with candidates := s.cnu.candidates.filter fun c => decide (c.key ≠ key) } }

/-- The end of a candidate's period without a WANT: one claim lifetime after its last WANT time (R136 <1>). -/
def unwantedTime (s : State) (c : Candidate) : Nat := c.lastWant + claimLifetime s

/-- The candidate of a key leaves the list where its period is over; a WANT taken first has refreshed it, and it stays
(R136). -/
def candidateUnwanted (key : ShortKey) (s : State) : State :=
  { s with cnu := { s.cnu with
      candidates := s.cnu.candidates.filter fun c => decide (c.key ≠ key) || !isDue s (some (unwantedTime s c)) } }

/-- The claim of a key. -/
def claimOf (s : State) (key : ShortKey) : Option Claim := s.cnu.claims.find? fun c => decide (c.key = key)

/-- A change of the claim of a key. -/
def updateClaim (key : ShortKey) (f : Claim → Claim) (s : State) : State :=
  { s with cnu := { s.cnu with claims := updateFirst (fun c => decide (c.key = key)) f s.cnu.claims } }

/-- The claim of a key leaves the list (R138, R139). -/
def removeClaim (key : ShortKey) (s : State) : State :=
  { s with cnu := { s.cnu with claims := s.cnu.claims.filter fun c => decide (c.key ≠ key) } }

/-- The live holders of a candidate or claim: the PRESENT members of its holder set, never the node itself (R131). -/
def livePeers (s : State) (holders : NodeSet) : Nat := (presentMembers s holders).length

/-- Eligibility to recruit (R132), for a parcel of given size, lodge time, class and held marker. -/
def eligibleToRecruit (s : State) (size lodgeTime cls : Nat) (held : Bool) : Bool :=
  decide (s.ctc.node = .running) && decide (s.pbc.confinement ≠ .silent) && !s.pbc.dupId && s.rck.rtValid &&
    decide (s.cnu.claims.length < 4) && decide (s.rli.notices.length < 32) &&
    decide ((s.cnu.claims.map Claim.size).sum + size ≤ s.cnu.openSpace) &&
    decide (s.cnu.claims.length < s.ctc.freeList.length) &&
    (held || decide (s.rck.rf < expiryOf lodgeTime (periodInForce s cls)))

/-- A candidate becomes a claim: FETCH is posted and CLAIM is offered (R137). -/
def makeClaim (c : Candidate) (s : State) : State :=
  let s := removeCandidate c.key s
  let s := postNotice (.fetchAdoption c.key c.lodgeTime c.cls c.cust c.size c.holders) s
  let claim : Claim :=
    { key := c.key, lodgeTime := c.lodgeTime, cls := c.cls, cust := c.cust, size := c.size, holders := c.holders,
      claimTime := s.coreMs, deadline := s.coreMs + claimLifetime s, owed := !canOffer s }
  let s := { s with cnu := { s.cnu with claims := s.cnu.claims ++ [claim] } }
  if canOffer s then enqueueFrame (.claim c.key) s else s

/-- The members of a candidate's claims heard that lie within one claim lifetime of now (R134). -/
def recentClaims (s : State) (c : Candidate) : List (NodeId × Nat) :=
  c.claimsHeard.filter fun h => decide (s.coreMs ≤ h.2 + claimLifetime s)

/-- A candidate's recruit timer expires (R134). The need is positive when K exceeds the live holders and the recent
claims together. -/
def recruitExpire (key : ShortKey) (s : State) : State :=
  match candidateOf s key with
  | some c =>
    if c.timer.isNone then s
    else
      let recent := recentClaims s c
      let c := { c with claimsHeard := recent, timer := none }
      let s := updateCandidate key (fun _ => c) s
      if copyTarget s ≤ livePeers s c.holders then removeCandidate key s
      else if livePeers s c.holders + recent.length < copyTarget s ∧ eligibleToRecruit s c.size c.lodgeTime c.cls c.held then
        makeClaim c s
      else s
  | none => s

/-- The recruit timer of a candidate starts with a rank computed now, and ends at once where the delay is 0 (R125,
R133). -/
def startRecruit (key : ShortKey) (s : State) : State :=
  match candidateOf s key with
  | some c =>
    let rank := recruitRank s key c.holders
    let s := updateCandidate key (fun c => { c with rank := rank, timer := some (s.coreMs + recruitDelay s rank) }) s
    if recruitDelay s rank = 0 then recruitExpire key s else s
  | none => s

/-- A candidate is added from a WANT with the holder set of R131 (R133). -/
def addCandidate (w : Want) (holders : NodeSet) (s : State) : State :=
  startRecruit w.key { s with cnu := { s.cnu with
    candidates := s.cnu.candidates ++
      [{ key := w.key, lodgeTime := w.lodgeTime, cls := w.cls, held := w.held, cust := w.cust, size := w.size,
         holders := holders, lastWant := s.coreMs, rank := 0, timer := none }] } }

/-- A candidate is refreshed by a WANT (R133). A waiting one starts its timer anew. -/
def refreshCandidate (c : Candidate) (w : Want) (holders : NodeSet) (s : State) : State :=
  let merged := c.holders ||| holders
  let s := updateCandidate w.key (fun c =>
    { c with holders := merged, claimsHeard := c.claimsHeard.filter fun h => !setHas merged h.1,
             held := w.held, lastWant := s.coreMs }) s
  if c.timer.isNone then startRecruit w.key s else s

/-- A WANT for a key that no non-FREE entry holds: a recruitment call (R131). One that finds the node not eligible changes
nothing, the last WANT time of a candidate included (log 44). -/
def recruitCall (w : Want) (s : State) : State :=
  let holders := setRemove w.holders s.pbc.ownId
  if (claimOf s w.key).isSome then updateClaim w.key (fun c => { c with holders := c.holders ||| holders }) s
  else if !eligibleToRecruit s w.size w.lodgeTime w.cls w.held then s
  else
    match candidateOf s w.key with
    | some c => refreshCandidate c w holders s
    | none => if 32 ≤ s.cnu.candidates.length then raise .candidateFull s else addCandidate w holders s

/-- A HAVE at CNU's own lists (R122 <1>, <2>). -/
def haveAtLists (key : ShortKey) (sender : NodeId) (s : State) : State :=
  let s := updateClaim key (fun c => { c with holders := setAdd c.holders sender }) s
  let s := updateCandidate key (fun c =>
    { c with holders := setAdd c.holders sender, claimsHeard := c.claimsHeard.filter fun h => decide (h.1 ≠ sender) }) s
  match candidateOf s key with
  | some c => if copyTarget s ≤ livePeers s c.holders then removeCandidate key s else s
  | none => s

/-- A DROP at CNU's own lists (R123 <1> to <3>). -/
def dropAtLists (key : ShortKey) (reason : DropReason) (sender : NodeId) (s : State) : State :=
  let s := updateClaim key (fun c => { c with holders := setRemove c.holders sender }) s
  let s := updateCandidate key (fun c => { c with holders := setRemove c.holders sender }) s
  match candidateOf s key with
  | some c => if reason = .disposed ∧ c.held = false then removeCandidate key s else s
  | none => s

/-- A CLAIM at the Candidate List (R135 <1>). -/
def claimHeard (key : ShortKey) (sender : NodeId) (s : State) : State :=
  updateCandidate key (fun c =>
    if setHas c.holders sender then c
    else { c with claimsHeard := (c.claimsHeard.filter fun h => decide (h.1 ≠ sender)) ++ [(sender, s.coreMs)] }) s

/-- A claim's lifetime ends (R138). -/
def claimLapse (key : ShortKey) (s : State) : State :=
  if (claimOf s key).isSome then postNotice (.claimLapsed key) (raise .claimLapsed (removeClaim key s)) else s

/-! ### Owed census frames (R140) -/

/-- The owed WANT a grant takes, in Appeal List order; entries no longer short or eligible leave the list on the way, and one
whose record cannot be read is passed over (R11). The second component says whether the grant was used. -/
def grantWant : List Appeal → State → State × Bool
  | [], s => (s, false)
  | a :: as, s =>
    if !a.wantOwed || skips s a.index then grantWant as s
    else if appealable s (entryAt s a.index) then
      (enqueueFrame (wantOf s (entryAt s a.index)) (updateAppeal a.index (fun a => { a with wantOwed := false }) s), true)
    else grantWant as (removeAppeal a.index s)

/-- The owed repair HAVE a grant takes, in repair list order; an index whose entry is no longer RETAINED or RELEASABLE
leaves the list on the way, and one whose record cannot be read is passed over (R11). -/
def grantRepair : List Nat → State → State × Bool
  | [], s => (s, false)
  | i :: is, s =>
    if skips s i then grantRepair is s
    else
      let s := { s with cnu := { s.cnu with repairs := s.cnu.repairs.erase i } }
      if storedCopy (entryAt s i).state then (enqueueRepair i s, true) else grantRepair is s

/-- The grant to CNU: an owed CLAIM, oldest first, then an owed WANT, then an owed repair HAVE (R140). -/
def grantCnu (s : State) : State :=
  match s.cnu.claims.find? Claim.owed with
  | some c => enqueueFrame (.claim c.key) (updateClaim c.key (fun c => { c with owed := false }) s)
  | none =>
    match grantWant s.cnu.appeals s with
    | (s, true) => s
    | (s, false) => (grantRepair s.cnu.repairs s).1

end Sys2Proof.Machine
end

