-- ==== Sys2Proof/Machine/Grants.lean ====
section
/-! DEFINITION. The granting of Send Queue slots to the producers of owed frames (R98), and the reports that follow an
emptied queue (R99). -/

namespace Sys2Proof.Machine

/-- The HOLD of a slot: placed time 0 where the unknown mark is set (R56, R61 <1>). -/
def holdFrame (h : HoldRec) : PeerFrame := .hold h.matter h.patLen h.pattern (if h.unknown then 0 else h.placed)

/-- The number of the slot that holds a matter. -/
def slotOf (s : State) (m : Matter) : Option Nat :=
  s.hdu.slots.findIdx? fun slot =>
    match slot with
    | some h => decide (h.hold.matter = m)
    | none => false

/-- The hold of a slot. -/
def slotAt (s : State) (i : Nat) : Option HoldSlot := s.hdu.slots.getD i none

/-- A slot's contents replaced. -/
def setSlot (i : Nat) (h : Option HoldSlot) (s : State) : State :=
  { s with hdu := { s.hdu with slots := s.hdu.slots.set i h } }

/-- A change of an occupied slot. -/
def updateSlot (i : Nat) (f : HoldSlot → HoldSlot) (s : State) : State := setSlot i ((slotAt s i).map f) s

/-- A change of the Lifted List entry of a matter. -/
def updateLifted (m : Matter) (f : Lifted → Lifted) (s : State) : State :=
  { s with hdu := { s.hdu with lifted := updateFirst (fun l => decide (l.matter = m)) f s.hdu.lifted } }

/-- The grant to HDU: an owed LIFT, oldest first, then an owed HOLD, lowest slot first (R62). -/
def grantHdu (s : State) : Option State :=
  match s.hdu.lifted.find? Lifted.owed with
  | some l => some (enqueueFrame (.lift l.matter l.time) (updateLifted l.matter (fun l => { l with owed := false }) s))
  | none =>
    match s.hdu.slots.findIdx? (fun slot => (slot.map HoldSlot.sendOwed).getD false) with
    | some i =>
      match slotAt s i with
      | some h => some (enqueueFrame (holdFrame h.hold) (updateSlot i (fun h => { h with sendOwed := false }) s))
      | none => none
    | none => none

/-- A free slot is granted to HDU, CTC or CNU, in that order, for one owed frame; none is granted while the queue refuses
offers (R98, R99). -/
def grantOne (s : State) : State :=
  if canOffer s then
    match grantHdu s with
    | some s => s
    | none =>
      match grantCtc s with
      | some s => s
      | none => grantCnu s
  else s

/-- Slots are granted one owed frame each until the queue is full or no producer is owed (R99); 16 grants fill it. -/
def grantAll (s : State) : State := (List.range 16).foldl (fun s _ => grantOne s) s

/-! ### The emptied queue (R99) -/

/-- CTC takes the discard of an announcement of an entry (R29): announce owed is set again, unless a later announcement
has been made since. A freed entry owes its DROP again while its index is still unused (log 20). An entry whose record cannot
be read is passed over (R11). -/
def ctcDiscard (i : Nat) (f : PeerFrame) (s : State) : State :=
  let e := entryAt s i
  if skips s i then s
  else
    match f with
    | .haveCopy key _ _ => if e.occupied && decide (e.shortKey = key) then setOwed i .haveFrame s else s
    | .drop key .damaged => if e.occupied && decide (e.shortKey = key) then setOwed i .dropFrame s else s
    | .drop key .disposed => if i ∈ s.ctc.freeList then oweDrop i key s else s
    | _ => s

/-- The producer of a discarded frame sets its owed mark again where its record still exists (R62, R127, R137). -/
def payloadDiscard (f : PeerFrame) (s : State) : State :=
  match f with
  | .hold m _ _ _ =>
    match slotOf s m with
    | some i => updateSlot i (fun h => { h with sendOwed := true }) s
    | none => s
  | .lift m _ => updateLifted m (fun l => { l with owed := true }) s
  | .claim key => updateClaim key (fun c => { c with owed := true }) s
  | .want w =>
    let appealed := fun a : Appeal => decide (a.key = w.key) && a.appealed
    { s with cnu := { s.cnu with appeals := updateFirst appealed (fun a => { a with wantOwed := true }) s.cnu.appeals } }
  | _ => s

/-- PBC reports one discarded frame to its producer; a BEACON is not reported (R99). -/
def reportDiscard (s : State) (q : SendItem) : State :=
  match q.content with
  | .beacon => s
  | .frame f =>
    match q.producer with
    | .byPayload => payloadDiscard f s
    | .announcement i superseded => if superseded then s else ctcDiscard i f s
    | .repair i => keepRepair i s

/-- PBC empties its Send Queue: the attempt in progress is abandoned, and each frame is reported (R99). -/
def emptyQueue (s : State) : State :=
  readDone (s.pbc.sendQueue.foldl reportDiscard
    { s with pbc := { s.pbc with sendQueue := [], attempt := none, heldBeacon := false } })

end Sys2Proof.Machine
end

