-- ==== Sys2Proof/Machine/Walks.lean ====
section
/-! DEFINITION. The Refresh Walker's record (chapter 4): triggers, the start and end of walks, the end of the load walk
and the node's entry to RUNNING. -/

namespace Sys2Proof.Machine

/-- The lowest non-FREE index at or above a given one, in the working copies: the next a refresh walk visits (R72). -/
def nextOccupied (s : State) (low : Nat) : Option Nat :=
  (s.ctc.work.find? fun p => decide (low ≤ p.1) && p.2.occupied).map Prod.fst

/-- A refresh walk starts with next index 0 and the hold epoch of the moment; with nothing to visit it ends at once and
the record is empty (R71, log 27). -/
def startRefresh (s : State) : State :=
  { s with rwk := { s.rwk with
      walk := if (nextOccupied s 0).isSome then some ⟨.refresh s.hdu.epoch, 0, none⟩ else none } }

/-- Whether RWK takes a trigger in this node state: not in AWAITING START, and in STORE FAULT only when the load walk has
ended (R70, log 15). -/
def triggersTaken (s : State) : Bool :=
  match s.ctc.node with
  | .awaitingStart => false
  | .storeFault => s.rwk.loadEnded
  | _ => true

/-- A trigger for a refresh walk (R70, R71). -/
def trigger (s : State) : State :=
  if triggersTaken s then
    match s.rwk.walk with
    | none => startRefresh s
    | some _ => { s with rwk := { s.rwk with pendingWalk := true } }
  else s

/-- The end of a walk: a pending refresh walk starts at once, and otherwise the record becomes empty (R71). -/
def endWalk (s : State) : State :=
  if s.rwk.pendingWalk then startRefresh { s with rwk := { s.rwk with pendingWalk := false } }
  else { s with rwk := { s.rwk with walk := none } }

/-- The node becomes RUNNING from LOADING: the settle period begins and lasts one presence window (R14, R82). -/
def enterRunning (s : State) : State :=
  { s with
    ctc := { s.ctc with node := .running }
    rwk := { s.rwk with settle := .until (s.coreMs + presenceWindow s) } }

/-- LOADING ends when the load walk has ended and MEDIA_READY is high, in either order (R14). -/
def maybeRunning (s : State) : State :=
  if s.ctc.node = .loading ∧ s.rwk.loadEnded ∧ s.pins.mediaReady then enterRunning s else s

/-- The end of the load walk: a trigger taken while it still runs, the walk's own end, the start of the scrub tick timer
and the report to CTC (R81, R71, R160). -/
def endLoadWalk (s : State) : State :=
  let ended := { s with
    rwk := { s.rwk with loadEnded := true, pendingWalk := true }
    scs := { s.scs with tickTimer := some (s.coreMs + seconds (inForceOr s Settings.scrubTick 1)) } }
  maybeRunning (endWalk ended)

/-- A walk with no visit in progress and nothing left to visit ends (R71, R72, R81). -/
def walkProgress (s : State) : State :=
  match s.rwk.walk with
  | some w =>
    if w.visiting.isSome then s
    else
      match w.kind with
      | .load => if w.next < catalogueSize then s else endLoadWalk s
      | .refresh _ => if (nextOccupied s w.next).isSome then s else endWalk s
  | none => s

/-- A LODGE or ADOPT has taken an index. At a refresh walk's next index, with no visit in progress, it is not visited by this
walk, which goes on above it (R83 <6>). -/
def passAccepted (i : Nat) (s : State) : State :=
  match s.rwk.walk with
  | some ⟨.refresh epoch, low, none⟩ =>
    if low = i then { s with rwk := { s.rwk with walk := some ⟨.refresh epoch, i + 1, none⟩ } } else s
  | _ => s

/-- The walk moves on from a visit: the next index is the one after it (R69, R72 <4>). -/
def moveOn (i : Nat) (s : State) : State :=
  match s.rwk.walk with
  | some w => { s with rwk := { s.rwk with walk := some { w with next := i + 1, visiting := none } } }
  | none => s

end Sys2Proof.Machine
end

