-- ==== Sys2Proof/Machine/Confine.lean ====
section
/-! DEFINITION. Fault confinement (6.1 to 6.3): the error counts, the confinement state and the caution level, entry to
SILENT and the error sequence; and the change of presence of a Peer Table slot (R118). -/

namespace Sys2Proof.Machine

/-- The confinement state after a change of the counts (R111). -/
def nextConfinement (old : Confinement) (send recv : Nat) : Confinement :=
  match old with
  | .voiced => if (120 ≤ send ∨ 120 ≤ recv) ∧ send < 240 then .restrained else .voiced
  | .restrained => if send = 240 then .silent else if send < 120 ∧ recv < 120 then .voiced else .restrained
  | .silent => .silent

/-- The caution level of two counts (R111). -/
def cautionOf (send recv : Nat) : Bool := decide (60 ≤ send ∨ 60 ≤ recv)

/-- Entry to SILENT: the attempt is abandoned, the queue emptied, and the recovery counts set to 0 (R113). -/
def enterSilent (s : State) : State :=
  emptyQueue { s with pbc := { s.pbc with runCount := 0, recoveryCount := 0, restrainedWait := false } }

/-- A change of the error counts with the evaluation of R111: confinement state, caution level, BUS_STATE, and entry to
SILENT. In SILENT the counts keep their values (R109, R110). -/
def setCounts (send recv : Nat) (s : State) : State :=
  if s.pbc.confinement = .silent then s
  else
    let old := s.pbc
    let conf := nextConfinement old.confinement send recv
    let caution := cautionOf send recv
    let s := { s with pbc := { s.pbc with
      sendCount := send, recvCount := recv, confinement := conf, caution := caution
      restrainedWait := old.restrainedWait && decide (conf = .restrained) } }
    let s := if (caution ∧ !old.caution) ∨ (conf ≠ old.confinement ∧ conf ≠ .voiced) then raise .busState s else s
    if conf = .silent then enterSilent s else s

/-- A send error's rise of the send count (R109 <1>, <3>). -/
def raiseSend (s : State) : State := setCounts (min 240 (s.pbc.sendCount + 6)) s.pbc.recvCount s

/-- A receive error's rise of the receive count (R110 <1>, <2>). -/
def raiseRecv (s : State) : State := setCounts s.pbc.sendCount (min 200 (s.pbc.recvCount + 1)) s

/-- The error sequence begins, its flag chosen by the confinement state after the count change; none is sent while SILENT
or DUP_ID (R108). -/
def beginErrorSeq (sending : Bool) (s : State) : State :=
  { s with pbc := { s.pbc with
      errorSeq := some ⟨sending, decide (s.pbc.confinement = .voiced) && !s.pbc.dupId, false⟩ } }

/-- An attempt of the node's own ends with its frame kept in the queue; a BEACON held behind it replaces the old one, as
it carries no contents of its own (R96 <4>, R97). -/
def endAttempt (s : State) : State :=
  { s with pbc := { s.pbc with
      attempt := none, heldBeacon := false
      sendQueue := s.pbc.sendQueue.map fun q => { q with inAttempt := false } } }

/-- The restrained wait that follows an attempt ended while RESTRAINED (R112). -/
def afterAttempt (s : State) : State :=
  { s with pbc := { s.pbc with restrainedWait := decide (s.pbc.confinement = .restrained) } }

/-! ### The recovery counts (R114, log 8) -/

/-- Recessive bits at the recovery counts of a SILENT node (R114 <1>). -/
def countRecessive (n : Nat) (s : State) : State :=
  let bits := s.pbc.runCount + n
  { s with pbc := { s.pbc with
      runCount := bits % 16
      recoveryCount := min 64 (s.pbc.recoveryCount + bits / 16) } }

/-- Recessive bits and then a dominant one at the recovery counts (R114 <1>, <2>). -/
def countToDominant (n : Nat) (s : State) : State :=
  let s := countRecessive n s
  { s with pbc := { s.pbc with runCount := 0 } }

/-- The bits between two events of the line, as free values give them: recessive bits, which the flags of other nodes may
part in two (R90, R108, R114). -/
def countGap (s : State) : State :=
  let n := s.free
  let s := { s with free := n + 1 }
  countRecessive (Config.gapBits n) (if Config.gapDominant n then countToDominant (Config.gapLead n) s else s)

/-! ### Presence (R115 to R118) -/

/-- The Peer Table slot of a node. -/
def peerAt (s : State) (id : NodeId) : Peer := s.pbc.peers.getD id.toNat {}

/-- A change of a Peer Table slot. -/
def setPeer (id : NodeId) (p : Peer) (s : State) : State :=
  { s with pbc := { s.pbc with peers := s.pbc.peers.set id.toNat p } }

/-- A change of presence: PRESENCE is raised and RWK takes a trigger (R118). -/
def changePresence (id : NodeId) (p : Presence) (s : State) : State :=
  trigger (raise .presence (setPeer id { peerAt s id with presence := p } s))

/-- Whether a slot's last-heard time has reached the presence window while PRESENT (R117). -/
def windowOver (s : State) (id : NodeId) : Bool :=
  decide ((peerAt s id).presence = .present) &&
    (match (peerAt s id).heardAt with
     | some h => decide (h + presenceWindow s ≤ s.coreMs)
     | none => false)

end Sys2Proof.Machine
end

