-- ==== Sys2Proof/Machine/Media.lean ====
section
/-! DEFINITION. The Extent Gate and the Media Arbiter (chapter 8): the map and its two tests, the gate's queue, the port
and its grants, and the scrub request SCS offers to it (R161). -/

namespace Sys2Proof.Machine

/-! ### The Extent Map (R143, R144) -/

/-- A run's place in the map: in order of start block (R143). -/
def insertRun (r : Run) : List Run → List Run
  | [] => [r]
  | q :: qs => if r.first < q.first then r :: q :: qs else q :: insertRun r qs

/-- Extents enter the map as runs of an index in a role (R4, R143). -/
def placeRuns (i : Nat) (role : Role) (es : List Extent) (s : State) : State :=
  { s with exg := { s.exg with runs := es.foldl (fun runs e => insertRun ⟨e.first, e.count, i, role⟩ runs) s.exg.runs } }

/-- Every run of an index leaves the map, of either role (R28). -/
def removeRuns (i : Nat) (s : State) : State :=
  { s with exg := { s.exg with runs := s.exg.runs.filter fun r => decide (r.owner ≠ i) } }

/-- The runs of an index's extents in one role leave the map, one for each extent (R24 <2>, <3>). -/
def removeExtents (i : Nat) (role : Role) (es : List Extent) (s : State) : State :=
  { s with exg := { s.exg with runs := es.foldl (fun runs e => runs.erase ⟨e.first, e.count, i, role⟩) s.exg.runs } }

/-- A refill is taken: the ENTRY runs of the old extents leave, and the REFILL runs of the new ones become ENTRY runs
(R24 <1>, R143). -/
def promoteRefill (i : Nat) (old new : List Extent) (s : State) : State :=
  let s := removeExtents i .entry old s
  let promote := fun (runs : List Run) (e : Extent) =>
    updateFirst (fun r => decide (r = ⟨e.first, e.count, i, .refill⟩)) (fun r => { r with role := .entry }) runs
  { s with exg := { s.exg with runs := new.foldl promote s.exg.runs } }

/-- Whether an extent shares a block with any run of the map, of either role (R144, R146 <5>). -/
def isProtected (s : State) (e : Extent) : Bool := s.exg.runs.any fun r => sharesBlock r.extent e

/-- Whether an extent shares a block with an extent of a non-FREE entry that the load walk has still to visit, and whose runs
are not in the map yet: R146 has the map hold every run of every non-FREE entry (R147, log 15). -/
def isUnvisited (s : State) (x : Extent) : Bool :=
  s.ctc.work.any fun p => decide (s.ctc.loaded ≤ p.1) && p.2.occupied && p.2.extents.any fun e => sharesBlock e x

/-- The overlap test of a LODGE or ADOPT (R17 <8>, R144). -/
def overlapsMap (s : State) (es : List Extent) : Bool := es.any (isProtected s) || selfOverlap es

/-- The overlap test of a REFILL leaves out the runs of the refilled index (R23 <7>, R144). -/
def overlapsOthers (s : State) (i : Nat) (es : List Extent) : Bool :=
  es.any (fun e => s.exg.runs.any fun r => decide (r.owner ≠ i) && sharesBlock r.extent e) || selfOverlap es

/-- Whether an extent reaches beyond the media size (R17 <7>). -/
def beyondMedia (s : State) (es : List Extent) : Bool := es.any fun e => decide (mediaSize s < e.stop)

/-- EXG takes the presented media size as the reported size, once after each acceptance of START (R145 <2>). -/
def takeMediaSize (s : State) : State :=
  if s.ctc.inForce.isSome && s.pins.mediaReady && !s.exg.sizeTaken then
    { s with exg := { s.exg with reportedSize := s.pins.presentedSize, sizeTaken := true } }
  else s

/-! ### The scrub request (R161) -/

/-- Whether a scrub is in flight (R161 <5>). -/
def scrubInFlight (s : State) : Bool :=
  match s.mar.inFlight with
  | some ⟨_, .scrub ..⟩ => true
  | _ => false

/-- Whether SCS offers a scrub request (R161 <1> to <5>). -/
def scrubWanted (s : State) : Bool :=
  (decide (s.ctc.node = .running) || (decide (s.ctc.node = .loading) && s.rwk.loadEnded)) &&
    decide (-8 < s.scs.balance) && decide (0 < s.scs.scrubbable) && s.scs.waitingDormant.isNone && !scrubInFlight s

/-- The first index from the cursor upward, wrapping, whose entry is scrubbable (R161). -/
def nextScrub (s : State) : Option Nat :=
  let scrubbable := fun p : Nat × Entry => storedCopy p.2.state
  match s.ctc.work.find? (fun p => decide (s.scs.cursor ≤ p.1) && scrubbable p) with
  | some p => some p.1
  | none => (s.ctc.work.find? scrubbable).map Prod.fst

/-- Whether the named entry of an offered request is still scrubbable (R161). -/
def requestStands (s : State) : Bool :=
  match s.scs.request with
  | some i => storedCopy (entryAt s i).state
  | none => false

/-- SCS keeps its request in line with the state: withdrawn, kept, or offered anew (R161). -/
def offerScrub (s : State) : State :=
  if scrubWanted s then
    if requestStands s then s else { s with scs := { s.scs with request := nextScrub s } }
  else { s with scs := { s.scs with request := none } }

/-! ### The port (R149 to R152, R155) -/

/-- The media port is free (R150 <1> to <4>). -/
def portFree (s : State) : Bool :=
  s.mar.inFlight.isNone && s.mar.grantedErase.isNone && s.pins.mediaReady &&
    decide (s.ctc.node ≠ .awaitingStart ∧ s.ctc.node ≠ .dormant ∧ s.ctc.node ≠ .waking)

/-- The outstanding host commands at MAR: gated or in flight (R147). -/
def outstandingHost (s : State) : List HostCmd :=
  s.mar.gated ++
    match s.mar.inFlight with
    | some ⟨_, .host c⟩ => [c]
    | _ => []

/-- A VERIFY is eligible when no outstanding host WRITE or TRIM accepted before its request shares a block with its
extents (R151). -/
def verifyEligible (s : State) (v : VerifyWork) : Bool :=
  (outstandingHost s).all fun c =>
    decide (c.op = .read) || decide (v.before ≤ c.seq) || !v.extents.any (sharesBlock ⟨c.first, c.count⟩)

/-- A command is released to the port: the issue tag rises, the media timer starts (R152). -/
def release (c : MediaCmd) (s : State) : State :=
  { s with mar := { s.mar with
      issueTag := s.mar.issueTag + 1
      inFlight := some ⟨s.mar.issueTag + 1, c⟩
      timer := some (s.coreMs + seconds (inForceOr s Settings.mediaTimeout 1)) } }

/-- The grant of the scrub request: the VERIFY is built from the entry as it stands (R149, R161). -/
def grantScrub (i : Nat) (s : State) : State :=
  release (.scrub i (entryAt s i).extents (entryAt s i).fullKey) { s with scs := { s.scs with request := none } }

/-- The grant of a VERIFY (R150 rank 2). -/
def grantVerify (v : VerifyWork) (s : State) : State :=
  release (.verify v) { s with mar := { s.mar with verifies := s.mar.verifies.erase v } }

/-- The grant of the gated queue's head (R150 rank 3). -/
def grantHost (c : HostCmd) (rest : List HostCmd) (s : State) : State :=
  release (.host c) { s with mar := { s.mar with gated := rest } }

/-- The grant of the disposition queue's head: released at once where erase begun is set, and otherwise held until the
write of erase begun has completed (R26 <4> to <6>, R152). -/
def grantErase (w : EraseWork) (rest : List EraseWork) (s : State) : State :=
  let e := entryAt s w.index
  let s := { s with mar := { s.mar with erases := rest } }
  if e.eraseBegun then release (.erase w) s
  else
    changeEntry w.index { e with eraseBegun := true } {} [.releaseErase]
      { s with mar := { s.mar with grantedErase := some w } }

/-- Whether a disposition ERASE may be granted (R150 rank 4, R155 <1>). -/
def eraseReady (s : State) : Bool := !s.pins.guardAsserted && decide (s.ctc.node ≠ .storeFault)

/-- Ranks 5 and 6: a due or an early scrub (R150). -/
def grantLateScrub (s : State) : State :=
  match s.scs.request with
  | some i => if -8 < s.scs.balance then grantScrub i s else s
  | none => s

/-- Rank 4 and below (R150). -/
def grantFromErase (s : State) : State :=
  match s.mar.erases with
  | w :: rest => if eraseReady s then grantErase w rest s else grantLateScrub s
  | [] => grantLateScrub s

/-- Rank 3 and below (R150). -/
def grantFromHost (s : State) : State :=
  match s.mar.gated with
  | c :: rest => grantHost c rest s
  | [] => grantFromErase s

/-- Rank 2 and below: the oldest eligible VERIFY (R150). -/
def grantFromVerify (s : State) : State :=
  match s.mar.verifies.find? (verifyEligible s) with
  | some v => grantVerify v s
  | none => grantFromHost s

/-- A free port is granted to the first ready work by rank (R150). -/
def grantPort (s : State) : State :=
  if portFree s then
    match s.scs.request with
    | some i => if s.scs.balance = 8 then grantScrub i s else grantFromVerify s
    | none => grantFromVerify s
  else s

/-- What follows where work, the port or the scrub conditions may have changed: a walk with nothing left to visit ends,
SCS brings its request into line, and a free port is granted (R71, R161, R150). -/
def mediaTail (s : State) : State := grantPort (offerScrub (walkProgress s))

/-- CTC withdraws the queued ERASEs of an entry (R66 <1>, R76 <2>, R155 <3>). -/
def withdrawErases (i : Nat) (s : State) : State :=
  { s with mar := { s.mar with erases := s.mar.erases.filter fun w => decide (w.index ≠ i) } }

/-- The place of an entry's ERASEs in the disposition queue: behind those of every DISPOSE or load visit before its own,
though the writes of two DISPOSEs may complete in either order (R149, R9). They go in front of a later entry's ERASE that has
returned to the head (R155 <2>), too (log 52). -/
def insertErases (new : List EraseWork) (order : Nat) : List EraseWork → List EraseWork
  | [] => new
  | w :: ws => if order < w.order then new ++ w :: ws else w :: insertErases new order ws

/-- The ERASEs of an entry are queued, one for each extent in list order (R26 <3>, R80 <5>, R149). -/
def queueErases (i : Nat) (es : List Extent) (order : Nat) (s : State) : State :=
  { s with mar := { s.mar with erases := insertErases (es.map fun e => ⟨i, e, order⟩) order s.mar.erases } }

/-- The next place in the order of DISPOSE acceptances and load visits is taken (R149). -/
def takeOrder (s : State) : State := { s with mar := { s.mar with disposeSeq := s.mar.disposeSeq + 1 } }

/-- MEDIA_ABORT is pulsed (R154, R156, R157). -/
def pulseAbort (s : State) : State := { s with pins := { s.pins with mediaAborts := s.pins.mediaAborts + 1 } }

end Sys2Proof.Machine
end

