-- ==== Sys2Proof/Machine/Effects.lean ====
section
/-! DEFINITION. What follows the completed write of an entry (R10), the commit of a change in and out of STORE FAULT
(R12), and the freeing of an entry (R28). -/

namespace Sys2Proof.Machine

/-- The count of completed ERASEs of an entry (R27). -/
def erasesDone (s : State) (i : Nat) : Nat := ((s.ctc.eraseDone.find? fun p => decide (p.1 = i)).map Prod.snd).getD 0

/-- The count of an entry returns to 0 (R27). -/
def clearErases (i : Nat) (s : State) : State :=
  { s with ctc := { s.ctc with eraseDone := s.ctc.eraseDone.filter fun p => decide (p.1 ≠ i) } }

/-- One more ERASE of an entry has completed with DONE (R27). -/
def countErase (i : Nat) (s : State) : State :=
  let n := erasesDone s i + 1
  let s := clearErases i s
  { s with ctc := { s.ctc with eraseDone := (i, n) :: s.ctc.eraseDone } }

/-- What follows the write of FREE: the runs leave the map, CNU removes the index, and the index returns to the list or
owes its DROP (R28 <2> to <4>). -/
def freed (i : Nat) (key : ShortKey) (drop : Bool) (s : State) : State :=
  let s := removeAppeal i (clearErases i (removeRuns i s))
  if drop then announceDisposed i key s else returnIndex i s

/-- The RELEASABLE notice and event (R74). -/
def postReleasable (i : Nat) (s : State) : State :=
  raise .releasable (postNotice (.releasable i (entryAt s i).shortKey) s)

/-- The DAMAGED event, the DAMAGED notice and the FETCH for refill (R164 <4>), which carries the holder set of the working copy
as it stands at the completion of the write (log 46). -/
def postDamaged (i : Nat) (s : State) : State :=
  let e := entryAt s i
  let s := postNotice (.damaged i e.shortKey) (raise .damaged s)
  postNotice (.fetchRefill i e.shortKey e.lodgeTime e.cls e.cust (extentsSize e.extents) e.holders) s

/-- A VERIFY of an entry is queued: its extents, or its refill extents, against its full key (R18 <5>, R23). -/
def queueVerify (i : Nat) (e : Entry) (refill : Bool) (before : Nat) (req : Option Req) (s : State) : State :=
  let extents := if refill then e.refill.getD [] else e.extents
  { s with mar := { s.mar with verifies := s.mar.verifies ++ [⟨i, refill, extents, e.fullKey, before, req⟩] } }

/-- The granted ERASE is released to the port (R26 <5>). -/
def releaseGranted (s : State) : State :=
  match s.mar.grantedErase with
  | some w => release (.erase w) { s with mar := { s.mar with grantedErase := none } }
  | none => s

/-- One effect of a completed change of entry `i` to the record `e` (R10). -/
def runEffect (i : Nat) (e : Entry) (s : State) (f : Effect) : State :=
  match f with
  | .answer r o res => answerReq r o res s
  | .announceHave => announceHave i s
  | .announceDamaged => announceDamaged i s
  | .census => offerAppeal i s
  | .recheck => recheckAppeal i s
  | .queueVerify refill before req => queueVerify i e refill before req s
  | .releasableNotice => postReleasable i s
  | .damagedNotices => postDamaged i s
  | .queueErases order => if stillDisposing s i then queueErases i e.extents order s else s
  | .releaseErase => releaseGranted s
  | .freed key drop => freed i key drop s
  | .refillTaken old new => promoteRefill i old new s
  | .refillDropped es => removeExtents i .refill es s
  | .repairHave => offerRepair i s
  | .visitDone => moveOn i s

/-- The effects of a change, in order. -/
def runEffects (i : Nat) (e : Entry) (fs : List Effect) (s : State) : State := fs.foldl (runEffect i e) s

/-- A change of an entry with what follows it: after its write, or at once from the working copy in STORE FAULT (R10,
R12). -/
def commit (i : Nat) (e : Entry) (effects : List Effect) (s : State) : State :=
  let causes := changeCauses (entryAt s i) e
  if s.ctc.node = .storeFault then runEffects i e effects (changeEntry i e causes effects s)
  else changeEntry i e causes effects s

/-- The results of a LOOKUP of an entry: a FREE entry shows its state alone (R180 <1>, R193 <3>). -/
def lookupEntry (i : Nat) (e : Entry) : Results := .entry i (if e.state = .free then freeEntry else e)

/-- A LOOKUP that waited for a write is answered with the entry as that write leaves it; one by short key whose entry was
freed finds no key (R180, log 17). -/
def answerLookup (i : Nat) (e : Entry) (s : State) (w : LookupWait) : State :=
  match w.byKey with
  | some key =>
    if e.occupied && decide (e.shortKey = key) then answerReq w.req .done (lookupEntry i e) s
    else answerReq w.req .unknownKey .none s
  | none => answerReq w.req .done (lookupEntry i e) s

/-- The store holds the record of a completed entry write, and with it the lodge high-water it raises (R9, R13). -/
def storeEntry (w : EntryWrite) (s : State) : State :=
  { s with store := { s.store with
      entries := catSet s.store.entries w.index w.entry
      highWater := max s.store.highWater (w.highWater.getD 0) } }

/-- An entry write completes: the record is stored, a watch hit is recorded, and its outside effects follow (R10, R191). -/
def completeEntry (w : EntryWrite) (s : State) : State :=
  let s := { s with ctc := { s.ctc with writes := s.ctc.writes.erase w } }
  let s := recordHit w.hit (storeEntry w s)
  w.lookups.foldl (answerLookup w.index w.entry) (runEffects w.index w.entry w.effects s)

end Sys2Proof.Machine
end

