-- ==== Sys2Proof/Machine/Holds.lean ====
section
/-! DEFINITION. The Hold Unit (chapter 3): entering and removing holds, the Lifted List, the hold epoch and what CTC does
at its change, hold doubt, and the writes of Hold Table slots. -/

namespace Sys2Proof.Machine

/-- HOLD_LATE is raised and the entry's short key latched (R67). -/
def raiseHoldLate (key : ShortKey) (s : State) : State :=
  raise .holdLate { s with ctc := { s.ctc with holdLateKey := some key } }

/-- CTC takes an epoch change for a DISPOSING entry (R66). -/
def holdMeetsDisposing (s : State) (i : Nat) : State :=
  let e := entryAt s i
  let n := holdsOn s e.cust
  if n = 0 ∨ e.state ≠ .disposing then s
  else if e.eraseBegun then raiseHoldLate e.shortKey s
  else commit i { e with state := .retained, holdCount := n } [] (withdrawErases i s)

/-- The entries that are DISPOSING at this moment, in index order, of the indices that CTC reads (R11, R66, R81). -/
def disposingIndices (s : State) : List Nat :=
  ((readableCat s).filter fun p => decide (p.2.state = .disposing) && !skips s p.1).map Prod.fst

/-- The hold epoch changes: RWK takes a trigger and CTC takes its DISPOSING entries (R52, R66). -/
def epochChange (s : State) : State :=
  let s := trigger { s with hdu := { s.hdu with epoch := s.hdu.epoch + 1 } }
  readDone ((disposingIndices s).foldl holdMeetsDisposing s)

/-- The lowest empty slot (R50). -/
def emptySlot (s : State) : Option Nat := s.hdu.slots.findIdx? Option.isNone

/-- A write of a slot is asked of CTC; in STORE FAULT none is made (R56 <5>, R58). -/
def writeSlot (w : SlotWrite) (s : State) : State :=
  if s.ctc.node = .storeFault then s else { s with hdu := { s.hdu with writes := s.hdu.writes ++ [w] } }

/-- A hold is entered in a slot: R56 <1> to <5>. -/
def enterHold (i : Nat) (h : HoldRec) (heard : Bool) (purpose : SlotPurpose) (s : State) : State :=
  let s := setSlot i (some { hold := h, heard := heard }) s
  let s := { s with hdu := { s.hdu with lifted := s.hdu.lifted.filter fun l => decide (l.matter ≠ h.matter) } }
  writeSlot ⟨i, some h, h.matter, purpose, []⟩ (epochChange s)

/-- A matter enters the Lifted List (R51): it replaces its old entry, keeping a set lift owed marker; the oldest of 16
makes room. -/
def addLifted (m : Matter) (time : Nat) (s : State) : State :=
  let old := s.hdu.lifted
  let owed := old.any fun l => decide (l.matter = m) && l.owed
  let kept := old.filter fun l => decide (l.matter ≠ m)
  { s with hdu := { s.hdu with lifted := kept.drop (kept.length - 15) ++ [⟨m, time, 0, owed⟩] } }

/-- A hold is removed when its lift has been written: slot, Lifted List, epoch (R57 <1> to <3>, R59 <4>). -/
def removeHold (i : Nat) (m : Matter) (time : Nat) (s : State) : State :=
  epochChange (addLifted m time (setSlot i none s))

/-- HOLD is offered for a slot, and send owed takes the outcome (R56 <6>); one that a round boundary set while the write was
outstanding is cleared by a HOLD taken now (log 39). -/
def offerHold (i : Nat) (s : State) : State :=
  match slotAt s i with
  | some h =>
    if canOffer s then enqueueFrame (holdFrame h.hold) (updateSlot i (fun h => { h with sendOwed := false }) s)
    else updateSlot i (fun h => { h with sendOwed := true }) s
  | none => s

/-- LIFT is offered for a matter, or its lift owed marker set (R57 <5>). -/
def offerLift (m : Matter) (time : Nat) (s : State) : State :=
  if canOffer s then enqueueFrame (.lift m time) s else updateLifted m (fun l => { l with owed := true }) s

/-- Requests of a list are answered DONE. -/
def answerDone (rs : List Req) (s : State) : State := rs.foldl (fun s r => answerReq r .done .none s) s

/-- What follows a completed slot write (R55 <4>, R56 <6>, R57, R59 <4>). -/
def slotWritten (w : SlotWrite) (s : State) : State :=
  match w.purpose with
  | .placed r => offerHold w.slot (answerDone (r :: w.waiters) s)
  | .entered => answerDone w.waiters s
  | .lifted r =>
    let time := lastKnown s
    offerLift w.matter time (answerReq r .done .none (removeHold w.slot w.matter time s))
  | .liftHeard time => removeHold w.slot w.matter time s

/-- The completion of a slot's oldest outstanding write. On a blank store the writes wait until START prepares it
(R68). -/
def completeSlot (i : Nat) (s : State) : State :=
  match s.hdu.writes.find? fun w => decide (w.slot = i) with
  | some w =>
    if s.store.header then
      slotWritten w
        { s with
          hdu := { s.hdu with writes := s.hdu.writes.erase w }
          store := { s.store with holds := s.store.holds.set i w.record } }
    else s
  | none => s

/-- A cause of hold doubt that raises HOLD_DOUBT: the set and the restarted doubt timer, which does not count in AWAITING
START (R63, R64). -/
def setDoubt (d : Doubt) (s : State) : State :=
  raise .holdDoubt { s with hdu := { s.hdu with
    doubt := d
    doubtTimer := if s.ctc.node = .awaitingStart then none else some 0 } }

/-- The cause LOSS is set (R63, R101 <2>). -/
def doubtLoss (s : State) : State := setDoubt { s.hdu.doubt with loss := true } s

/-- The cause OVERFLOW is set (R58 <4>, R63). -/
def doubtOverflow (s : State) : State := setDoubt { s.hdu.doubt with overflow := true } s

/-- A round boundary at the doubt timer: at the count of 2 doubt clears and RWK takes a trigger (R64). -/
def countRound (s : State) : State :=
  if doubtStands s then
    match s.hdu.doubtTimer with
    | some n =>
      if 1 ≤ n then trigger { s with hdu := { s.hdu with doubt := {}, doubtTimer := none } }
      else { s with hdu := { s.hdu with doubtTimer := some (n + 1) } }
    | none => s
  else { s with hdu := { s.hdu with doubtTimer := none } }

end Sys2Proof.Machine
end

