-- ==== Sys2Proof/Machine/BusLine.lean ====
section
/-! DEFINITION. What the line brings PBC: frames received, the node's own attempts and their ends, errors, the return from
SILENT, and the bit rate (chapters 5 and 6). -/

namespace Sys2Proof.Machine

/-! ### Return from SILENT (R114) -/

/-- The node leaves SILENT: VOICED, counts of 0, caution clear, BUS_STATE, the line taken as idle (R114). -/
def becomeVoiced (s : State) : State :=
  raise .busState { s with pbc := { s.pbc with
    confinement := .voiced, sendCount := 0, recvCount := 0, caution := false
    awaitingEleven := false, errorSeq := none } }

/-- The beacon timer starts again, if START has started it (R119 <3>). -/
def restartBeacon (s : State) : State :=
  { s with pbc := { s.pbc with
      beaconTimer := s.pbc.beaconTimer.map fun _ => s.coreMs + seconds (inForceOr s Settings.beacon 0) } }

/-- The return from SILENT. With DUP_ID clear the owed producers are granted, and then the beacon source offers (R99, R114,
R119 <3>). -/
def leaveSilent (s : State) : State :=
  let s := becomeVoiced s
  if s.pbc.dupId then s else restartBeacon (offerBeacon (readDone (grantAll s)))

/-- The bit that brings the recovery count of a SILENT node to 64 takes it out of SILENT there and then (R114, log 8). -/
def leaveAt64 (s : State) : State := if 64 ≤ s.pbc.recoveryCount then leaveSilent s else s

/-- The bits a SILENT node has read since the last event of the line (R114, log 8). -/
def readGap (s : State) : State := if s.pbc.confinement = .silent then leaveAt64 (countGap s) else s

/-- LEAVE_SILENT: the recovery count reaches 64 (R114). Where the bits read do not bring it there, the node stays SILENT
(log 2). -/
def execLeaveSilent (s : State) : Host.Outcome State Fault Refusal := powered s readGap

/-! ### Frames received (R92, R93, R100 to R102, R104) -/

/-- Whether the node reads frames: not while it waits for the 11 recessive bits (R86). -/
def readsFrames (s : State) : Bool := !s.pbc.awaitingEleven

/-- A frame bearing the own id sets DUP_ID and empties the Send Queue (R104, R105). The event is raised at the setting alone: a
further such frame raises nothing (log 51). -/
def takeOwnId (s : State) : State :=
  if s.pbc.dupId then s else emptyQueue (raise .dupId { s with pbc := { s.pbc with dupId := true } })

/-- The kinds stored in AWAITING START (R100 <2>). -/
def passesNodeState (s : State) (kind : BitVec 3) : Bool :=
  decide (s.ctc.node ≠ .awaitingStart) || decide (kind = 6 ∨ kind = 0 ∨ kind = 1)

/-- A frame finds room in the Receive FIFO, or is lost (R100 <3>, R101). -/
def storeFrame (sender : NodeId) (f : PeerFrame) (s : State) : State :=
  if 24 ≤ s.pbc.rxFifo.length then doubtLoss (raise .rxOverflow s)
  else
    let s := { s with pbc := { s.pbc with rxFifo := s.pbc.rxFifo ++ [⟨sender, f⟩] } }
    if s.pbc.rxFifo.length = 23 then raise .rxAlmostFull s else s

/-- The tests of a received frame (R104, R100 <1> to <3>). -/
def takeFrame (kind : BitVec 3) (sender : NodeId) (payload : List Byte) (s : State) : State :=
  if sender = s.pbc.ownId then takeOwnId s
  else
    match readPayload kind payload with
    | none => raise .malformed s
    | some f => if passesNodeState s kind then storeFrame sender f s else s

/-- The bits of a frame read at the recovery counts of a SILENT node: the run that its end leaves, since no run within it
reaches 16. An acknowledgement slot driven by another receiver leaves the 8 recessive bits
of the delimiter and the end field; one left recessive joins them to the recessive end of the check (R88, R92, R114, log 8). -/
def countFrame (tail : Nat) (s : State) : State :=
  if s.pbc.confinement = .silent then
    let n := s.free
    let s := { s with pbc := { s.pbc with runCount := 0 }, free := n + 1 }
    countRecessive (if Config.slotDriven n then 8 else tail + 9) s
  else s

/-- What the completion of a frame does at the line: the acknowledgement slot as the node drove it (R92), the recovery counts
in SILENT (R114), and the receive count's fall (R110 <3>). -/
def completeFrame (tail : Nat) (s : State) : State :=
  let acked := decide (s.pbc.confinement ≠ .silent) && !s.pbc.dupId
  let s := countFrame tail { s with pbc := { s.pbc with ackDriven := acked, errorSeq := none, restrainedWait := false } }
  setCounts s.pbc.sendCount (s.pbc.recvCount - 1) s

/-- FRAME_RECEIVED (R93 <1>, R100, R104). A node in an attempt of its own is no receiver (log 2). One that leaves SILENT by the
bits before the frame takes it as a VOICED node (R114). -/
def execFrameReceived (kind : BitVec 3) (sender : BitVec 4) (payload : List Byte) (s : State) :
    Host.Outcome State Fault Refusal :=
  powered s fun s =>
    if readsFrames s && s.pbc.attempt.isNone then
      takeFrame kind sender payload (completeFrame (recessiveTail ⟨kind, sender, payload⟩) (readGap s))
    else s

/-! ### Attempts (R90, R91, R93, R96, R97, R112) -/

/-- Whether a start bit may be sent: the line is taken as idle, a change of rate does not come first, no attempt is in
progress, and no restrained wait is due (R86, R90, R97, R112). -/
def mayAttempt (s : State) : Bool :=
  readsFrames s && s.pbc.rateChange.isNone && s.pbc.attempt.isNone && !s.pbc.restrainedWait

/-- The frame an attempt sends: a BEACON is filled at its start bit (R96). -/
def attemptFrame (s : State) (q : SendItem) : PeerFrame :=
  match q.content with
  | .beacon => filledBeacon s
  | .frame f => f

/-- ATTEMPT_START: the head of the Send Queue (R90 <1>, R97). -/
def execAttemptStart (s : State) : Host.Outcome State Fault Refusal :=
  powered s fun s =>
    if mayAttempt s then
      match s.pbc.sendQueue with
      | q :: qs =>
        { s with pbc := { s.pbc with
            attempt := some (attemptFrame s q), sendQueue := { q with inAttempt := true } :: qs
            errorSeq := none } }
      | [] => s
    else s

/-- ARBITRATION_LOST: the frame keeps its place and the node becomes a receiver (R91 <1>, R97 <2>). An arbitration value
that does not win against the node's own takes nothing from it (log 2). -/
def execArbitrationLost (winner : BitVec 7) (s : State) : Host.Outcome State Fault Refusal :=
  powered s fun s =>
    match s.pbc.attempt with
    | some f => if losesArbitration (arbitrationValue (kindOf f) s.pbc.ownId) winner then endAttempt s else s
    | none => s

/-- The frame counted sent leaves the queue, and its slot is granted; a BEACON held behind it is then offered (R96 <4>,
R97 <1>, R98). -/
def frameCountedSent (s : State) : State :=
  let held := s.pbc.heldBeacon
  let s := setCounts (s.pbc.sendCount - 1) s.pbc.recvCount s
  let s := afterAttempt { s with pbc := { s.pbc with
    attempt := none, heldBeacon := false, errorSeq := none
    sendQueue := removeFirst SendItem.inAttempt s.pbc.sendQueue } }
  let s := readDone (grantOne s)
  if held then offerBeacon s else s

/-- FRAME_SENT (R93 <1>, R97 <1>). -/
def execFrameSent (s : State) : Host.Outcome State Fault Refusal :=
  powered s fun s => if s.pbc.attempt.isSome then frameCountedSent s else s

/-! ### Errors (R107 to R113) -/

/-- The count change of a send error: a no-acknowledgement error while RESTRAINED is not counted (R109). -/
def countSendError (e : SendFault) (s : State) : State :=
  if e = .noAck ∧ s.pbc.confinement = .restrained then s else raiseSend s

/-- SEND_ERROR (R93 <2>, R108, R109, R112). -/
def execSendError (e : SendFault) (s : State) : Host.Outcome State Fault Refusal :=
  powered s fun s =>
    if s.pbc.attempt.isSome then beginErrorSeq true (afterAttempt (countSendError e (endAttempt s))) else s

/-- The run of recessive bits at the end of an errored frame as far as it was read: none before the dominant bit of a form
error, 8 or none at a fill error, and fewer than 7 at the end of a check (R88, R107, R114, log 8). -/
def errorRun (e : RecvFault) (n : Nat) : Nat :=
  match e with
  | .form => 0
  | .fill => if n % 2 = 1 then 8 else 0
  | .check => n % 7

/-- The bits of an errored frame at the recovery counts of a SILENT node (R114, log 8). -/
def countErrored (e : RecvFault) (s : State) : State :=
  if s.pbc.confinement = .silent then
    { s with
      pbc := { s.pbc with runCount := errorRun e (Config.errorTail s.free) }
      free := s.free + 1 }
  else s

/-- RECEIVE_ERROR (R93 <2>, R107, R108, R110). A form error comes after the acknowledgement slot, which the node has driven
as R92 says; the others come before it. A node that leaves SILENT by the bits before the frame counts the error as a VOICED
node (R114). -/
def execReceiveError (e : RecvFault) (s : State) : Host.Outcome State Fault Refusal :=
  powered s fun s =>
    if readsFrames s && s.pbc.attempt.isNone then
      let s := readGap s
      let acked := decide (e = .form) && decide (s.pbc.confinement ≠ .silent) && !s.pbc.dupId
      beginErrorSeq false
        (countErrored e (raiseRecv { s with pbc := { s.pbc with ackDriven := acked, restrainedWait := false } }))
    else s

/-- The bits of an error sequence up to the end of its first 16 consecutive dominant ones, at the recovery counts of a SILENT
node: before those stand the recessive bits of the flag's 9 and fewer than the delimiter's 8, as a free value gives them
(R108, R114, log 8). -/
def readDominantRun (s : State) : State :=
  leaveAt64 (countToDominant (Config.gapLead s.free % 17) { s with free := s.free + 1 })

/-- DOMINANT_RUN_ERROR: one further error of the direction that began the sequence, but none while the node waits for the 11
recessive bits (R107, R108, R109 <3>, R110 <2>). In SILENT its bits are read at the recovery counts: those up to the first
run, and after it dominant bits alone, which leave the run count at 0 (R114). -/
def execDominantRunError (s : State) : Host.Outcome State Fault Refusal :=
  powered s fun s =>
    match s.pbc.errorSeq with
    | some q =>
      if s.pbc.awaitingEleven then s
      else
        let s := { s with pbc := { s.pbc with errorSeq := some { q with dominantRun := true } } }
        if s.pbc.confinement = .silent then
          if q.dominantRun then { s with pbc := { s.pbc with runCount := 0 } } else readDominantRun s
        else if q.sending then raiseSend s
        else raiseRecv s
    | none => s

/-! ### Bit rate -/

/-- BIT_RATE_CHANGE: the first moment at which the line is idle and no attempt is in progress (R86). An error sequence is then
past its delimiter (R90, R108). -/
def execBitRateChange (s : State) : Host.Outcome State Fault Refusal :=
  powered s fun s =>
    match s.pbc.rateChange with
    | some r =>
      if s.pbc.attempt.isNone && readsFrames s then
        { s with pbc := { s.pbc with bitRate := r, rateChange := none, awaitingEleven := true, errorSeq := none } }
      else s
    | none => s

/-- ELEVEN_RECESSIVE_BITS_READ: from then on the line is idle (R86, R90). -/
def execElevenRecessiveBitsRead (s : State) : Host.Outcome State Fault Refusal :=
  powered s fun s => { s with pbc := { s.pbc with awaitingEleven := false } }

end Sys2Proof.Machine
end

