-- ==== Sys2Proof/Machine/CatalogueRequests.lean ====
section
/-! DEFINITION. The catalogue requests: LODGE, ADOPT, REFILL, DISPOSE, LOOKUP, LIST RELEASABLE (1.7 to 1.10, 10.4). -/

namespace Sys2Proof.Machine

/-! ### LODGE and ADOPT (R17, R18, R21) -/

/-- The non-FREE entry with a full key (R3 <1>). -/
def findFullKey (s : State) (key : FullKey) : Option Nat :=
  (s.ctc.work.find? fun p => p.2.occupied && decide (p.2.fullKey = key)).map Prod.fst

/-- The checks of a LODGE or ADOPT, in order (R17 <1> to <8>, R3, R21). -/
def lodgeChecks (key : FullKey) (custLen cls : Nat) (es : List Extent) (s : State) : List (Bool × Reply × Results) :=
  runningOnly s ++
    [(decide (custLen < 1 ∨ 4 < custLen ∨ 15 < cls), .badField, .none),
     (!s.rck.rtValid, .clockInvalid, .none),
     (s.pins.guardAsserted, .guarded, .none),
     ((findFullKey s key).isSome, .known, .index ((findFullKey s key).getD 0)),
     ((findKey s (shortKeyOf key)).isSome, .keyClash, .none),
     (s.ctc.freeList.isEmpty, .catalogueFull, .none),
     (beyondMedia s es, .outOfRange, .none),
     (overlapsMap s es, .overlap, .none)]

/-- The entry a LODGE or ADOPT writes (R18 <2>, R21). -/
def lodgedEntry (s : State) (key : FullKey) (cust : Custodian) (cls : Nat) (origin : Origin) (lodgeTime : Nat)
    (holders : NodeSet) (es : List Extent) : Entry where
  state := .lodging
  fullKey := key
  shortKey := shortKeyOf key
  cust := cust
  cls := cls
  origin := origin
  lodgeTime := lodgeTime
  expiry := expiryOf lodgeTime (periodInForce s cls)
  extents := es
  holders := holders
  holdCount := holdsOn s cust

/-- The lodge high-water a lodge time raises, if it does (R13). -/
def raisedHighWater (s : State) (lodgeTime : Nat) : Option Nat :=
  if s.ctc.highWater < lodgeTime then some lodgeTime else none

/-- The causes of the hit of an acceptance: LODGED or ADOPTED, and the change of state from FREE (R191, log 16). -/
def acceptCauses (origin : Origin) : HitCauses where
  lodged := decide (origin = .lodgedHere)
  adopted := decide (origin = .adopted)
  state := true

/-- A LODGE or ADOPT is accepted: its entry takes the lowest free index, its runs enter the map, its write begins, a claim
or candidate for its key is removed, and a refresh walk about to read that index passes it (R6, R13, R18, R83 <6>, R139). -/
def acceptEntry (r : Req) (e : Entry) (s : State) : State :=
  match s.ctc.freeList with
  | [] => s
  | i :: rest =>
    let hw := raisedHighWater s e.lodgeTime
    let s := { s with ctc := { s.ctc with freeList := rest, highWater := max s.ctc.highWater (hw.getD 0) } }
    let s := setWork i e (placeRuns i .entry e.extents s)
    let s := queueWrite
      { index := i, entry := e, highWater := hw, effects := [.queueVerify false s.mar.hostSeq (some r)],
        hit := hitOf i e.shortKey e (acceptCauses e.origin) } s
    passAccepted i (removeCandidate e.shortKey (removeClaim e.shortKey s))

/-- A LODGE is accepted at the current RT (R18). -/
def acceptLodge (r : Req) (key : FullKey) (cust : Custodian) (cls : Nat) (es : List Extent) (s : State) : State :=
  acceptEntry r (lodgedEntry s key cust cls .lodgedHere s.rck.rt 0 es) s

/-- An ADOPT is accepted: from the claim for its key, or from its operands with the holder set of a candidate (R21). -/
def acceptAdopt (r : Req) (key : FullKey) (cust : Custodian) (cls lodgeTime : Nat) (es : List Extent) (s : State) : State :=
  match claimOf s (shortKeyOf key) with
  | some c =>
    acceptEntry r (lodgedEntry s key c.cust c.cls .adopted (min c.lodgeTime s.rck.rt) c.holders es) s
  | none =>
    let holders := ((candidateOf s (shortKeyOf key)).map Candidate.holders).getD 0
    acceptEntry r (lodgedEntry s key cust cls .adopted (min lodgeTime s.rck.rt) holders es) s

/-- LODGE (R17, R18). -/
def execLodge (tag : Byte) (fullKey : BitVec 256) (custLen : Byte) (cust : BitVec 32) (cls : Byte) (extCount : Byte)
    (slots : BitVec 576) (s : State) : Host.Outcome State Fault Refusal :=
  let es := usedSlots slots extCount.toNat
  request tag 0x04 (extentsFit extCount slots) s fun r s =>
    checked r (lodgeChecks fullKey custLen.toNat cls.toNat es s)
      (acceptLodge r fullKey (custodianOf custLen.toNat cust) cls.toNat es) s

/-- ADOPT (R21). -/
def execAdopt (tag : Byte) (fullKey : BitVec 256) (custLen : Byte) (cust : BitVec 32) (cls : Byte) (lodgeTime : BitVec 40)
    (extCount : Byte) (slots : BitVec 576) (s : State) : Host.Outcome State Fault Refusal :=
  let es := usedSlots slots extCount.toNat
  request tag 0x05 (extentsFit extCount slots) s fun r s =>
    checked r (lodgeChecks fullKey custLen.toNat cls.toNat es s)
      (acceptAdopt r fullKey (custodianOf custLen.toNat cust) cls.toNat lodgeTime.toNat es) s

/-! ### REFILL (R23) -/

/-- The checks of REFILL (R23 <1> to <7>). -/
def refillChecks (i : Nat) (es : List Extent) (s : State) : List (Bool × Reply × Results) :=
  runningOnly s ++
    [(decide (catalogueSize ≤ i), .badField, .none),
     (s.pins.guardAsserted, .guarded, .none),
     (decide ((entryAt s i).state ≠ .damaged), .notDamaged, .entryState (entryAt s i).state),
     ((entryAt s i).refill.isSome, .busy, .none),
     (beyondMedia s es, .outOfRange, .none),
     (overlapsOthers s i es, .overlap, .none)]

/-- A REFILL is accepted: the refill extents are recorded and placed, and the entry is written; its VERIFY follows the
write (R23). -/
def acceptRefill (r : Req) (i : Nat) (es : List Extent) (s : State) : State :=
  changeEntry i { entryAt s i with refill := some es } {} [.queueVerify true s.mar.hostSeq (some r)]
    (placeRuns i .refill es s)

/-- REFILL (R23). -/
def execRefill (tag : Byte) (index : BitVec 24) (extCount : Byte) (slots : BitVec 576) (s : State) :
    Host.Outcome State Fault Refusal :=
  let es := usedSlots slots extCount.toNat
  request tag 0x06 (extentsFit extCount slots) s fun r s =>
    checked r (refillChecks index.toNat es s) (acceptRefill r index.toNat es) s

/-! ### DISPOSE (R25, R26) -/

/-- The checks of DISPOSE before its re-check (R25 <1> to <3>). -/
def disposeChecks (i : Nat) (s : State) : List (Bool × Reply × Results) :=
  runningOnly s ++
    [(decide (catalogueSize ≤ i), .badField, .none),
     (decide ((entryAt s i).state ≠ .releasable), .notReleasable, .entryState (entryAt s i).state),
     (s.pins.guardAsserted, .guarded, .none)]

/-- The re-check against the whole Hold Table, and the acceptance (R25 <4>, R26, R65 <2>). -/
def recheckDispose (r : Req) (i : Nat) (s : State) : State :=
  let e := entryAt s i
  let n := holdsOn s e.cust
  if 0 < n ∨ doubtStands s then commit i { e with state := .retained, holdCount := n } [.answer r .held (.holdCount n)] s
  else
    commit i { e with state := .disposing, holdCount := 0, eraseBegun := false } [.answer r .done .none, .queueErases s.mar.disposeSeq]
      (takeOrder (clearErases i s))

/-- DISPOSE (R25, R26). -/
def execDispose (tag : Byte) (index : BitVec 24) (s : State) : Host.Outcome State Fault Refusal :=
  request tag 0x07 true s fun r s =>
    checked r (disposeChecks index.toNat s) (fun s => mediaTail (recheckDispose r index.toNat s)) s

/-! ### LOOKUP (R180) -/

/-- A LOOKUP of an entry is answered at once, or joins the entry's last outstanding write (R180, log 17). -/
def lookupAt (r : Req) (i : Nat) (byKey : Option ShortKey) (s : State) : State :=
  if isChanging s i then
    let onEntry := fun w : EntryWrite => decide (w.index = i)
    let join := fun w : EntryWrite => { w with lookups := w.lookups ++ [⟨r, byKey⟩] }
    { s with ctc := { s.ctc with writes := updateLast onEntry join s.ctc.writes } }
  else answerReq r .done (lookupEntry i (entryAt s i)) s

/-- LOOKUP by index (R180 <1>); an index that a stopped load walk did not load is answered NOT_READY (R81). -/
def lookupIndex (r : Req) (i : Nat) (s : State) : State :=
  if catalogueSize ≤ i then answerReq r .badField .none s
  else if s.ctc.loadStopped && decide (s.ctc.loaded ≤ i) then answerReq r .notReady (.node s.ctc.node) s
  else lookupAt r i none s

/-- LOOKUP by short key (R180 <2>, R81). A key whose entry is freed in a write not yet complete waits for that write. -/
def lookupKey (r : Req) (key : ShortKey) (s : State) : State :=
  match findKey s key with
  | some i => lookupAt r i (some key) s
  | none =>
    if s.ctc.loadStopped then answerReq r .notReady (.node s.ctc.node) s
    else
      match catFind s.store.entries key with
      | some i => if isChanging s i then lookupAt r i (some key) s else answerReq r .unknownKey .none s
      | none => answerReq r .unknownKey .none s

/-- LOOKUP (R180). Its layout holds a selector of 0 (index) or 1 (short key) (R193 <4>). -/
def execLookup (tag : Byte) (selector : Byte) (operand : BitVec 64) (s : State) : Host.Outcome State Fault Refusal :=
  request tag 0x0A (decide (selector.toNat ≤ 1)) s fun r s =>
    checked r (afterLoading s)
      (if selector = 0 then lookupIndex r (operand.extractLsb' 0 24).toNat else lookupKey r operand) s

/-! ### LIST RELEASABLE (R181) -/

/-- The RELEASABLE entries from a start index upward that CTC can read (R11, R81, R181). -/
def releasableFrom (s : State) (start : Nat) : List (Nat × ShortKey) :=
  ((readableCat s).filter fun p => decide (start ≤ p.1) && decide (p.2.state = .releasable) && !skips s p.1).map
    fun p => (p.1, p.2.shortKey)

/-- The indices LIST RELEASABLE examines: all, or those below the one at which a failed read stopped the load walk (R81). -/
def examined (s : State) : Nat := if s.ctc.loadStopped then s.ctc.loaded else catalogueSize

/-- The results of LIST RELEASABLE: the examination stops at the count or at the last index (R81, R181, log 19). -/
def listResults (start count : Nat) (s : State) : Results :=
  if count = 0 then .releasable [] (some start)
  else
    let found := (releasableFrom s start).take count
    match found.getLast? with
    | some (last, _) =>
      .releasable found (if found.length = count ∧ last + 1 < examined s then some (last + 1) else none)
    | none => .releasable [] none

/-- LIST RELEASABLE (R181); a count above 16 is clamped. -/
def execListReleasable (tag : Byte) (startIndex : BitVec 24) (count : Byte) (s : State) :
    Host.Outcome State Fault Refusal :=
  request tag 0x0B true s fun r s =>
    checked r (afterLoading s ++ [(decide (catalogueSize ≤ startIndex.toNat), .badField, .none)])
      (fun s => answerReq r .done (listResults startIndex.toNat (min 16 count.toNat) s) (readDone s)) s

end Sys2Proof.Machine
end

