-- ==== Sys2Proof/Machine/HoldRequests.lean ====
section
/-! DEFINITION. PLACE HOLD and LIFT HOLD of the request link (3.3). -/

namespace Sys2Proof.Machine

/-- The node-state check of the hold requests, which DORMANT and WAKING pass (R55 <1>, R57 <1>). -/
def holdStateChecks (s : State) : List (Bool × Reply × Results) :=
  afterLoading s ++ [(decide (s.ctc.node = .storeFault), .storeFault, .none)]

/-- Whether a matter's slot has its lifting field set (R55 <3>, R57 <4>). -/
def isLifting (s : State) (m : Matter) : Bool :=
  s.hdu.slots.any fun slot =>
    match slot with
    | some h => decide (h.hold.matter = m) && h.lifting
    | none => false

/-- The hold a PLACE HOLD enters (R56 <1>, <2>): an unknown placed time is the last known time with its mark. -/
def placedHold (s : State) (m : Matter) (patLen : Nat) (pattern : BitVec 32) : HoldRec :=
  ⟨m, patLen, pattern, lastKnown s, !s.rck.rtValid, s.pbc.ownId⟩

/-- The checks of PLACE HOLD but for the duplicate (R55 <1> to <3>, <5>). -/
def placeChecks (m : Matter) (s : State) : List (Bool × Reply × Results) :=
  holdStateChecks s ++ [(decide (m = 0), .badField, .none), (isLifting s m, .busy, .none)]

/-- A duplicate PLACE HOLD is answered DONE when any outstanding write of the slot has completed (R55 <4>). -/
def duplicateHold (r : Req) (i : Nat) (s : State) : State :=
  let onSlot := fun w : SlotWrite => decide (w.slot = i)
  let join := fun w : SlotWrite => { w with waiters := w.waiters ++ [r] }
  if s.hdu.writes.any onSlot then { s with hdu := { s.hdu with writes := updateLast onSlot join s.hdu.writes } }
  else answerReq r .done .none s

/-- A PLACE HOLD past its first checks: a duplicate, a full table, or the entry of the hold (R55 <4>, <5>, R56). -/
def takePlace (r : Req) (m : Matter) (patLen : Nat) (pattern : BitVec 32) (s : State) : State :=
  match slotOf s m with
  | some i => duplicateHold r i s
  | none =>
    match emptySlot s with
    | some i => mediaTail (enterHold i (placedHold s m patLen pattern) false (.placed r) s)
    | none => answerReq r .tableFull .none s

/-- PLACE HOLD (R55, R56); a pattern length above 32 is clamped. -/
def execPlaceHold (tag : Byte) (matter : BitVec 32) (patLen : Byte) (pattern : BitVec 32) (s : State) :
    Host.Outcome State Fault Refusal :=
  request tag 0x08 true s fun r s =>
    checked r (placeChecks matter s) (takePlace r matter (min 32 patLen.toNat) pattern) s

/-- The checks of LIFT HOLD (R57 <1> to <4>). -/
def liftChecks (m : Matter) (s : State) : List (Bool × Reply × Results) :=
  holdStateChecks s ++
    [(decide (m = 0), .badField, .none),
     ((slotOf s m).isNone, .unknownMatter, .none),
     (isLifting s m, .busy, .none)]

/-- A lift is taken: the slot's lifting field is set and its empty record is written (R57, R59 <4>). -/
def takeLift (i : Nat) (m : Matter) (purpose : SlotPurpose) (s : State) : State :=
  writeSlot ⟨i, none, m, purpose, []⟩ (updateSlot i (fun h => { h with lifting := true }) s)

/-- LIFT HOLD (R57). -/
def execLiftHold (tag : Byte) (matter : BitVec 32) (s : State) : Host.Outcome State Fault Refusal :=
  request tag 0x09 true s fun r s =>
    checked r (liftChecks matter s) (takeLift ((slotOf s matter).getD 0) matter (.lifted r)) s

end Sys2Proof.Machine
end

