-- ==== Sys2Proof/Machine/Endings.lean ====
section
/-! DEFINITION. The endings of media commands as their owners take them (R19, R20, R24, R27, R147, R162 to R165), and
the entry to DORMANT (R167 to R169). -/

namespace Sys2Proof.Machine

/-! ### Endings at their owners -/

/-- A host command's end (R147). -/
def endHost (c : HostCmd) (e : Ending) (s : State) : State :=
  match e with
  | .done => answerReq c.req .done .none s
  | _ => answerReq c.req .mediaFault .none s

/-- The answer of a VERIFY that did not match (R20). -/
def verifyReply : Ending → Reply
  | .mismatched => .checkMismatch
  | _ => .mediaFault

/-- The answer effect of a VERIFY's request, if it has one (R19 <2>, R20, R24). -/
def verifyAnswer (v : VerifyWork) (o : Reply) (res : Results) : List Effect :=
  match v.req with
  | some r => [.answer r o res]
  | none => []

/-- A lodge or adopt VERIFY ends: RETAINED, or freed without DROP (R19, R20, R22). -/
def endLodge (v : VerifyWork) (how : Ending) (s : State) : State :=
  let e := entryAt s v.index
  if e.state = .lodging then
    match how with
    | .matched =>
      commit v.index { e with state := .retained }
        (verifyAnswer v .done (.index v.index) ++ [.announceHave, .census]) s
    | _ => commit v.index freeEntry (verifyAnswer v (verifyReply how) .none ++ [.freed e.shortKey false]) s
  else s

/-- A refill VERIFY ends (R24). -/
def endRefill (v : VerifyWork) (how : Ending) (s : State) : State :=
  let e := entryAt s v.index
  match (if e.state = .damaged then e.refill else none) with
  | some extents =>
    match how with
    | .matched =>
      commit v.index { e with state := .retained, extents := extents, refill := none }
        (.refillTaken e.extents extents :: verifyAnswer v .done (.index v.index) ++ [.announceHave, .census]) s
    | _ => commit v.index { e with refill := none } (.refillDropped extents :: verifyAnswer v (verifyReply how) .none) s
  | none => s

/-- A VERIFY of CTC's ends. In STORE FAULT it changes no entry, and its request is answered STORE_FAULT (R12 <2>). -/
def endVerify (v : VerifyWork) (e : Ending) (s : State) : State :=
  if s.ctc.node = .storeFault then
    match v.req with
    | some r => answerReq r .storeFault .none s
    | none => s
  else if v.refill then endRefill v e s
  else endLodge v e s

/-- A disposition ERASE ends: counted, the entry freed after its last one; or returned to the head of its queue (R27,
R154, R155 <2>). -/
def endErase (w : EraseWork) (how : Ending) (s : State) : State :=
  match how with
  | .done =>
    let s := countErase w.index s
    let e := entryAt s w.index
    if erasesDone s w.index = e.extents.length ∧ e.state = .disposing ∧ s.ctc.node ≠ .storeFault then
      commit w.index freeEntry [.freed e.shortKey true] s
    else s
  | _ => { s with mar := { s.mar with erases := w :: s.mar.erases } }

/-- The causes of a scrub result's hit: SCRUB with its result, and the changes of the entry (R191). -/
def scrubCauses (before after : Entry) (r : MediaResult) : HitCauses :=
  { changeCauses before after with scrub := some r }

/-- A scrub result that writes nothing: its hit is recorded when CTC takes it (R191). -/
def scrubHit (i : Nat) (r : MediaResult) (s : State) : State :=
  let e := entryAt s i
  recordHit (hitOf i e.shortKey e (scrubCauses e e r)) s

/-- A scrub result reaches CTC (R163, R164, R165). In STORE FAULT it changes no entry (R12 <4>). -/
def scrubResult (i : Nat) (r : MediaResult) (s : State) : State :=
  let e := entryAt s i
  if !storedCopy e.state then s
  else if s.ctc.node = .storeFault then scrubHit i r s
  else if r = .matched then
    if s.rck.rtValid then
      let e' := { e with lastScrub := some s.rck.rt }
      changeEntry i e' (scrubCauses e e' r) [] s
    else scrubHit i r s
  else
    let e' := { e with state := .damaged }
    changeEntry i e' (scrubCauses e e' r) [.announceDamaged, .damagedNotices] s

/-- SCS takes a scrub ending with a result: cursor, cursor write, balance and owed-scrub marker (R162, R172 <2>). The cursor
is written when it changes, and not where the scrubbed index + 1 is the cursor already held (log 9); in STORE FAULT it is not
written (R166). -/
def advanceCursor (i : Nat) (s : State) : State :=
  let cursor := (i + 1) % catalogueSize
  { s with scs := { s.scs with
      cursor := cursor
      cursorWrites := if s.ctc.node = .storeFault ∨ cursor = s.scs.cursor then s.scs.cursorWrites
        else s.scs.cursorWrites ++ [cursor]
      balance := max (-8) (s.scs.balance - 1)
      owed := false } }

/-- The result a scrub ending hands to CTC (R162). -/
def endingResult : Ending → Option MediaResult
  | .matched => some .matched
  | .mismatched => some .mismatched
  | .failed => some .failed
  | _ => none

/-- A scrub ends (R162). -/
def endScrub (i : Nat) (e : Ending) (s : State) : State :=
  match endingResult e with
  | some r => scrubResult i r (advanceCursor i s)
  | none => s

/-- A media command's ending is handed to its owner (R153). -/
def handEnding (c : MediaCmd) (e : Ending) (s : State) : State :=
  match c with
  | .host c => endHost c e s
  | .verify v => endVerify v e s
  | .erase w => endErase w e s
  | .scrub i _ _ => endScrub i e s

/-- A completion as the kind of the command in flight takes it: one that does not belong to the kind is FAILED (R152,
R153). -/
def endingOf (c : MediaCmd) (r : MediaResult) : Ending :=
  match c, r with
  | .host _, .done => .done
  | .erase _, .done => .done
  | .verify _, .matched => .matched
  | .verify _, .mismatched => .mismatched
  | .scrub .., .matched => .matched
  | .scrub .., .mismatched => .mismatched
  | _, _ => .failed

/-! ### DORMANT (R167 to R169) -/

/-- A host media command is outstanding (R147). -/
def hostOutstanding (s : State) : Bool := !(outstandingHost s).isEmpty

/-- A disposition ERASE is queued, granted or in flight (R167 <2>). -/
def eraseOutstanding (s : State) : Bool :=
  !s.mar.erases.isEmpty || s.mar.grantedErase.isSome ||
    match s.mar.inFlight with
    | some ⟨_, .erase _⟩ => true
    | _ => false

/-- The work outstanding that refuses DORMANT (R167 <2>). -/
def dormantBusy (s : State) : Bool :=
  s.ctc.work.any (fun p => decide (p.2.state = .lodging) || p.2.refill.isSome) || eraseOutstanding s ||
    hostOutstanding s || !s.cnu.claims.isEmpty || s.scs.waitingDormant.isSome

/-- The checks of R167 <2> and <3>. -/
def dormantChecks (s : State) : List (Bool × Reply × Results) :=
  [(dormantBusy s, .busy, .none), (s.scs.owed, .scrubOwed, .none)]

/-- The node enters DORMANT (R169); the scrub request is withdrawn (R168 <1>). -/
def enterDormant (r : Req) (s : State) : State :=
  answerReq r .done .none
    { s with
      ctc := { s.ctc with node := .dormant }
      scs := { s.scs with mediaSleep := true, request := none, waitingDormant := none } }

/-- After a scrub has ended, a waiting DORMANT request is checked again from R167 <2> onward (R168 <3>). -/
def recheckDormant (s : State) : State :=
  match s.scs.waitingDormant with
  | some r =>
    let s := { s with scs := { s.scs with waitingDormant := none } }
    checked r (dormantChecks s) (enterDormant r) s
  | none => s

/-- MAR ends the command in flight: the media timer stops, the owner takes the ending, and a DORMANT request that waited
for a scrub is checked again (R153, R154, R168). -/
def endInFlight (f : InFlight) (e : Ending) (s : State) : State :=
  let s := handEnding f.cmd e { s with mar := { s.mar with inFlight := none, timer := none } }
  match f.cmd with
  | .scrub .. => recheckDormant s
  | _ => s

/-- A DORMANT request that passed its checks, by the state of the scrub (R168). -/
def takeDormant (r : Req) (s : State) : State :=
  match s.mar.inFlight with
  | some ⟨_, .scrub i extents key⟩ =>
    if inForceOr s Settings.scrubAbort false then
      enterDormant r (pulseAbort (endInFlight ⟨s.mar.issueTag, .scrub i extents key⟩ .aborted s))
    else { s with scs := { s.scs with waitingDormant := some r, request := none } }
  | _ => enterDormant r s

end Sys2Proof.Machine
end

