-- ==== Sys2Proof/Machine/MediaEvents.lean ====
section
/-! DEFINITION. The completions and timeouts of the media port (8.4). -/

namespace Sys2Proof.Machine

/-- MEDIA_COMPLETION: taken when its tag is that of the command in flight, and otherwise discarded (R153). -/
def execMediaCompletion (tag : Byte) (result : MediaResult) (s : State) : Host.Outcome State Fault Refusal :=
  powered s fun s =>
    match s.mar.inFlight with
    | some f => if f.tag = tag then linkEnd (mediaTail (endInFlight f (endingOf f.cmd result) s)) else s
    | none => s

/-- MEDIA_TIMER_EXPIRY: the command ends with TIMEOUT, MEDIA_ABORT is pulsed and MEDIA_TIMEOUT raised (R154). The next grant
goes by the level of MEDIA_READY that stands at the expiry (log 45). A completion taken first has stopped the timer, and the
timer of a command granted since is not at its end (R154, log 3). -/
def execMediaTimerExpiry (s : State) : Host.Outcome State Fault Refusal :=
  powered s fun s =>
    match s.mar.inFlight with
    | some f =>
      if isDue s s.mar.timer then linkEnd (mediaTail (raise .mediaTimeout (pulseAbort (endInFlight f .timeout s)))) else s
    | none => s

end Sys2Proof.Machine
end

