-- ==== Sys2Proof/Machine/Faulting.lean ====
section
/-! DEFINITION. Writes cut short (R9) and the entry to STORE FAULT (R11, R12). -/

namespace Sys2Proof.Machine

/-! ### Writes cut short (R9, log 5) -/

/-- The oldest outstanding write of each entry is cut: its record is as before or as after it, by a free value. -/
def cutEntries (cut : List Nat) : List EntryWrite → State → State
  | [], s => s
  | w :: ws, s =>
    if w.index ∈ cut then cutEntries cut ws s
    else
      let (lands, s) := takeLanding s
      cutEntries (w.index :: cut) ws (if lands then storeEntry w s else s)

/-- The oldest outstanding write of each slot is cut. A lift that has not completed leaves the hold in the stored table
(R57, R68); a placement is as R9 leaves it. -/
def cutSlots (cut : List Nat) : List SlotWrite → State → State
  | [], s => s
  | w :: ws, s =>
    if w.slot ∈ cut then cutSlots cut ws s
    else if w.record = none then cutSlots (w.slot :: cut) ws s
    else
      let (lands, s) := takeLanding s
      cutSlots (w.slot :: cut) ws
        (if lands then { s with store := { s.store with holds := s.store.holds.set w.slot w.record } } else s)

/-- The oldest outstanding floor write is cut. -/
def cutFloor (s : State) : State :=
  match s.rck.floorWrites with
  | [] => s
  | v :: _ =>
    let (lands, s) := takeLanding s
    if lands then { s with store := { s.store with rf := v } } else s

/-- The oldest outstanding cursor write is cut. -/
def cutCursor (s : State) : State :=
  match s.scs.cursorWrites with
  | [] => s
  | v :: _ =>
    let (lands, s) := takeLanding s
    if lands then { s with store := { s.store with cursor := v } } else s

/-- The settings write of a START in progress is cut. A preparation cut short leaves the store blank, since the header is
written last (R15, R177). -/
def cutStart (s : State) : State :=
  match s.rli.starting with
  | none => s
  | some st =>
    if st.prepare then s
    else
      let (lands, s) := takeLanding s
      if lands then { s with store := { s.store with settings := st.settings } } else s

/-- Every outstanding write is cut. On a blank store no slot write has begun (R68). -/
def cutWrites (s : State) : State :=
  let s := cutEntries [] s.ctc.writes s
  let s := if s.store.header then cutSlots [] s.hdu.writes s else s
  cutStart (cutCursor (cutFloor s))

/-! ### STORE FAULT -/

/-- The request an abandoned effect would have answered. -/
def effectReq : Effect → Option Req
  | .answer r _ _ => some r
  | .queueVerify _ _ req => req
  | _ => none

/-- A request is answered STORE_FAULT (R11). -/
def answerFault (s : State) (r : Req) : State := answerReq r .storeFault .none s

/-- An entry write that no longer completes: the requests that needed it are answered STORE_FAULT, and the LOOKUPs that
waited for it from the working copy (R11, R12, log 6). -/
def abandonEntry (s : State) (w : EntryWrite) : State :=
  let s := (w.effects.filterMap effectReq).foldl answerFault s
  w.lookups.foldl (answerLookup w.index (entryAt s w.index)) s

/-- The request of a slot write. -/
def slotReq : SlotPurpose → Option Req
  | .placed r => some r
  | .lifted r => some r
  | _ => none

/-- A slot write that no longer completes: its requests are answered STORE_FAULT and the hold stays in the table (R56,
R57, log 21, log 22). -/
def abandonSlot (s : State) (w : SlotWrite) : State :=
  let s := ((slotReq w.purpose).toList ++ w.waiters).foldl answerFault s
  if w.record.isNone then updateSlot w.slot (fun h => { h with lifting := false }) s else s

/-- The requests that wait on the node: START, DORMANT and WAKE (R168, R171, R177). -/
def waitingReqs (s : State) : List Req :=
  (s.rli.starting.map Starting.req).toList ++ s.scs.waitingDormant.toList ++ s.scs.wake.toList

/-- The walk leaves a visit whose write no longer completes (R79, log 6). -/
def leaveVisit (s : State) : State :=
  match s.rwk.walk with
  | some w =>
    match w.visiting with
    | some i => moveOn i s
    | none => s
  | none => s

/-- CTC enters STORE FAULT (R11): every outstanding write is cut and abandoned, the event is raised, a granted ERASE
returns to the head of its queue (R152), and MEDIA_SLEEP is released (R170). In STORE FAULT already, nothing changes. -/
def enterStoreFault (s : State) : State :=
  if s.ctc.node = .storeFault then s
  else
    let s := cutWrites s
    let s := s.ctc.writes.foldl abandonEntry s
    let s := s.hdu.writes.foldl abandonSlot s
    let s := (waitingReqs s).foldl answerFault s
    leaveVisit (raise .storeFault
      { s with
        ctc := { s.ctc with node := .storeFault, writes := [] }
        hdu := { s.hdu with writes := [] }
        rck := { s.rck with floorWrites := [] }
        scs := { s.scs with cursorWrites := [], waitingDormant := none, wake := none, request := none, mediaSleep := false }
        rli := { s.rli with starting := none }
        mar := { s.mar with grantedErase := none, erases := s.mar.grantedErase.toList ++ s.mar.erases } })

/-! ### Failed reads of a reset (R11, log 35) -/

/-- A failed read of RF or of the lodge high-water: both are taken as 0, and BDT with RF (R44, log 13). -/
def losesFloors (s : State) : State :=
  { s with
    rck := { s.rck with rf := 0, bdt := 0 }
    ctc := { s.ctc with highWater := 0 } }

/-- What a failed read made at the reset leaves: 1 Mbit/s and no stored settings (R85, R117), floors of 0 (R44), an empty
slot where the stored hold was to be read (R68), cursor 0 (R159). -/
def resetReadFails (r : StoreRead) (s : State) : State :=
  match r with
  | .settings =>
    { s with
      ctc := { s.ctc with settingsRead := none }
      pbc := { s.pbc with bitRate := 1 } }
  | .floor => losesFloors s
  | .highWater => losesFloors s
  | .holdSlot i =>
    if (slotAt s i.toNat).map HoldSlot.hold = s.store.holds.getD i.toNat none then setSlot i.toNat none s else s
  | .cursor => { s with scs := { s.scs with cursor := 0 } }
  | _ => s

/-- The reads that a reset makes. -/
def isResetRead : StoreRead → Bool
  | .header | .settings | .floor | .highWater | .holdSlot _ | .cursor => true
  | _ => false

/-- A failed read of a load visit: the load walk stops at its index and does not end (R81). -/
def stopLoadWalk (s : State) : State :=
  let s := enterStoreFault s
  { s with
    rwk := { s.rwk with walk := none, pendingWalk := false }
    ctc := { s.ctc with loadStopped := true } }

end Sys2Proof.Machine
end

