-- ==== Sys2Proof/Machine/Boot.lean ====
section
/-! DEFINITION. Resets and the acceptance of START: the state every block takes after a cold start and a warm reset (R30,
R33, R44, R68, R69, R106, R121, R142, R157, R159, R187, R192), and the one event of R178. -/

namespace Sys2Proof.Machine

/-! ### Resets -/

/-- A Hold Table slot as a reset reads it: the stored fields with the others clear (R68). -/
def readSlot (h : Option HoldRec) : Option HoldSlot := h.map fun h => { hold := h }

/-- The Peer Table after a reset: SELF at the own id, the other slots ABSENT (R115, R121). -/
def freshPeers (own : NodeId) : List Peer :=
  allNodes.map fun id => if id = own then { presence := .self } else {}

/-- The events raised as the reset ends: CLOCK where RT is found invalid, GUARD where the line is asserted (R187). -/
def bootFlags (rtValid guard : Bool) : EventMask :=
  (if rtValid then 0 else Event.clock.mask) ||| (if guard then Event.guard.mask else 0)

/-- The state after a reset, with the own id sampled from SLOT and RT as R33 leaves it. The store is as R9 leaves it; the
pins keep their levels, and MAR pulses MEDIA_ABORT once (R157). A blank store gives no settings, floors or holds. -/
def boot (slot : NodeId) (rt : Nat) (rtValid : Bool) (s : State) : State :=
  let store := s.store
  let read := store.header
  { pins := { s.pins with power := .on, mediaAborts := s.pins.mediaAborts + 1 }
    store := store
    ctc := { work := store.entries
             highWater := if read then store.highWater else 0
             settingsRead := if read then some store.settings else none }
    rck := { rt := rt, rtValid := rtValid, rf := if read then store.rf else 0, bdt := if read then store.rf else 0 }
    hdu := { slots := if read then store.holds.map readSlot else List.replicate holdTableSize none }
    pbc := { ownId := slot, bitRate := if read then store.settings.bitRate else 1, peers := freshPeers slot }
    scs := { cursor := if read then store.cursor else 0 }
    evu := { flags := bootFlags rtValid s.pins.guardAsserted }
    free := s.free
    pending := s.pending }

/-- The state while core power is absent: the store, the pins' levels, the time domain and the commands that wait; every
other block has lost its state, and holds its reset values (R33, log 31). -/
def powerOff (kept : Bool) (s : State) : State :=
  { pins := { s.pins with power := if kept then .offKept else .offLost }
    store := s.store
    rck := { rt := if kept then s.rck.rt else 0, rtValid := kept && s.rck.rtValid }
    free := s.free
    pending := s.pending }

/-! ### START accepted (R178) -/

/-- The settings a configuration record or the stored choice puts in force, and the blocks that read them from that moment
(R60, R64, R80, R86, R95, R119, R178). -/
def settingsInForce (c : Settings) (s : State) : State :=
  { s with
    ctc := { s.ctc with node := .loading, inForce := some c }
    hdu := { s.hdu with roundTimer := some (s.coreMs + seconds c.holdRound), doubtTimer := some 0 }
    rwk := { s.rwk with walk := some ⟨.load, 0, none⟩ }
    pbc := { s.pbc with
      sendOpen := true
      beaconTimer := some (s.coreMs + seconds c.beacon)
      rateChange := if c.bitRate = s.pbc.bitRate then none else some c.bitRate } }

/-- The slots whose last-heard time already reaches the new window become ABSENT, in the order of their ids (R117 <2>,
log 23). -/
def endStaleWindows (s : State) : State :=
  (allNodes.filter (windowOver s)).foldl (fun s id => changePresence id .absent s) s

/-- START is accepted, in one event (R178, R145 <2>). -/
def acceptStart (r : Req) (c : Settings) (s : State) : State :=
  answerReq r .done .none (takeMediaSize (endStaleWindows (offerBeacon (settingsInForce c s))))

/-- The slots whose lifting field was set by a LIFT frame in AWAITING START are lifted when the empty table has been
written (R68). -/
def takeEarlyLifts (ws : List SlotWrite) (s : State) : State :=
  ws.foldl (fun s w =>
    match w.purpose with
    | .liftHeard time => removeHold w.slot w.matter time s
    | _ => s) s

/-- The preparation of a blank store has completed: settings, floors and cursor of 0, the Hold Table with each hold
learned before START, every entry FREE, and the header (R15, R68). -/
def preparedStore (c : Settings) (s : State) : State :=
  let ws := s.hdu.writes
  let s := takeEarlyLifts ws s
  { s with
    store := { header := true, settings := c, holds := s.hdu.slots.map (Option.map HoldSlot.hold) }
    hdu := { s.hdu with writes := [] }
    ctc := { s.ctc with work := [], highWater := 0 } }

/-- The writes of a START complete (R177, R178). -/
def startWritten (st : Starting) (s : State) : State :=
  let s := { s with rli := { s.rli with starting := none } }
  let s := if st.prepare then preparedStore st.settings s
    else { s with store := { s.store with settings := st.settings } }
  acceptStart st.req st.settings s

end Sys2Proof.Machine
end

