-- ==== Sys2Proof/Machine/Resets.lean ====
section
/-! DEFINITION. The commands of power, reset and the loose pins (R14, R30, R33, R145, R148, R150, R171, R188, R194). -/

namespace Sys2Proof.Machine

/-- A pin takes a level, with or without core power; what the part does on it follows while powered (log 12). -/
def onPin (level : Pins → Pins) (f : State → State) (s : State) : Host.Outcome State Fault Refusal :=
  powered { s with pins := level s.pins } f

/-- COLD_START: core power is applied (R33, R194). RT is kept where the time domain was powered throughout. -/
def execColdStart (slot : BitVec 4) (timeDomainKept : Bool) (s : State) : Host.Outcome State Fault Refusal :=
  let kept := timeDomainKept && decide (s.pins.power ≠ .offLost)
  .next (boot slot (if kept then s.rck.rt else 0) (kept && s.rck.rtValid) (cutWrites s))

/-- WARM_RESET: RESET_N (R30, R33, R194). -/
def execWarmReset (slot : BitVec 4) (s : State) : Host.Outcome State Fault Refusal :=
  powered s fun s => boot slot s.rck.rt s.rck.rtValid (cutWrites s)

/-- CORE_POWER_LOSS: the battery keeps the time domain powered or not (R9, R33). Later, the battery may fail as well. -/
def execCorePowerLoss (battery : Bool) (s : State) : Host.Outcome State Fault Refusal :=
  match s.pins.power with
  | .on => .next (powerOff battery (cutWrites s))
  | .offKept => .next (if battery then s else powerOff false s)
  | .offLost => .next s

/-- GUARD_ASSERTED: GUARD is raised when the line becomes asserted (R148). -/
def execGuardAsserted (s : State) : Host.Outcome State Fault Refusal :=
  onPin (fun p => { p with guardAsserted := true }) (fun t => if s.pins.guardAsserted then t else raise .guard t) s

/-- GUARD_RELEASED: disposition ERASEs may be granted again (R148 <3>, R155 <1>). -/
def execGuardReleased (s : State) : Host.Outcome State Fault Refusal :=
  onPin (fun p => { p with guardAsserted := false }) mediaTail s

/-- In WAKING, MEDIA_READY high makes the node RUNNING and answers the WAKE (R171). -/
def wakeComplete (s : State) : State :=
  if s.ctc.node = .waking ∧ s.pins.mediaReady then
    s.scs.wake.toList.foldl (fun s r => answerReq r .done .none s)
      { s with
        ctc := { s.ctc with node := .running }
        scs := { s.scs with wake := none } }
  else s

/-- MEDIA_READY_RISE (R14, R145, R150, R171). -/
def execMediaReadyRise (size : BitVec 40) (s : State) : Host.Outcome State Fault Refusal :=
  onPin (fun p => { p with mediaReady := true, presentedSize := size.toNat })
    (fun s => linkEnd (mediaTail (wakeComplete (maybeRunning (takeMediaSize s))))) s

/-- MEDIA_READY_FALL: no grant is made until it rises; a command in flight goes on (R150 <3>, R152). -/
def execMediaReadyFall (s : State) : Host.Outcome State Fault Refusal :=
  onPin (fun p => { p with mediaReady := false }) (fun s => s) s

/-- SVC_EN_RISE: the service line is served (R188). -/
def execSvcEnRise (s : State) : Host.Outcome State Fault Refusal :=
  onPin (fun p => { p with svcEn := true }) (fun s => s) s

/-- SVC_EN_FALL: an answer being sent is cut off; its command stands (R188 <1>). -/
def execSvcEnFall (s : State) : Host.Outcome State Fault Refusal :=
  onPin (fun p => { p with svcEn := false }) (fun s => { s with sli := { s.sli with answer := none } }) s

end Sys2Proof.Machine
end

