-- ==== Sys2Proof/Machine/MediaRequests.lean ====
section
/-! DEFINITION. The host's media commands at the gate (8.2), and DORMANT and WAKE (9.5, 9.7). -/

namespace Sys2Proof.Machine

/-- The checks of the gate (R146 <1> to <5>, R147). In a STORE FAULT that stopped the load walk, a WRITE or TRIM is answered
STORE_FAULT (R81); in one that left it running, the entries it has still to visit are protected as the others (log 15). -/
def gateChecks (op : HostOp) (first count : Nat) (s : State) : List (Bool × Reply × Results) :=
  let alters := decide (op ≠ .read)
  afterLoading s ++
    [(decide (s.ctc.node = .dormant ∨ s.ctc.node = .waking), .notNow, .node s.ctc.node),
     (alters && decide (s.ctc.node = .storeFault) && s.ctc.loadStopped, .storeFault, .none),
     (decide (count = 0 ∨ 16777216 < count), .badField, .none),
     (decide (mediaSize s < first + count), .outOfRange, .none),
     (alters && s.pins.guardAsserted, .guarded, .none),
     (alters && (isProtected s ⟨first, count⟩ || isUnvisited s ⟨first, count⟩), .writeProtected, .none)]

/-- A command that passes the gate joins the gated queue (R147). -/
def gate (op : HostOp) (first count : Nat) (handle : BitVec 64) (r : Req) (s : State) : State :=
  { s with mar := { s.mar with
      gated := s.mar.gated ++ [⟨r, op, first, count, handle, s.mar.hostSeq⟩]
      hostSeq := s.mar.hostSeq + 1 } }

/-- A host media command of a kind (R146, R147). -/
def gateRequest (op : HostOp) (first : BitVec 40) (count : BitVec 32) (handle : BitVec 64) (r : Req) (s : State) : State :=
  checked r (gateChecks op first.toNat count.toNat s)
    (fun s => mediaTail (gate op first.toNat count.toNat handle r s)) s

/-- MEDIA READ (R146). -/
def execMediaRead (tag : Byte) (startBlock : BitVec 40) (count : BitVec 32) (handle : BitVec 64) (s : State) :
    Host.Outcome State Fault Refusal :=
  request tag 0x0C true s (gateRequest .read startBlock count handle)

/-- MEDIA WRITE (R146). -/
def execMediaWrite (tag : Byte) (startBlock : BitVec 40) (count : BitVec 32) (handle : BitVec 64) (s : State) :
    Host.Outcome State Fault Refusal :=
  request tag 0x0D true s (gateRequest .write startBlock count handle)

/-- MEDIA TRIM (R146); its transfer handle is ignored and not kept (R152). -/
def execMediaTrim (tag : Byte) (startBlock : BitVec 40) (count : BitVec 32) (_handle : BitVec 64) (s : State) :
    Host.Outcome State Fault Refusal :=
  request tag 0x0E true s (gateRequest .trim startBlock count 0)

/-- DORMANT (R167, R168). -/
def execDormant (tag : Byte) (s : State) : Host.Outcome State Fault Refusal :=
  request tag 0x0F true s fun r s =>
    checked r (runningOnly s ++ dormantChecks s) (fun s => mediaTail (takeDormant r s)) s

/-- The outcomes of WAKE outside DORMANT (R171). -/
def wakeChecks (s : State) : List (Bool × Reply × Results) :=
  afterLoading s ++
    [(decide (s.ctc.node = .running), .done, .none),
     (decide (s.ctc.node = .waking), .busy, .none),
     (decide (s.ctc.node = .storeFault), .storeFault, .none)]

/-- A WAKE taken in DORMANT (R171 <1> to <3>, R172 <1>); where MEDIA_READY is already high it completes at once. -/
def takeWake (r : Req) (s : State) : State :=
  wakeComplete
    { s with
      ctc := { s.ctc with node := .waking }
      scs := { s.scs with mediaSleep := false, owed := decide (0 < s.scs.scrubbable), wake := some r } }

/-- WAKE (R171). -/
def execWake (tag : Byte) (s : State) : Host.Outcome State Fault Refusal :=
  request tag 0x10 true s fun r s => checked r (wakeChecks s) (fun s => mediaTail (takeWake r s)) s

end Sys2Proof.Machine
end

