-- ==== Sys2Proof/Machine/Time.lean ====
section
/-! DEFINITION. The Retention Clock's shared operations (chapter 2): peer estimates, the recomputation of bounded time
and the floor write it asks for, and the marker a BEACON gives its sender's slot. -/

namespace Sys2Proof.Machine

/-- The estimate of a Peer Table slot: its stamp plus own RT minus its local reception time (R40). -/
def peerEstimate (rt : Nat) (p : Peer) : Nat := p.stamp.getD 0 + (rt - p.localTime.getD 0)

/-- The set S: own RT and the estimates of the PRESENT, USABLE peers, equal values kept (R40). -/
def clockSet (s : State) : List Nat :=
  s.rck.rt ::
    (s.pbc.peers.filter fun p => decide (p.presence = .present ∧ p.marker = .usable)).map (peerEstimate s.rck.rt)

/-- The bounded time that a recomputation gives (R42): it keeps its value when S has fewer than Q members, and is
otherwise the greater of itself and the lesser of own RT and the Q-th largest member. -/
def boundedTime (s : State) (q : Nat) : Nat :=
  if (clockSet s).length < q then s.rck.bdt
  else max s.rck.bdt (min s.rck.rt ((sortLargest (clockSet s)).getD (q - 1) 0))

/-- RCK asks for a floor write when the day boundary at or below the new BDT exceeds RF and every outstanding floor
value; in STORE FAULT none is attempted (R43, R44). -/
def requestFloor (s : State) : State :=
  let boundary := dayAtOrBelow s.rck.bdt
  if s.ctc.node ≠ .storeFault ∧ s.rck.rf < boundary ∧ ∀ v ∈ s.rck.floorWrites, v < boundary then
    { s with rck := { s.rck with floorWrites := s.rck.floorWrites ++ [boundary] } }
  else s

/-- The recomputation of BDT, made only while RT is valid and START has been accepted since the reset, followed by R43
(R41, R42). -/
def recomputeBdt (s : State) : State :=
  match s.ctc.inForce with
  | some c =>
    if s.rck.rtValid then requestFloor { s with rck := { s.rck with bdt := boundedTime s c.q } } else s
  | none => s

/-- The skew limit in force; 3,600 seconds before START (R39). -/
def skewLimit (s : State) : Nat := inForceOr s Settings.skew 3600

/-- The absolute difference of two times. -/
def timeDistance (a b : Nat) : Nat := (a - b) + (b - a)

/-- The time marker RCK gives a slot at a BEACON arrival (R39). -/
def markerFor (s : State) (stamp : Nat) (timeInvalid : Bool) : TimeMarker :=
  if timeInvalid then .invalid
  else if !s.rck.rtValid then .invalid
  else if skewLimit s < timeDistance stamp s.rck.rt then .skewed
  else .usable

/-- RT advances by one second and stays at 2^40 − 1 (R32). -/
def advanceRt (s : State) : State :=
  { s with rck := { s.rck with rt := min rtMax (s.rck.rt + 1) } }

end Sys2Proof.Machine
end

