-- ==== Sys2Proof/Machine/PeerDispatch.lean ====
section
/-! DEFINITION. The dispatch of the Receive FIFO's oldest frame to its owners (R103). A dispatch of another kind than the
oldest frame's has nothing to take (log 2). -/

namespace Sys2Proof.Machine

/-- The oldest entry leaves the Receive FIFO (R103). -/
def popFifo (s : State) : State := { s with pbc := { s.pbc with rxFifo := s.pbc.rxFifo.tail } }

/-! ### BEACON (R38, R39, R116) -/

/-- The slot of a BEACON's sender as PBC and RCK leave it (R38, R39, R116 <2>, <3>). -/
def heardPeer (s : State) (p : Peer) (stamp : Nat) (timeInvalid dormant fault : Bool) : Peer :=
  { p with
    marker := markerFor s stamp timeInvalid, stamp := some stamp, localTime := some s.rck.rt
    heardAt := some s.coreMs, dormant := dormant, fault := fault }

/-- A BEACON at its sender's slot: the slot's fields, CLOCK where it becomes SKEWED, the change of presence, and the
recomputation of BDT (R39, R41, R116, R118). -/
def takeBeacon (sender : NodeId) (stamp : Nat) (timeInvalid dormant fault : Bool) (s : State) : State :=
  let old := peerAt s sender
  let new := heardPeer s old stamp timeInvalid dormant fault
  let s := setPeer sender new s
  let s := if new.marker = .skewed ∧ old.marker ≠ .skewed then raise .clock s else s
  let s := if old.presence = .absent then changePresence sender .present s else s
  recomputeBdt s

/-- BEACON_DISPATCH (R116). -/
def execBeaconDispatch (s : State) : Host.Outcome State Fault Refusal :=
  powered s fun s =>
    match s.pbc.rxFifo with
    | ⟨sender, .beacon rt timeInvalid dormant fault⟩ :: _ => takeBeacon sender rt timeInvalid dormant fault (popFifo s)
    | _ => s

/-! ### HOLD and LIFT (R58, R59) -/

/-- Whether the Lifted List blocks a HOLD of a placed time (R58 <3>). -/
def liftBlocks (s : State) (m : Matter) (placed : Nat) : Bool :=
  s.hdu.lifted.any fun l => decide (l.matter = m) && decide (placed ≤ l.time)

/-- A HOLD frame at HDU (R58). -/
def takeHold (sender : NodeId) (m : Matter) (patLen : Nat) (pattern : BitVec 32) (placed : Nat) (s : State) : State :=
  if m = 0 then s
  else
    match slotOf s m with
    | some i => updateSlot i (fun h => { h with heard := true }) s
    | none =>
      if liftBlocks s m placed then s
      else
        match emptySlot s with
        | some i =>
          postNotice (.holdEntered m patLen pattern sender)
            (enterHold i ⟨m, patLen, pattern, placed, decide (placed = 0), sender⟩ true .entered s)
        | none => doubtOverflow s

/-- HOLD_DISPATCH (R58). -/
def execHoldDispatch (s : State) : Host.Outcome State Fault Refusal :=
  powered s fun s =>
    match s.pbc.rxFifo with
    | ⟨sender, .hold m patLen pattern placed⟩ :: _ =>
      linkEnd (mediaTail (takeHold sender m patLen pattern placed (popFifo s)))
    | _ => s

/-- A LIFT frame at HDU (R59). In STORE FAULT the lift is taken at once. -/
def takeLiftFrame (m : Matter) (time : Nat) (s : State) : State :=
  match slotOf s m with
  | some i =>
    match slotAt s i with
    | some h =>
      if m = 0 ∨ h.lifting ∨ (h.hold.unknown = false ∧ time < h.hold.placed) then s
      else if s.ctc.node = .storeFault then removeHold i m time s
      else takeLift i m (.liftHeard time) s
    | none => s
  | none => s

/-- LIFT_DISPATCH (R59). -/
def execLiftDispatch (s : State) : Host.Outcome State Fault Refusal :=
  powered s fun s =>
    match s.pbc.rxFifo with
    | ⟨_, .lift m time⟩ :: _ => mediaTail (takeLiftFrame m time (popFifo s))
    | _ => s

/-! ### HAVE, DROP, WANT, CLAIM (R122, R123, R128, R130, R131, R135) -/

/-- CTC adds a node to an entry's holder set, with a write where it was no member (R122, R130). -/
def addHolder (i : Nat) (id : NodeId) (effects : List Effect) (s : State) : State :=
  let e := entryAt s i
  if setHas e.holders id then runEffects i e effects s
  else commit i { e with holders := setAdd e.holders id } effects s

/-- CTC removes a node from an entry's holder set, with a write where it was a member (R123). -/
def removeHolder (i : Nat) (id : NodeId) (effects : List Effect) (s : State) : State :=
  let e := entryAt s i
  if setHas e.holders id then commit i { e with holders := setRemove e.holders id } effects s else runEffects i e effects s

/-- A HAVE at CTC and CNU (R122). -/
def takeHave (sender : NodeId) (key : ShortKey) (s : State) : State :=
  let s :=
    match findKey s key with
    | some i => testAppeal i (addHolder i sender [] s)
    | none => s
  haveAtLists key sender s

/-- HAVE_DISPATCH (R122). -/
def execHaveDispatch (s : State) : Host.Outcome State Fault Refusal :=
  powered s fun s =>
    match s.pbc.rxFifo with
    | ⟨sender, .haveCopy key _ _⟩ :: _ => takeHave sender key (popFifo s)
    | _ => s

/-- A DROP at CTC and CNU (R123). CNU's re-check of the entry, which may offer a WANT, follows the write of the holder set, or is
made at once where none is made (R10, R12, log 38). -/
def takeDrop (sender : NodeId) (key : ShortKey) (reason : DropReason) (s : State) : State :=
  let s :=
    match findKey s key with
    | some i => removeHolder i sender [.recheck] s
    | none => s
  dropAtLists key reason sender s

/-- DROP_DISPATCH (R123). -/
def execDropDispatch (s : State) : Host.Outcome State Fault Refusal :=
  powered s fun s =>
    match s.pbc.rxFifo with
    | ⟨sender, .drop key reason⟩ :: _ => takeDrop sender key reason (popFifo s)
    | _ => s

/-- A WANT: at a holder, its sender is a holder, its appeal is taken as heard, and, for an entry RETAINED or RELEASABLE now, a
repair HAVE follows the write of the holder set (log 43); otherwise it is a recruitment call (R128, R130, R131). The test of the
Appeal List entry counts the sender (log 53). -/
def takeWant (sender : NodeId) (w : Want) (s : State) : State :=
  match findKey s w.key with
  | some i =>
    let repair := if storedCopy (entryAt s i).state then [Effect.repairHave] else []
    appealHeard i (addHolder i sender repair s)
  | none => recruitCall w s

/-- WANT_DISPATCH (R128, R130, R131). -/
def execWantDispatch (s : State) : Host.Outcome State Fault Refusal :=
  powered s fun s =>
    match s.pbc.rxFifo with
    | ⟨sender, .want w⟩ :: _ => linkEnd (takeWant sender w (popFifo s))
    | _ => s

/-- CLAIM_DISPATCH (R135). -/
def execClaimDispatch (s : State) : Host.Outcome State Fault Refusal :=
  powered s fun s =>
    match s.pbc.rxFifo with
    | ⟨sender, .claim key⟩ :: _ => claimHeard key sender (popFifo s)
    | _ => s

end Sys2Proof.Machine
end

