-- ==== Sys2Proof/Machine/Requests.lean ====
section
/-! DEFINITION. The requests of RLI, RCK, CNU and EVU: START, SET TIME, SET SPACE, READ STATUS, CLEAR EVENTS, SET EVENT
ENABLES, with the acceptance of START and the end of a sent frame (10.1 to 10.8, R36, R37). -/

namespace Sys2Proof.Machine

/-! ### START (R176 to R178) -/

/-- The lowest class a record would shorten, on a store that is not blank (R176 <5>). -/
def startShortens (choice : Byte) (record : BitVec 416) (s : State) : Option Nat :=
  if choice = 1 ∧ s.store.header then shortenedClass s.store.settings (settingsOf record) else none

/-- The checks of START, in order (R176 <1> to <5>). -/
def startChecks (choice : Byte) (record : BitVec 416) (s : State) : List (Bool × Reply × Results) :=
  [(decide (s.ctc.node = .storeFault), .storeFault, .none),
   (decide (s.ctc.node ≠ .awaitingStart), .notNow, .node s.ctc.node),
   (s.rli.starting.isSome, .busy, .none),
   (decide (choice = 0) && !s.store.header, .notReady, .node s.ctc.node),
   ((startShortens choice record s).isSome, .shorten, .cls ((startShortens choice record s).getD 0))]

/-- A START that passes its checks: accepted at once for "use stored", and otherwise once its writes have completed
(R177, R178). -/
def takeStart (r : Req) (choice : Byte) (record : BitVec 416) (s : State) : State :=
  if choice = 0 then acceptStart r (s.ctc.settingsRead.getD s.store.settings) s
  else { s with rli := { s.rli with starting := some ⟨r, settingsOf record, !s.store.header⟩ } }

/-- START (R176). Its layout holds a choice of 0 or 1 (R193 <4>). -/
def execStart (tag : Byte) (choice : Byte) (record : BitVec 416) (s : State) : Host.Outcome State Fault Refusal :=
  request tag 0x01 (decide (choice.toNat ≤ 1)) s fun r s =>
    checked r (startChecks choice record s) (takeStart r choice record) s

/-- START_ACCEPTED: the writes of a START have completed (R177, R178). -/
def execStartAccepted (s : State) : Host.Outcome State Fault Refusal :=
  powered s fun s =>
    match s.rli.starting with
    | some st => linkEnd (startWritten st s)
    | none => s

/-! ### SET TIME (R36, R37) -/

/-- The checks of SET TIME (R36 <1> to <3>). -/
def setTimeChecks (time : Nat) (s : State) : List (Bool × Reply × Results) :=
  runningOnly s ++
    [(s.rck.rtValid, .notNow, .node s.ctc.node),
     (decide (time < s.rck.rf ∨ time < s.ctc.highWater), .timeLow, .floors s.rck.rf s.ctc.highWater)]

/-- SET TIME is accepted: RT takes the value, its marker is set, and BDT is recomputed (R37). -/
def takeTime (r : Req) (time : Nat) (s : State) : State :=
  answerReq r .done .none (recomputeBdt { s with rck := { s.rck with rt := time, rtValid := true } })

/-- SET TIME (R36). -/
def execSetTime (tag : Byte) (time : BitVec 40) (s : State) : Host.Outcome State Fault Refusal :=
  request tag 0x02 true s fun r s => checked r (setTimeChecks time.toNat s) (takeTime r time.toNat) s

/-! ### SET SPACE (R179) -/

/-- SET SPACE sets the open space, clamped to the media size (R179). -/
def takeSpace (r : Req) (blocks : Nat) (s : State) : State :=
  let space := min blocks (mediaSize s)
  answerReq r .done (.space space) { s with cnu := { s.cnu with openSpace := space } }

/-- SET SPACE (R179). -/
def execSetSpace (tag : Byte) (blocks : BitVec 40) (s : State) : Host.Outcome State Fault Refusal :=
  request tag 0x03 true s fun r s => checked r (afterLoading s) (takeSpace r blocks.toNat) s

/-! ### Status and events (R182, R185, R186) -/

/-- READ STATUS (R182). -/
def execReadStatus (tag : Byte) (s : State) : Host.Outcome State Fault Refusal :=
  request tag 0x11 true s fun r s => answerReq r .done (.status (statusBlock s)) s

/-- A request of EVU that changes flags or enables, answered with bytes 0 to 6 of the status block (Table 12-5). -/
def answerEvents (r : Req) (s : State) : State := answerReq r .done (eventResults s) s

/-- CLEAR EVENTS (R185). -/
def execClearEvents (tag : Byte) (mask : BitVec 24) (s : State) : Host.Outcome State Fault Refusal :=
  request tag 0x12 true s fun r s => answerEvents r (clearFlags mask s)

/-- SET EVENT ENABLES (R186). -/
def execSetEventEnables (tag : Byte) (mask : BitVec 24) (s : State) : Host.Outcome State Fault Refusal :=
  request tag 0x13 true s fun r s => answerEvents r (setEnables mask s)

/-! ### The transmitter (R173, R183) -/

/-- A frame has been sent: an answer's request is no longer outstanding, a notice leaves its queue and the next one is at
the head (R173, R174). -/
def frameDone (f : TxFrame) (s : State) : State :=
  match f with
  | .answer a =>
    { s with rli := { s.rli with
        tx := none
        requests := if a.queued then s.rli.requests.erase a.req else s.rli.requests } }
  | .notice _ =>
    { s with rli := { s.rli with tx := none, notices := s.rli.notices.tail, noticeStamp := s.rli.moment } }

/-- TRANSMIT_FRAME_DONE: the next waiting frame is taken (R173). -/
def execTransmitFrameDone (s : State) : Host.Outcome State Fault Refusal :=
  powered s fun s =>
    match s.rli.tx with
    | some f => linkEnd (frameDone f s)
    | none => s

end Sys2Proof.Machine
end

