-- ==== Sys2Proof/Machine/ServiceLine.lean ====
section
/-! DEFINITION. The service line (chapter 11). Each command is served from the blocks as they stand and changes nothing but
SLI's own state. -/

namespace Sys2Proof.Machine

/-- SLI takes a command while SVC_EN is high and no answer is being sent; any other is ignored (R188). -/
def serve (f : State → State) (s : State) : Host.Outcome State Fault Refusal :=
  powered s fun s => if s.pins.svcEn && s.sli.answer.isNone then f s else s

/-- An answer with its status byte (R189). -/
def svcAnswer (changing : Bool) (o : Reply) (body : SvcBody) (s : State) : State :=
  { s with sli := { s.sli with answer := some ⟨changing, latched s .watchHit, s.ctc.node, o, body⟩ } }

/-- What INSPECT STATUS reports beyond the status block (R190). -/
def inspection (s : State) : Inspection where
  sendCount := s.pbc.sendCount
  recvCount := s.pbc.recvCount
  runCount := s.pbc.runCount
  recoveryCount := s.pbc.recoveryCount
  walk := s.rwk.walk
  pendingWalk := s.rwk.pendingWalk
  settleEnded := decide (s.rwk.settle = .ended)
  cursor := s.scs.cursor
  freeCount := s.ctc.freeList.length
  watchKey := s.sli.watchKey
  watchLog := s.sli.watchLog

/-- INSPECT STATUS (R190). -/
def execInspectStatus (s : State) : Host.Outcome State Fault Refusal :=
  serve (fun s => svcAnswer false .done (.status (statusBlock s) (inspection s)) s) s

/-- The records SLI reports entries from: as last written, or the working copies in STORE FAULT (R189). -/
def shownCat (s : State) : Cat := if s.ctc.node = .storeFault then s.ctc.work else s.store.entries

/-- The CHANGING mark of an entry: a write outstanding, a visit in progress, or STORE FAULT (R189). -/
def entryChanging (s : State) (i : Nat) : Bool :=
  decide (s.ctc.node = .storeFault) || isChanging s i ||
    match s.rwk.walk with
    | some w => decide (w.visiting = some i)
    | none => false

/-- An entry as a service answer carries it: of a FREE entry the short key and announce owed alone, where it is owed-free
(R190 <3>, R193 <3>). -/
def shownEntry (e : Entry) : Entry :=
  if e.state = .free then (if e.owed = .dropFrame then { shortKey := e.shortKey, owed := .dropFrame } else freeEntry) else e

/-- The answer about an entry. -/
def answerEntry (i : Nat) (s : State) : State :=
  svcAnswer (entryChanging s i) .done (.entry i (shownEntry (catGet (shownCat s) i))) s

/-- The indices SLI reports: those below the load walk's next index while it runs, and those the load walk has read from
then on (R190 <1> to <3>, R81). -/
def shownLimit (s : State) : Nat :=
  match s.rwk.walk with
  | some ⟨.load, i, _⟩ => i
  | _ => s.ctc.loaded

/-- INSPECT ENTRY (R190): BAD_FIELD above 131,071, NOT_READY for an index that is not reported yet. -/
def execInspectEntry (index : BitVec 24) (s : State) : Host.Outcome State Fault Refusal :=
  serve (fun s =>
    if !indexFits index then svcAnswer false .badField .empty s
    else if shownLimit s ≤ index.toNat then svcAnswer false .notReady .empty s
    else answerEntry index.toNat s) s

/-- INSPECT KEY (R190): the records that SLI reports of the indices already visited are searched, in index order; so a key
whose first write is outstanding is not found, and of two stored records of one key the lower index answers (log 26). -/
def execInspectKey (key : BitVec 64) (s : State) : Host.Outcome State Fault Refusal :=
  serve (fun s =>
    match catFind ((shownCat s).filter fun p => decide (p.1 < shownLimit s)) key with
    | some i => answerEntry i s
    | none =>
      svcAnswer false (if shownLimit s < catalogueSize then .notReady else .unknownKey) .empty s) s

/-- A slot as last written, with the marks that are not kept in the store; the working copy in STORE FAULT (R189, followed
against R50's "every inspection", log 40). -/
def shownSlot (s : State) (i : Nat) : Option HoldSlot :=
  if s.ctc.node = .storeFault then slotAt s i
  else
    (s.store.holds.getD i none).map fun h =>
      match slotAt s i with
      | some w => { w with hold := h }
      | none => { hold := h }

/-- INSPECT HOLD (R190). -/
def execInspectHold (slot : Byte) (s : State) : Host.Outcome State Fault Refusal :=
  serve (fun s =>
    if 64 ≤ slot.toNat then svcAnswer false .badField .empty s
    else
      let changing := decide (s.ctc.node = .storeFault) || s.hdu.writes.any fun w => decide (w.slot = slot.toNat)
      svcAnswer changing .done (.slot (shownSlot s slot.toNat)) s) s

/-- INSPECT PEER (R190), with the last-heard time in milliseconds. -/
def execInspectPeer (id : Byte) (s : State) : Host.Outcome State Fault Refusal :=
  serve (fun s =>
    if 16 ≤ id.toNat then svcAnswer false .badField .empty s
    else
      let p := s.pbc.peers.getD id.toNat {}
      svcAnswer false .done (.peer p (p.heardAt.map fun h => s.coreMs - h)) s) s

/-- What INSPECT CLOCK reports (R190): of two outstanding floor values the later (log 37). -/
def clockReport (s : State) : ClockReport where
  rt := s.rck.rt
  rtValid := s.rck.rtValid
  bdt := s.rck.bdt
  rf := s.rck.rf
  floorWrite := s.rck.floorWrites.getLast?
  lastKnown := lastKnown s
  highWater := s.ctc.highWater
  quorumSkew := s.ctc.inForce.map fun c => (c.q, c.skew)

/-- INSPECT CLOCK (R190); CHANGING while a floor write is outstanding (R189). -/
def execInspectClock (s : State) : Host.Outcome State Fault Refusal :=
  serve (fun s => svcAnswer (!s.rck.floorWrites.isEmpty) .done (.clock (clockReport s)) s) s

/-- The watch key takes a value and the Watch Log is emptied (R191). -/
def takeWatch (key : Option ShortKey) (s : State) : State :=
  { s with sli := { s.sli with watchKey := key, watchLog := [] } }

/-- SET WATCH (R191). -/
def execSetWatch (key : BitVec 64) (s : State) : Host.Outcome State Fault Refusal :=
  serve (fun s => svcAnswer false .done .empty (takeWatch (some key) s)) s

/-- CLEAR WATCH (R191). -/
def execClearWatch (s : State) : Host.Outcome State Fault Refusal :=
  serve (fun s => svcAnswer false .done .empty (takeWatch none s)) s

/-- SERVICE_ANSWER_SENT: the next command may be taken (R188). -/
def execServiceAnswerSent (s : State) : Host.Outcome State Fault Refusal :=
  powered s fun s => { s with sli := { s.sli with answer := none } }

end Sys2Proof.Machine
end

