-- ==== Sys2Proof/Machine/RawFrames.lean ====
section
/-! DEFINITION. Frames given as the bytes of the line: UNKNOWN_REQUEST_FRAME on the request link (R173, R193 <4>) and
UNKNOWN_SERVICE_COMMAND on the service line (R188). Bytes that are a good frame run as the request or command they spell
(log 10). -/

namespace Sys2Proof.Machine

/-- The request a link frame spells, at its owner. -/
def runRequest (i : Instr) (s : State) : Host.Outcome State Fault Refusal :=
  match i with
  | .start tag choice record => execStart tag choice record s
  | .setTime tag time => execSetTime tag time s
  | .setSpace tag blocks => execSetSpace tag blocks s
  | .lodge tag key custLen cust cls n slots => execLodge tag key custLen cust cls n slots s
  | .adopt tag key custLen cust cls time n slots => execAdopt tag key custLen cust cls time n slots s
  | .refill tag index n slots => execRefill tag index n slots s
  | .dispose tag index => execDispose tag index s
  | .placeHold tag matter n pattern => execPlaceHold tag matter n pattern s
  | .liftHold tag matter => execLiftHold tag matter s
  | .lookup tag selector operand => execLookup tag selector operand s
  | .listReleasable tag start count => execListReleasable tag start count s
  | .mediaRead tag first count handle => execMediaRead tag first count handle s
  | .mediaWrite tag first count handle => execMediaWrite tag first count handle s
  | .mediaTrim tag first count handle => execMediaTrim tag first count handle s
  | .dormant tag => execDormant tag s
  | .wake tag => execWake tag s
  | .readStatus tag => execReadStatus tag s
  | .clearEvents tag mask => execClearEvents tag mask s
  | .setEventEnables tag mask => execSetEventEnables tag mask s
  | _ => .next s

/-- The command a service frame spells. -/
def runService (i : Instr) (s : State) : Host.Outcome State Fault Refusal :=
  match i with
  | .inspectStatus => execInspectStatus s
  | .inspectEntry index => execInspectEntry index s
  | .inspectKey key => execInspectKey key s
  | .inspectHold slot => execInspectHold slot s
  | .inspectPeer id => execInspectPeer id s
  | .inspectClock => execInspectClock s
  | .setWatch key => execSetWatch key s
  | .clearWatch => execClearWatch s
  | _ => .next s

/-- UNKNOWN_REQUEST_FRAME (R173 <1> to <4>). -/
def execUnknownRequestFrame (bytes : List Byte) (s : State) : Host.Outcome State Fault Refusal :=
  match readLinkFrame bytes with
  | .discard => .next s
  | .badField tag kind => powered s fun s => linkEnd (answerAtOnce ⟨tag, kind⟩ .badField s)
  | .request i => runRequest i s

/-- UNKNOWN_SERVICE_COMMAND (R188 <1>, <2>). -/
def execUnknownServiceCommand (bytes : List Byte) (s : State) : Host.Outcome State Fault Refusal :=
  match readSvcFrame bytes with
  | .discard => .next s
  | .badField => serve (svcAnswer false .badField .empty) s
  | .command i => runService i s

end Sys2Proof.Machine
end

