-- ==== Sys2Proof/Machine/WalkVisits.lean ====
section
/-! DEFINITION. The visits of the two walks (4.3 to 4.5): each is one event at its entry, with at most one write, for which
the walk waits. -/

namespace Sys2Proof.Machine

/-- The expiry a visit leaves: raised by the formula, but not in STORE FAULT (R48, R73 <2>, R79 <2>). -/
def raisedExpiry (s : State) (e : Entry) : Nat :=
  if s.ctc.node = .storeFault then e.expiry
  else max e.expiry (expiryOf e.lodgeTime (periodInForce s e.cls))

/-- The walk is visiting an index (R69). The next index shows it until the visit's write has completed, the FREE indices
below it being passed over (log 41). -/
def beginVisit (i : Nat) (s : State) : State :=
  { s with rwk := { s.rwk with walk := s.rwk.walk.map fun w => { w with next := i, visiting := some i } } }

/-- The end of a visit's decision: its one write where a field changed, and otherwise the walk moves on (R72 <3>, <4>).
`effects` follow the write, or the read where nothing was written. -/
def closeVisit (i : Nat) (e : Entry) (effects : List Effect) (s : State) : State :=
  if e = entryAt s i then runEffects i e (effects ++ [.visitDone]) s
  else commit i e (effects ++ [.visitDone]) (beginVisit i s)

/-! ### The load visit (R30, R80) -/

/-- What the load visit leaves of an entry's state, hold count and refill (R30, R76 <2>, <3>, R80 <4>). In STORE FAULT no
state changes (R12 <3>, log 15). -/
def loadedEntry (s : State) (e : Entry) : Entry :=
  let e := { e with expiry := raisedExpiry s e }
  let faulted := decide (s.ctc.node = .storeFault)
  match e.state with
  | .releasable => if !faulted && decide (s.rck.rf < e.expiry) then { e with state := .retained } else e
  | .disposing =>
    let e := { e with holdCount := holdsOn s e.cust }
    if e.holdCount = 0 ∨ e.eraseBegun ∨ faulted then e else { e with state := .retained }
  | .damaged => { e with refill := none }
  | _ => e

/-- The announcement a load visit offers again: one still owed by the entry as read (R29, R30), whatever its state; R30's table
names HAVE of RETAINED, RELEASABLE and DISPOSING and DROP of DAMAGED entries, and a record written between a change of state
and its announcement may owe the other (log 49). A HAVE of a LODGING entry is owed by none. -/
def offersAgain (s : State) (e : Entry) : Bool :=
  canOffer s && decide (e.owed ≠ .nothing) && !(decide (e.owed = .haveFrame) && heldBack s e.shortKey)

/-- The end of the highest ENTRY run the load walk has placed (R145 <3>). -/
def noteLoadedEnd (es : List Extent) (s : State) : State :=
  { s with exg := { s.exg with loadedEnd := es.foldl (fun m e => max m e.stop) s.exg.loadedEnd } }

/-- The media work a load visit resumes: the VERIFY of a LODGING entry, the ERASEs of an entry that stays DISPOSING (R30,
R80 <5>, <6>). -/
def resumeWork (i : Nat) (e : Entry) (s : State) : State :=
  match e.state with
  | .lodging => queueVerify i e false 0 none s
  | .disposing => takeOrder (queueErases i e.extents s.mar.disposeSeq s)
  | _ => s

/-- The load visit of a non-FREE entry (R80). -/
def loadOccupied (i : Nat) (e : Entry) (s : State) : State :=
  let new := loadedEntry s e
  let again := offersAgain s e
  let s := noteLoadedEnd e.extents (placeRuns i .entry e.extents s)
  let s := { s with scs := { s.scs with scrubbable := s.scs.scrubbable + (storedCopy e.state).toNat } }
  let s := if new.state = .disposing ∧ 0 < new.holdCount ∧ e.eraseBegun then raiseHoldLate e.shortKey s else s
  let s := resumeWork i new s
  if again then
    closeVisit i { new with owed := .nothing } []
      (enqueue { content := .frame (owedFrame e), producer := .announcement i false } s)
  else closeVisit i new [] s

/-- The load visit of a FREE entry: its index goes to the free-entry list, or its owed DROP is offered (R30, R80 <2>). -/
def loadFree (i : Nat) (e : Entry) (s : State) : State :=
  if e.owed = .dropFrame then
    if canOffer s then
      returnIndex i (closeVisit i freeEntry []
        (enqueue { content := .frame (owedFrame e), producer := .announcement i false } s))
    else closeVisit i e [] s
  else closeVisit i e [] (returnIndex i s)

/-- One visit of the load walk (R80). -/
def loadVisit (s : State) : State :=
  match s.rwk.walk with
  | some ⟨.load, i, none⟩ =>
    if i < catalogueSize then
      let e := entryAt s i
      let s := { s with ctc := { s.ctc with loaded := i + 1 } }
      if e.state = .free then loadFree i e s else loadOccupied i e s
    else s
  | _ => s

/-- LOAD_VISIT (R80, R81). -/
def execLoadVisit (s : State) : Host.Outcome State Fault Refusal :=
  powered s fun s => linkEnd (mediaTail (loadVisit s))

/-! ### The refresh visit (R73 to R79) -/

/-- The conditions under which a visit makes a RETAINED entry RELEASABLE (R74 <1> to <5>); `e` has its hold count and
expiry up to date. -/
def releases (s : State) (startEpoch : BitVec 32) (e : Entry) : Bool :=
  decide (e.expiry ≤ s.rck.rf) && decide (e.holdCount = 0) && !doubtStands s && decide (s.hdu.epoch = startEpoch) &&
    decide (s.ctc.node ≠ .storeFault)

/-- The state a refresh visit leaves (R74 to R77, R79 <2>); `e` has its hold count and expiry up to date. -/
def visitedState (s : State) (startEpoch : BitVec 32) (e : Entry) : EntryState :=
  if s.ctc.node = .storeFault then e.state
  else
    match e.state with
    | .retained => if releases s startEpoch e then .releasable else .retained
    | .releasable => if 0 < e.holdCount ∨ s.rck.rf < e.expiry then .retained else .releasable
    | .disposing => if 0 < e.holdCount ∧ e.eraseBegun = false then .retained else .disposing
    | st => st

/-- An entry as a refresh visit leaves it (R73 to R77). -/
def visitedEntry (s : State) (startEpoch : BitVec 32) (e : Entry) : Entry :=
  let e := { e with holdCount := holdsOn s e.cust, expiry := raisedExpiry s e }
  { e with state := visitedState s startEpoch e }

/-- What follows a refresh visit: the RELEASABLE notice and event, and the hand-over to CNU (R74, R78). -/
def visitEffects (s : State) (before after : Entry) : List Effect :=
  (if before.state = .retained ∧ after.state = .releasable then [.releasableNotice] else []) ++
    (if isShort s after && eligibleForAppeal s after && decide (s.rwk.settle = .ended) then [.census] else [])

/-- One visit of a refresh walk (R72 to R79). -/
def refreshVisit (s : State) : State :=
  match s.rwk.walk with
  | some ⟨.refresh startEpoch, low, none⟩ =>
    match nextOccupied s low with
    | some i =>
      let e := entryAt s i
      let new := visitedEntry s startEpoch e
      let effects := visitEffects s e new
      let s := if e.state = .disposing ∧ new.state = .retained then withdrawErases i s else s
      let s := if e.state = .disposing ∧ 0 < new.holdCount ∧ e.eraseBegun then raiseHoldLate e.shortKey s else s
      closeVisit i new effects s
    | none => s
  | _ => s

/-- REFRESH_VISIT (R73). -/
def execRefreshVisit (s : State) : Host.Outcome State Fault Refusal :=
  powered s fun s => linkEnd (mediaTail (refreshVisit s))

end Sys2Proof.Machine
end

