-- ==== Sys2Proof/Machine/StoreEvents.lean ====
section
/-! DEFINITION. The reports of the catalogue store port (R9 to R11): completed and failed writes, failed reads. -/

namespace Sys2Proof.Machine

/-- ENTRY_WRITE_COMPLETE of an index: its oldest outstanding write (R9, R10). -/
def execEntryWriteComplete (index : BitVec 17) (s : State) : Host.Outcome State Fault Refusal :=
  powered s fun s =>
    match s.ctc.writes.find? fun w => decide (w.index = index.toNat) with
    | some w => linkEnd (mediaTail (completeEntry w s))
    | none => s

/-- HOLD_SLOT_WRITE_COMPLETE of a slot: its oldest outstanding write (R56, R57, R59). -/
def execHoldSlotWriteComplete (slot : BitVec 6) (s : State) : Host.Outcome State Fault Refusal :=
  powered s fun s => linkEnd (mediaTail (completeSlot slot.toNat s))

/-- Whether a write of a record is outstanding at the store port. -/
def writeOutstanding (s : State) : StoreWrite → Bool
  | .entry i => isChanging s i.toNat
  | .holdSlot i => s.store.header && s.hdu.writes.any fun w => decide (w.slot = i.toNat)
  | .floor => !s.rck.floorWrites.isEmpty
  | .cursor => !s.scs.cursorWrites.isEmpty
  | .start => s.rli.starting.isSome

/-- STORE_WRITE_FAILED (R11). -/
def execStoreWriteFailed (record : StoreWrite) (s : State) : Host.Outcome State Fault Refusal :=
  powered s fun s => if writeOutstanding s record then linkEnd (mediaTail (enterStoreFault s)) else s

/-- The read that CTC needs to dispatch the Receive FIFO's oldest frame fails: the frame leaves the FIFO, CTC's part passes
over without change, and CNU takes its own (R11, log 48). -/
def passDispatch (s : State) : State :=
  match s.pbc.rxFifo with
  | ⟨sender, .haveCopy key _ _⟩ :: _ => haveAtLists key sender (popFifo (enterStoreFault s))
  | ⟨sender, .drop key reason⟩ :: _ => dropAtLists key reason sender (popFifo (enterStoreFault s))
  | ⟨_, .want _⟩ :: _ => popFifo (enterStoreFault s)
  | _ => s

/-- A read of an entry's record fails for the next action that needs it: a grant (R98), an epoch change (R66), an emptied
queue (R99), an appeal (R127, R129) or a LIST RELEASABLE (R181), which then passes over it (R11, log 48). -/
def failRecord (i : Nat) (s : State) : State :=
  let s := enterStoreFault s
  { s with ctc := { s.ctc with unread := i :: s.ctc.unread } }

/-- A read fails (R11): of a reset, before START; of the visit a walk is about to make (R72, R81); of the dispatch of a frame;
of an entry for another action. A failed read that is not the load visit's own leaves a load walk running (log 50). -/
def readFails (r : StoreRead) (s : State) : State :=
  if isResetRead r then
    if s.ctc.inForce.isNone then resetReadFails r (enterStoreFault s) else s
  else
    match r, s.rwk.walk with
    | .loadVisit, some ⟨.load, i, none⟩ => if i < catalogueSize then stopLoadWalk s else s
    | .refreshVisit, some ⟨.refresh _, low, none⟩ =>
      match nextOccupied s low with
      | some i => moveOn i (enterStoreFault s)
      | none => s
    | .dispatch, _ => passDispatch s
    | .entry i, _ => failRecord i.toNat s
    | _, _ => s

/-- STORE_READ_FAILED (R11). -/
def execStoreReadFailed (record : StoreRead) (s : State) : Host.Outcome State Fault Refusal :=
  powered s fun s => linkEnd (mediaTail (readFails record s))

end Sys2Proof.Machine
end

