-- ==== Sys2Proof/Machine/Timers.lean ====
section
/-! DEFINITION. The ends of timers and the advance of RT (R32, R60, R61, R82, R117, R119, R127, R129, R134, R136, R138,
R160), with the completion of a floor write (R43). An expiry is taken whenever its timer runs (log 3), but the end of a presence
window, a re-arm period and a candidate's period only when it is over (R117, R129, R136). -/

namespace Sys2Proof.Machine

/-- RT_ADVANCE: RT advances with the time domain; with core power, CLOCK is raised again while RT is invalid and BDT is
recomputed (R32, R34 <5>, R41). -/
def execRtAdvance (s : State) : Host.Outcome State Fault Refusal :=
  match s.pins.power with
  | .on =>
    let s := advanceRt s
    .next (recomputeBdt (if s.rck.rtValid then s else raise .clock s))
  | .offKept => .next (advanceRt s)
  | .offLost => .next s

/-- FLOOR_WRITE_COMPLETE: RF takes the written value and a refresh walk is triggered (R43). -/
def execFloorWriteComplete (s : State) : Host.Outcome State Fault Refusal :=
  powered s fun s =>
    match s.rck.floorWrites with
    | v :: rest =>
      trigger
        { s with
          rck := { s.rck with rf := v, floorWrites := rest }
          store := { s.store with rf := v } }
    | [] => s

/-- BEACON_TIMER_EXPIRY (R119). -/
def execBeaconTimerExpiry (s : State) : Host.Outcome State Fault Refusal :=
  powered s fun s =>
    if s.pbc.beaconTimer.isSome then
      offerBeacon { s with pbc := { s.pbc with
        beaconTimer := some (s.coreMs + seconds (inForceOr s Settings.beacon 0)) } }
    else s

/-- PRESENCE_WINDOW_END of a node (R117, R118). After a BEACON of the peer has been taken its last-heard time is 0, and the
slot stays PRESENT. -/
def execPresenceWindowEnd (id : BitVec 4) (s : State) : Host.Outcome State Fault Refusal :=
  powered s fun s => if windowOver s id then changePresence id .absent s else s

/-! ### The round boundary (R61) -/

/-- A slot at a round boundary: HOLD is offered where its heard and lifting fields are clear, and send owed takes the
outcome (R61 <1>). -/
def roundSlot (s : State) (i : Nat) : State :=
  match slotAt s i with
  | some h =>
    if h.heard || h.lifting then s
    else if canOffer s then updateSlot i (fun h => { h with sendOwed := false }) (enqueueFrame (holdFrame h.hold) s)
    else updateSlot i (fun h => { h with sendOwed := true }) s
  | none => s

/-- The heard-this-round fields clear and the Lifted List ages (R61 <2>, <3>). -/
def ageRound (s : State) : State :=
  { s with hdu := { s.hdu with
      slots := s.hdu.slots.map (Option.map fun h => { h with heard := false })
      lifted := (s.hdu.lifted.filter fun l => decide (l.age = 0)).map fun l => { l with age := 1 } } }

/-- A round boundary: offers in slot order, aging, and the doubt timer (R61). -/
def roundBoundary (s : State) : State :=
  countRound (ageRound ((List.range s.hdu.slots.length).foldl roundSlot s))

/-- ROUND_BOUNDARY: the round timer expires and starts again (R60, R61). -/
def execRoundBoundary (s : State) : Host.Outcome State Fault Refusal :=
  powered s fun s =>
    if s.hdu.roundTimer.isSome then
      roundBoundary { s with hdu := { s.hdu with
        roundTimer := some (s.coreMs + seconds (inForceOr s Settings.holdRound 60)) } }
    else s

/-- SETTLE_PERIOD_END: from then on the node is past the settle period, and a refresh walk is triggered (R82). -/
def execSettlePeriodEnd (s : State) : Host.Outcome State Fault Refusal :=
  powered s fun s =>
    match s.rwk.settle with
    | .until _ => trigger { s with rwk := { s.rwk with settle := .ended } }
    | _ => s

/-- The balance at a scrub tick (R160 <1> to <3>). -/
def tickBalance (s : State) : State :=
  if s.scs.scrubbable = 0 then s
  else if s.scs.balance < 8 then { s with scs := { s.scs with balance := s.scs.balance + 1 } }
  else raise .scrubLag s

/-- SCRUB_TICK: the tick timer expires and starts again (R160). -/
def execScrubTick (s : State) : Host.Outcome State Fault Refusal :=
  powered s fun s =>
    if s.scs.tickTimer.isSome then
      mediaTail (tickBalance { s with scs := { s.scs with
        tickTimer := some (s.coreMs + seconds (inForceOr s Settings.scrubTick 1)) } })
    else s

/-! ### The census timers -/

/-- APPEAL_TIMER_EXPIRY of an index (R127). -/
def execAppealTimerExpiry (index : BitVec 17) (s : State) : Host.Outcome State Fault Refusal :=
  let i := index.toNat
  powered s (atAppeal i (fun a => !a.appealed) (withRecord i (appealOrLeave i)))

/-- APPEAL_REARM of an index whose period is over; a WANT heard since has begun it again (R128, R129). -/
def execAppealRearm (index : BitVec 17) (s : State) : Host.Outcome State Fault Refusal :=
  let i := index.toNat
  powered s (atAppeal i (fun a => a.appealed && isDue s (some (rearmTime s a))) (withRecord i (rearmOrLeave i)))

/-- RECRUIT_TIMER_EXPIRY of a key (R134, R137). -/
def execRecruitTimerExpiry (key : BitVec 64) (s : State) : Host.Outcome State Fault Refusal :=
  powered s fun s => linkEnd (recruitExpire key s)

/-- CANDIDATE_EXPIRY of a key: one claim lifetime without a WANT that the node was eligible to take (R136 <1>, log 44). -/
def execCandidateExpiry (key : BitVec 64) (s : State) : Host.Outcome State Fault Refusal :=
  powered s (candidateUnwanted key)

/-- CLAIM_LIFETIME_EXPIRY of a key (R138). -/
def execClaimLifetimeExpiry (key : BitVec 64) (s : State) : Host.Outcome State Fault Refusal :=
  powered s fun s => linkEnd (claimLapse key s)

end Sys2Proof.Machine
end

