-- ==== Sys2Proof/Machine/Dispatch.lean ====
section
/-! DEFINITION. The dispatch of a command to its meaning: one arm for each constructor of `Instr`. -/

namespace Sys2Proof.Machine

open Sys2Proof

def exec (i : Instr) (s : State) : Host.Outcome State Fault Refusal :=
  match i with
  | .coldStart slot timeDomainKept => Sys2Proof.Machine.execColdStart slot timeDomainKept s
  | .warmReset slot => Sys2Proof.Machine.execWarmReset slot s
  | .guardAsserted => Sys2Proof.Machine.execGuardAsserted s
  | .guardReleased => Sys2Proof.Machine.execGuardReleased s
  | .mediaReadyRise size => Sys2Proof.Machine.execMediaReadyRise size s
  | .svcEnFall => Sys2Proof.Machine.execSvcEnFall s
  | .start tag choice record => Sys2Proof.Machine.execStart tag choice record s
  | .startAccepted => Sys2Proof.Machine.execStartAccepted s
  | .setTime tag time => Sys2Proof.Machine.execSetTime tag time s
  | .setSpace tag blocks => Sys2Proof.Machine.execSetSpace tag blocks s
  | .lodge tag fullKey custLen cust cls extCount slots => Sys2Proof.Machine.execLodge tag fullKey custLen cust cls extCount slots s
  | .adopt tag fullKey custLen cust cls lodgeTime extCount slots => Sys2Proof.Machine.execAdopt tag fullKey custLen cust cls lodgeTime extCount slots s
  | .refill tag index extCount slots => Sys2Proof.Machine.execRefill tag index extCount slots s
  | .dispose tag index => Sys2Proof.Machine.execDispose tag index s
  | .placeHold tag matter patLen pattern => Sys2Proof.Machine.execPlaceHold tag matter patLen pattern s
  | .liftHold tag matter => Sys2Proof.Machine.execLiftHold tag matter s
  | .lookup tag selector operand => Sys2Proof.Machine.execLookup tag selector operand s
  | .listReleasable tag startIndex count => Sys2Proof.Machine.execListReleasable tag startIndex count s
  | .mediaRead tag startBlock count handle => Sys2Proof.Machine.execMediaRead tag startBlock count handle s
  | .mediaWrite tag startBlock count handle => Sys2Proof.Machine.execMediaWrite tag startBlock count handle s
  | .mediaTrim tag startBlock count handle => Sys2Proof.Machine.execMediaTrim tag startBlock count handle s
  | .dormant tag => Sys2Proof.Machine.execDormant tag s
  | .wake tag => Sys2Proof.Machine.execWake tag s
  | .readStatus tag => Sys2Proof.Machine.execReadStatus tag s
  | .clearEvents tag mask => Sys2Proof.Machine.execClearEvents tag mask s
  | .setEventEnables tag mask => Sys2Proof.Machine.execSetEventEnables tag mask s
  | .transmitFrameDone => Sys2Proof.Machine.execTransmitFrameDone s
  | .inspectStatus => Sys2Proof.Machine.execInspectStatus s
  | .inspectEntry index => Sys2Proof.Machine.execInspectEntry index s
  | .inspectKey key => Sys2Proof.Machine.execInspectKey key s
  | .inspectHold slot => Sys2Proof.Machine.execInspectHold slot s
  | .inspectPeer id => Sys2Proof.Machine.execInspectPeer id s
  | .inspectClock => Sys2Proof.Machine.execInspectClock s
  | .setWatch key => Sys2Proof.Machine.execSetWatch key s
  | .clearWatch => Sys2Proof.Machine.execClearWatch s
  | .frameReceived kind sender payload => Sys2Proof.Machine.execFrameReceived kind sender payload s
  | .beaconDispatch => Sys2Proof.Machine.execBeaconDispatch s
  | .holdDispatch => Sys2Proof.Machine.execHoldDispatch s
  | .liftDispatch => Sys2Proof.Machine.execLiftDispatch s
  | .haveDispatch => Sys2Proof.Machine.execHaveDispatch s
  | .dropDispatch => Sys2Proof.Machine.execDropDispatch s
  | .wantDispatch => Sys2Proof.Machine.execWantDispatch s
  | .claimDispatch => Sys2Proof.Machine.execClaimDispatch s
  | .attemptStart => Sys2Proof.Machine.execAttemptStart s
  | .arbitrationLost winner => Sys2Proof.Machine.execArbitrationLost winner s
  | .frameSent => Sys2Proof.Machine.execFrameSent s
  | .sendError e => Sys2Proof.Machine.execSendError e s
  | .receiveError e => Sys2Proof.Machine.execReceiveError e s
  | .dominantRunError => Sys2Proof.Machine.execDominantRunError s
  | .leaveSilent => Sys2Proof.Machine.execLeaveSilent s
  | .bitRateChange => Sys2Proof.Machine.execBitRateChange s
  | .rtAdvance => Sys2Proof.Machine.execRtAdvance s
  | .floorWriteComplete => Sys2Proof.Machine.execFloorWriteComplete s
  | .beaconTimerExpiry => Sys2Proof.Machine.execBeaconTimerExpiry s
  | .presenceWindowEnd id => Sys2Proof.Machine.execPresenceWindowEnd id s
  | .roundBoundary => Sys2Proof.Machine.execRoundBoundary s
  | .holdSlotWriteComplete slot => Sys2Proof.Machine.execHoldSlotWriteComplete slot s
  | .settlePeriodEnd => Sys2Proof.Machine.execSettlePeriodEnd s
  | .loadVisit => Sys2Proof.Machine.execLoadVisit s
  | .refreshVisit => Sys2Proof.Machine.execRefreshVisit s
  | .entryWriteComplete index => Sys2Proof.Machine.execEntryWriteComplete index s
  | .storeWriteFailed record => Sys2Proof.Machine.execStoreWriteFailed record s
  | .storeReadFailed record => Sys2Proof.Machine.execStoreReadFailed record s
  | .mediaCompletion tag result => Sys2Proof.Machine.execMediaCompletion tag result s
  | .mediaTimerExpiry => Sys2Proof.Machine.execMediaTimerExpiry s
  | .scrubTick => Sys2Proof.Machine.execScrubTick s
  | .appealTimerExpiry index => Sys2Proof.Machine.execAppealTimerExpiry index s
  | .appealRearm index => Sys2Proof.Machine.execAppealRearm index s
  | .recruitTimerExpiry key => Sys2Proof.Machine.execRecruitTimerExpiry key s
  | .candidateExpiry key => Sys2Proof.Machine.execCandidateExpiry key s
  | .claimLifetimeExpiry key => Sys2Proof.Machine.execClaimLifetimeExpiry key s
  | .mediaReadyFall => Sys2Proof.Machine.execMediaReadyFall s
  | .svcEnRise => Sys2Proof.Machine.execSvcEnRise s
  | .serviceAnswerSent => Sys2Proof.Machine.execServiceAnswerSent s
  | .unknownRequestFrame bytes => Sys2Proof.Machine.execUnknownRequestFrame bytes s
  | .unknownServiceCommand bytes => Sys2Proof.Machine.execUnknownServiceCommand bytes s
  | .elevenRecessiveBitsRead => Sys2Proof.Machine.execElevenRecessiveBitsRead s
  | .corePowerLoss battery => Sys2Proof.Machine.execCorePowerLoss battery s

end Sys2Proof.Machine
end

