-- ==== Sys2Proof/Machine/Tick.lean ====
section
/-! DEFINITION. What an idle step does: one millisecond of the core clock passes, and the expiries that fall due are put
into the queue of commands in a fixed order (DESIGN CHOICE, log 1). -/

namespace Sys2Proof.Machine

/-- A command, if a condition holds. -/
def dueIf (due : Bool) (i : Instr) : List Instr := if due then [i] else []

/-- Whether the settle period's time has come (R82). -/
def settleDue (s : State) : Bool :=
  match s.rwk.settle with
  | .until t => decide (t ≤ s.coreMs)
  | _ => false

/-- The expiries of the node's single timers. -/
def dueTimers (s : State) : List Instr :=
  dueIf (isDue s s.pbc.beaconTimer) .beaconTimerExpiry ++ dueIf (isDue s s.hdu.roundTimer) .roundBoundary ++
    dueIf (settleDue s) .settlePeriodEnd ++ dueIf (isDue s s.scs.tickTimer) .scrubTick ++
    dueIf (isDue s s.mar.timer) .mediaTimerExpiry

/-- The expiries of the census (R127, R129, R134, R136 <1>, R138). -/
def dueCensus (s : State) : List Instr :=
  s.cnu.appeals.flatMap (fun a =>
    dueIf (isDue s a.timer) (.appealTimerExpiry (BitVec.ofNat 17 a.index)) ++
      dueIf (a.appealed && isDue s (some (rearmTime s a))) (.appealRearm (BitVec.ofNat 17 a.index))) ++
  s.cnu.candidates.flatMap (fun c =>
    dueIf (isDue s c.timer) (.recruitTimerExpiry c.key) ++
      dueIf (isDue s (some (unwantedTime s c))) (.candidateExpiry c.key)) ++
  s.cnu.claims.flatMap fun c => dueIf (isDue s (some c.deadline)) (.claimLifetimeExpiry c.key)

/-- What the quiet line brings: the 11 recessive bits, and the return from SILENT (R86, R114). -/
def dueLine (s : State) : List Instr :=
  dueIf s.pbc.awaitingEleven .elevenRecessiveBitsRead ++
    dueIf (decide (s.pbc.confinement = .silent) && decide (64 ≤ s.pbc.recoveryCount)) .leaveSilent

/-- The commands that fall due. -/
def dueCommands (s : State) : List Instr :=
  dueLine s ++ (allNodes.filter (windowOver s)).map Instr.presenceWindowEnd ++ dueTimers s ++ dueCensus s

/-- The bits of one millisecond at a bit rate code: 500, 1000, 2000 or 4000 (R85). -/
def bitsPerMs (code : Nat) : Nat := 500 * 2 ^ code

/-- A millisecond of recessive bits: an error sequence is past its delimiter, a restrained wait is over, and a SILENT node
counts the bits (R108, R112, R114, log 8, log 25). -/
def quietLine (s : State) : State :=
  let s := { s with pbc := { s.pbc with errorSeq := none, restrainedWait := false } }
  if s.pbc.confinement = .silent then countRecessive (bitsPerMs s.pbc.bitRate) s else s

/-- The oldest outstanding cursor write completes (R162, log 9). -/
def cursorWritten (s : State) : State :=
  match s.scs.cursorWrites with
  | v :: rest =>
    { s with
      scs := { s.scs with cursorWrites := rest }
      store := { s.store with cursor := v } }
  | [] => s

/-- One millisecond with nothing commanded. -/
def idle (s : State) : State :=
  if s.pins.power = .on then
    let s := cursorWritten (quietLine { s with coreMs := s.coreMs + 1 })
    { s with pending := s.pending ++ dueCommands s }
  else s

end Sys2Proof.Machine
end

