-- ==== Sys2Proof/Safety.lean ====
section
/-! DEFINITION. The terms in which claims about the IX640 are made: when a request is taken by its owner, what an answer
is, what a command leaves alone, and the laws of the part as predicates of its state. -/

namespace Sys2Proof.Machine

/-! ### Requests and answers -/

/-- Core power is on (R33). -/
abbrev Powered (s : State) : Prop := s.pins.power = .on

/-- A request of this tag is handed to its owner: the part is powered, the tag is good, the request queue has room and the
tag is not outstanding (R173 <2>, R174). -/
abbrev Accepting (s : State) (tag : Byte) : Prop :=
  Powered s ∧ tag ≠ 0 ∧ s.rli.requests.length < 32 ∧ tagOutstanding s tag = false

/-- An answer frame is on its way: ready, or at the transmitter (R173). -/
def Given (t : State) (a : Answer) : Prop :=
  (∃ n, ReadyAnswer.mk n a ∈ t.rli.answers) ∨ t.rli.tx = some (.answer a)

/-- A request of the queue has been answered by its owner (R174, R175). -/
def Answered (t : State) (r : Req) (o : Reply) (res : Results) : Prop := Given t ⟨r, true, o, res⟩

/-- A request has been answered by RLI without entering the queue (R173 <3>, R174 <1> and <2>). -/
def AnsweredAtOnce (t : State) (r : Req) (o : Reply) : Prop := Given t ⟨r, false, o, .none⟩

/-- Two states agree in everything but the request link, and the count of free values its transmitter takes. -/
def SameButLink (t e : State) : Prop := { t with rli := e.rli, free := e.free } = e

/-- A notice is waiting in the queue or was there already. -/
def Posted (t : State) (n : Notice) : Prop := n ∈ t.rli.notices

/-- The request a command brings and whether its operands fit their layout (Table 12-3, R193 <4>). -/
def requestOfCommand : Instr → Option (Req × Bool)
  | .start tag choice _ => some (⟨tag, 0x01⟩, decide (choice.toNat ≤ 1))
  | .setTime tag _ => some (⟨tag, 0x02⟩, true)
  | .setSpace tag _ => some (⟨tag, 0x03⟩, true)
  | .lodge tag _ _ _ _ n slots => some (⟨tag, 0x04⟩, extentsFit n slots)
  | .adopt tag _ _ _ _ _ n slots => some (⟨tag, 0x05⟩, extentsFit n slots)
  | .refill tag _ n slots => some (⟨tag, 0x06⟩, extentsFit n slots)
  | .dispose tag _ => some (⟨tag, 0x07⟩, true)
  | .placeHold tag _ _ _ => some (⟨tag, 0x08⟩, true)
  | .liftHold tag _ => some (⟨tag, 0x09⟩, true)
  | .lookup tag selector _ => some (⟨tag, 0x0A⟩, decide (selector.toNat ≤ 1))
  | .listReleasable tag _ _ => some (⟨tag, 0x0B⟩, true)
  | .mediaRead tag _ _ _ => some (⟨tag, 0x0C⟩, true)
  | .mediaWrite tag _ _ _ => some (⟨tag, 0x0D⟩, true)
  | .mediaTrim tag _ _ _ => some (⟨tag, 0x0E⟩, true)
  | .dormant tag => some (⟨tag, 0x0F⟩, true)
  | .wake tag => some (⟨tag, 0x10⟩, true)
  | .readStatus tag => some (⟨tag, 0x11⟩, true)
  | .clearEvents tag _ => some (⟨tag, 0x12⟩, true)
  | .setEventEnables tag _ => some (⟨tag, 0x13⟩, true)
  | _ => none

/-- The service commands (Table 12-9). -/
def isServiceCommand : Instr → Bool
  | .inspectStatus | .inspectEntry _ | .inspectKey _ | .inspectHold _ | .inspectPeer _ | .inspectClock | .setWatch _
  | .clearWatch => true
  | _ => false

/-- SLI takes a command: the part is powered, SVC_EN is high and no answer is being sent (R188). -/
abbrev Serving (s : State) : Prop := Powered s ∧ s.pins.svcEn = true ∧ s.sli.answer = none

/-! ### How a command runs -/

/-- A command runs on to a state in which its effect is seen. -/
def Runs (c : Instr) (s : State) (p : State → Prop) : Prop := ∃ t, exec c s = .next t ∧ p t

/-- A command runs on to a state that is `e` but for the link's transmitter: the request queue, the notices and the START
in progress are those of `e`, the answers on their way are those of before and the new ones, and a frame that was being
sent is being sent still (R173, R174, R183). -/
def Ends (c : Instr) (s e : State) (new : List Answer) : Prop :=
  Runs c s fun t =>
    SameButLink t e ∧ t.rli.requests = e.rli.requests ∧ t.rli.notices = e.rli.notices ∧
      t.rli.starting = e.rli.starting ∧ (∀ f, s.rli.tx = some f → t.rli.tx = some f) ∧
      ∀ a, Given t a ↔ Given s a ∨ a ∈ new

/-- A request enters the queue and is answered, and the part is otherwise left as `e`. -/
def Answers (c : Instr) (s : State) (r : Req) (o : Reply) (res : Results) (e : State) : Prop :=
  Ends c s (enterQueue r e) [⟨r, true, o, res⟩]

/-- A request enters the queue and is answered, and nothing else changes. -/
def Refuses (c : Instr) (s : State) (r : Req) (o : Reply) (res : Results) : Prop := Answers c s r o res s

/-- A request enters the queue and is not answered yet; the part is otherwise left as `e`. -/
def Takes (c : Instr) (s : State) (r : Req) (e : State) : Prop := Ends c s (enterQueue r e) []

/-! ### What a command leaves -/

/-- What a reset leaves: the own id as sampled, RT and its marker as given, the store and the pins as they stand, and every
other register at its reset value (R30, R33, R44, R68, R69, R85, R106, R115, R117, R121, R142, R157, R159, R187, R192). -/
def AfterReset (slot : NodeId) (rt : Nat) (valid : Bool) (u t : State) : Prop :=
  t.pins = { u.pins with power := .on, mediaAborts := u.pins.mediaAborts + 1 } ∧ t.pending = u.pending ∧ t.coreMs = 0 ∧
  -- CTC
  t.ctc.node = .awaitingStart ∧ t.ctc.work = t.store.entries ∧ t.ctc.writes = [] ∧ t.ctc.freeList = [] ∧
  t.ctc.eraseDone = [] ∧ t.ctc.holdLateKey = none ∧ t.ctc.loaded = 0 ∧ t.ctc.loadStopped = false ∧ t.ctc.inForce = none ∧
  t.ctc.unread = [] ∧
  t.ctc.highWater = (if t.store.header then t.store.highWater else 0) ∧
  t.ctc.settingsRead = (if t.store.header then some t.store.settings else none) ∧
  -- RCK
  t.rck.rt = rt ∧ t.rck.rtValid = valid ∧ t.rck.rf = (if t.store.header then t.store.rf else 0) ∧ t.rck.bdt = t.rck.rf ∧
  t.rck.floorWrites = [] ∧
  -- HDU
  t.hdu.slots = (if t.store.header then t.store.holds.map (Option.map fun h => ⟨h, false, false, false⟩)
    else List.replicate 64 none) ∧
  t.hdu.writes = [] ∧ t.hdu.lifted = [] ∧ t.hdu.epoch = 0 ∧ t.hdu.doubt = ⟨true, false, false⟩ ∧
  t.hdu.doubtTimer = none ∧ t.hdu.roundTimer = none ∧
  -- RWK
  t.rwk.walk = none ∧ t.rwk.pendingWalk = false ∧ t.rwk.settle = .notBegun ∧ t.rwk.loadEnded = false ∧
  -- PBC
  t.pbc.ownId = slot ∧ t.pbc.bitRate = (if t.store.header then t.store.settings.bitRate else 1) ∧
  t.pbc.rateChange = none ∧ t.pbc.awaitingEleven = true ∧ t.pbc.sendOpen = false ∧ t.pbc.sendQueue = [] ∧
  t.pbc.attempt = none ∧ t.pbc.heldBeacon = false ∧ t.pbc.restrainedWait = false ∧ t.pbc.rxFifo = [] ∧
  t.pbc.dupId = false ∧ t.pbc.errorSeq = none ∧ t.pbc.sendCount = 0 ∧ t.pbc.recvCount = 0 ∧
  t.pbc.confinement = .voiced ∧ t.pbc.caution = false ∧ t.pbc.runCount = 0 ∧ t.pbc.recoveryCount = 0 ∧
  t.pbc.beaconTimer = none ∧ t.pbc.peers.length = 16 ∧
  (∀ id : NodeId, peerAt t id =
    ⟨if id = slot then .self else .absent, .invalid, none, none, none, false, false⟩) ∧
  -- CNU, EXG, MAR, SCS
  t.cnu.appeals = [] ∧ t.cnu.candidates = [] ∧ t.cnu.claims = [] ∧ t.cnu.repairs = [] ∧ t.cnu.openSpace = 0 ∧
  t.exg.runs = [] ∧ t.exg.reportedSize = 0 ∧ t.exg.sizeTaken = false ∧ t.exg.loadedEnd = 0 ∧
  t.mar.gated = [] ∧ t.mar.verifies = [] ∧ t.mar.erases = [] ∧ t.mar.grantedErase = none ∧ t.mar.inFlight = none ∧
  t.mar.timer = none ∧ t.mar.issueTag = 0 ∧
  t.scs.cursor = (if t.store.header then t.store.cursor else 0) ∧ t.scs.cursorWrites = [] ∧ t.scs.balance = 0 ∧
  t.scs.tickTimer = none ∧ t.scs.request = none ∧ t.scs.owed = false ∧ t.scs.scrubbable = 0 ∧
  t.scs.waitingDormant = none ∧ t.scs.wake = none ∧ t.scs.mediaSleep = false ∧
  -- RLI, EVU, SLI
  t.rli.requests = [] ∧ t.rli.answers = [] ∧ t.rli.notices = [] ∧ t.rli.tx = none ∧ t.rli.starting = none ∧
  t.evu.flags = (if valid then 0 else 0x100000) ||| (if u.pins.guardAsserted then 0x010000 else 0) ∧
  t.evu.enables = 0x010000 ∧
  t.sli.watchKey = none ∧ t.sli.watchLog = [] ∧ t.sli.answer = none

/-- A PRESENT peer was last heard a presence window ago or longer, by the beacon interval of the settings `cfg` (R117). -/
abbrev WindowOver (u : State) (cfg : Settings) (id : NodeId) : Prop :=
  (peerAt u id).presence = .present ∧ ∃ h ∈ (peerAt u id).heardAt, h + 3000 * cfg.beacon ≤ u.coreMs

/-- A START accepted with the settings `cfg`, taking the part from `u` to `e` (R178): the node is LOADING with the settings
in force, the load walk at index 0, the hold round and doubt timers started, the Send Queue open with its first BEACON, the
beacon timer started, a change of bit rate to come where the rate differs, slots whose window is already over ABSENT
(R117 <2>), and the presented media size taken where MEDIA_READY is high (R145 <2>). -/
def StartTaken (cfg : Settings) (u e : State) : Prop :=
  e.ctc = { u.ctc with node := .loading, inForce := some cfg } ∧
  e.hdu = { u.hdu with roundTimer := some (u.coreMs + 1000 * cfg.holdRound), doubtTimer := some 0 } ∧
  e.rwk.walk = some ⟨.load, 0, none⟩ ∧ e.rwk.settle = u.rwk.settle ∧ e.rwk.loadEnded = u.rwk.loadEnded ∧
  e.pbc = { u.pbc with
    sendOpen := true, sendQueue := e.pbc.sendQueue, heldBeacon := e.pbc.heldBeacon
    beaconTimer := some (u.coreMs + 1000 * cfg.beacon)
    rateChange := if cfg.bitRate = u.pbc.bitRate then none else some cfg.bitRate
    peers := e.pbc.peers } ∧
  (u.pbc.sendQueue = [] → e.pbc.heldBeacon = u.pbc.heldBeacon ∧
    e.pbc.sendQueue = if u.pbc.dupId = true ∨ u.pbc.confinement = .silent then [] else [{ content := .beacon }]) ∧
  (u.pbc.peers.length = 16 → e.pbc.peers.length = 16 ∧ ∀ id : NodeId, peerAt e id =
    if WindowOver u cfg id then { peerAt u id with presence := .absent } else peerAt u id) ∧
  e.exg = (if u.pins.mediaReady = true ∧ u.exg.sizeTaken = false then
    { u.exg with reportedSize := u.pins.presentedSize, sizeTaken := true } else u.exg) ∧
  ((∃ id, WindowOver u cfg id) → e.rwk.pendingWalk = true ∧ e.evu.flags = u.evu.flags ||| 0x001000) ∧
  ((∀ id, ¬ WindowOver u cfg id) → e.rwk.pendingWalk = u.rwk.pendingWalk ∧ e.evu.flags = u.evu.flags) ∧
  e = { u with
    ctc := e.ctc, hdu := e.hdu, rwk := e.rwk, pbc := e.pbc, exg := e.exg, evu := { u.evu with flags := e.evu.flags } }

/-- A LODGE or ADOPT passes every check of R17. -/
abbrev LodgePasses (s : State) (key : FullKey) (custLen cls : Nat) (es : List Extent) : Prop :=
  s.ctc.node = .running ∧ 1 ≤ custLen ∧ custLen ≤ 4 ∧ cls ≤ 15 ∧ s.rck.rtValid = true ∧ s.pins.guardAsserted = false ∧
    (∀ p ∈ s.ctc.work, p.2.state ≠ .free → p.2.fullKey ≠ key ∧ p.2.shortKey ≠ shortKeyOf key) ∧ s.ctc.freeList ≠ [] ∧
    (∀ x ∈ es, x.first + x.count ≤ mediaSize s) ∧
    (∀ x ∈ es, ∀ q ∈ s.exg.runs, x.first + x.count ≤ q.first ∨ q.first + q.count ≤ x.first) ∧
    es.Pairwise (fun x y => x.first + x.count ≤ y.first ∨ y.first + y.count ≤ x.first)

/-- What an accepted LODGE or ADOPT makes of the part (R6, R13, R18, R83 <6>, R139, R191): the entry at the lowest free
index, its write with the high-water it raises, its watch hit and the VERIFY to follow, its runs in the map, no claim or
candidate of its key, and a refresh walk whose next index was taken, with no visit in progress, going on above it. -/
def entryTaken (r : Req) (i : Nat) (rest : List Nat) (e : Entry) (causes : HitCauses) (s : State) : State :=
  { s with
    ctc := { s.ctc with
      freeList := rest
      highWater := max s.ctc.highWater e.lodgeTime
      work := catSet s.ctc.work i e
      writes := s.ctc.writes ++ [{
        index := i, entry := e
        highWater := if s.ctc.highWater < e.lodgeTime then some e.lodgeTime else none
        effects := [.queueVerify false s.mar.hostSeq (some r)]
        hit := some ⟨e.shortKey, causes, i, e.state, e.holdCount, e.holders⟩ }] }
    exg := { s.exg with runs := e.extents.foldl (fun runs x => insertRun ⟨x.first, x.count, i, .entry⟩ runs) s.exg.runs }
    cnu := { s.cnu with
      claims := s.cnu.claims.filter (fun c => decide (c.key ≠ e.shortKey))
      candidates := s.cnu.candidates.filter (fun c => decide (c.key ≠ e.shortKey)) }
    rwk := { s.rwk with walk := match s.rwk.walk with
      | some ⟨.refresh epoch, low, none⟩ => some ⟨.refresh epoch, if low = i then i + 1 else low, none⟩
      | w => w } }

/-- The media timer has come to its end (R154). -/
abbrev MediaTimerOver (s : State) : Prop := ∃ d ∈ s.mar.timer, d ≤ s.coreMs

/-- The failed read of an entry's record stands for the next action that needs it (R11, log 48). -/
abbrev Unreadable (s : State) (i : Nat) : Prop := s.ctc.node = .storeFault ∧ i ∈ s.ctc.unread

/-- A part in which no failed read of a record stands any more. -/
def withAllRead (s : State) : State := { s with ctc := { s.ctc with unread := [] } }

/-- The status conditions, flags, enables and top code that a status block shows (R182, R185, R186). -/
def BlockShows (s : State) (b : StatusBlock) : Prop :=
  b.flags = s.evu.flags ∧ b.enables = s.evu.enables ∧ b.topCode = topCode s ∧ b.node = s.ctc.node ∧
    b.confinement = s.pbc.confinement ∧ b.caution = s.pbc.caution ∧ b.dupId = s.pbc.dupId ∧ b.doubt = s.hdu.doubt ∧
    b.guardAsserted = s.pins.guardAsserted ∧ b.rtValid = s.rck.rtValid ∧ b.owedScrub = s.scs.owed ∧
    b.holdLateKey = s.ctc.holdLateKey ∧ b.epoch = s.hdu.epoch ∧ b.rt = s.rck.rt ∧ b.rf = s.rck.rf ∧ b.bdt = s.rck.bdt ∧
    b.mediaSize = max s.exg.reportedSize s.exg.loadedEnd ∧ b.balance = s.scs.balance ∧
    b.noticeCount = s.rli.notices.length ∧ b.ownId = s.pbc.ownId

/-- What INSPECT STATUS shows beyond the status block (R190). -/
def InspectionShows (s : State) (b : Inspection) : Prop :=
  b.sendCount = s.pbc.sendCount ∧ b.recvCount = s.pbc.recvCount ∧ b.runCount = s.pbc.runCount ∧
    b.recoveryCount = s.pbc.recoveryCount ∧ b.walk = s.rwk.walk ∧ b.pendingWalk = s.rwk.pendingWalk ∧
    (b.settleEnded = true ↔ s.rwk.settle = .ended) ∧ b.cursor = s.scs.cursor ∧ b.freeCount = s.ctc.freeList.length ∧
    b.watchKey = s.sli.watchKey ∧ b.watchLog = s.sli.watchLog

/-- A scrub has ended in a command, which leaves the part as `u`; a DORMANT request that waited for it is then checked again
from R167 <2> onward (R168 <3>, R169). -/
def ScrubEnded (c : Instr) (s u : State) : Prop :=
  (s.scs.waitingDormant = none → Ends c s (mediaTail u) []) ∧
  (∀ r v, s.scs.waitingDormant = some r → v = { u with scs := { u.scs with waitingDormant := none } } →
    if dormantBusy v = true then Ends c s (mediaTail v) [⟨r, true, .busy, .none⟩]
    else if v.scs.owed = true then Ends c s (mediaTail v) [⟨r, true, .scrubOwed, .none⟩]
    else
      Ends c s (mediaTail { v with
        ctc := { v.ctc with node := .dormant }, scs := { v.scs with mediaSleep := true, request := none } })
        [⟨r, true, .done, .none⟩])

/-- The answer a completed write gives to a LOOKUP that waited for it: the entry as the write leaves it, or UNKNOWN_KEY where
it asked by a key that the entry no longer holds (R180, log 17). -/
def lookupReply (i : Nat) (e : Entry) (l : LookupWait) : Answer :=
  match l.byKey with
  | some key =>
    if e.state ≠ .free ∧ e.shortKey = key then ⟨l.req, true, .done, .entry i e⟩ else ⟨l.req, true, .unknownKey, .none⟩
  | none => ⟨l.req, true, .done, .entry i (if e.state = .free then {} else e)⟩

/-- The answer among the effects of a change (R10). -/
def effectAnswer : Effect → Option Answer
  | .answer r o res => some ⟨r, true, o, res⟩
  | _ => none

/-- The entry at an index is one that SCS scrubs (R159). -/
abbrev ScrubbableAt (s : State) (i : Nat) : Prop := (entryAt s i).state = .retained ∨ (entryAt s i).state = .releasable

/-- SCS offers a scrub request (R161 <1> to <5>). -/
abbrev MayScrub (s : State) : Prop :=
  (s.ctc.node = .running ∨ s.ctc.node = .loading ∧ s.rwk.loadEnded = true) ∧ -8 < s.scs.balance ∧ 0 < s.scs.scrubbable ∧
    s.scs.waitingDormant = none ∧ ∀ f, s.mar.inFlight = some f → ∀ i es key, f.cmd ≠ .scrub i es key

/-- The entry is short and eligible for appeal (R8). -/
abbrev AppealDue (s : State) (e : Entry) : Prop :=
  liveHolders s e < copyTarget s ∧ (e.state = .retained ∨ e.state = .releasable) ∧ (s.rck.rf < e.expiry ∨ 0 < e.holdCount)

/-- The part after the test of an index with this entry at a report or a WANT heard: an Appeal List entry no longer short or
eligible is gone, with its owed WANT (R122, R129, R164, log 53). -/
def testedByCnu (i : Nat) (e : Entry) (s : State) : State :=
  if AppealDue s e then s else { s with cnu := { s.cnu with appeals := s.cnu.appeals.filter fun a => decide (a.index ≠ i) } }

/-- The part after an index with this entry has been handed to CNU (R125 <1>, R126, R127): an entry short, eligible and not on
the list is appealed for after its delay, or at once where that is 0, and a full list raises APPEAL_FULL. -/
def handedToCnu (i : Nat) (e : Entry) (s : State) : State :=
  let delay := appealRank s e * inForceOr s Settings.appealStep 0
  let waiting : Appeal := { index := i, key := e.shortKey, timer := some (s.coreMs + delay) }
  let appealed : Appeal := { waiting with appealed := true, timer := none, appealTime := s.coreMs }
  if AppealDue s e ∧ s.rwk.settle = .ended ∧ ∀ x ∈ s.cnu.appeals, x.index ≠ i then
    if 16 ≤ s.cnu.appeals.length then { s with evu := { s.evu with flags := s.evu.flags ||| 0x000008 } }
    else if 0 < delay then { s with cnu := { s.cnu with appeals := s.cnu.appeals ++ [waiting] } }
    else if canOffer s then { s with
      cnu := { s.cnu with appeals := s.cnu.appeals ++ [appealed] }
      pbc := { s.pbc with sendQueue := insertSend { content := .frame (.want ⟨e.shortKey, e.lodgeTime, e.cls,
        decide (0 < e.holdCount), extentsSize e.extents, e.cust,
        setAdd (setOf (presentMembers s e.holders)) s.pbc.ownId⟩) } s.pbc.sendQueue } }
    else { s with cnu := { s.cnu with appeals := s.cnu.appeals ++ [{ appealed with wantOwed := true }] } }
  else s

/-- The part after CTC has changed the holder set of an entry to that of `e'` by a frame (R9, R10, R122, R123, R191): a write
begun, which these effects follow, or in STORE FAULT the working copy alone, with the watch hit taken at once; nothing where
the set stays as it was. -/
def holdersTaken (i : Nat) (e' : Entry) (effects : List Effect) (s : State) : State :=
  let e := entryAt s i
  let hit : Option Hit := some ⟨e.shortKey, { holder := true }, i, e.state, e.holdCount, e'.holders⟩
  if e'.holders = e.holders then s
  else if s.ctc.node = .storeFault then recordHit hit { s with ctc := { s.ctc with work := catSet s.ctc.work i e' } }
  else { s with ctc := { s.ctc with
    work := catSet s.ctc.work i e', writes := s.ctc.writes ++ [{ index := i, entry := e', effects := effects, hit := hit }] } }

/-- What a HAVE from a sender makes of the claims and candidates of its key (R122 <1>, <2>): the sender is a holder of both,
no longer among the claims heard, and a candidate whose live holders then reach K leaves the list. -/
def HaveAtLists (key : ShortKey) (sender : NodeId) (s t : State) : Prop :=
  t.cnu.claims = updateFirst (fun c => decide (c.key = key)) (fun c => { c with holders := setAdd c.holders sender })
    s.cnu.claims ∧
  match s.cnu.candidates.find? fun c => decide (c.key = key) with
  | none => t.cnu.candidates = s.cnu.candidates
  | some c =>
    if copyTarget s ≤ (presentMembers s (setAdd c.holders sender)).length then
      t.cnu.candidates = s.cnu.candidates.filter fun c => decide (c.key ≠ key)
    else
      t.cnu.candidates = updateFirst (fun c => decide (c.key = key))
        (fun c => { c with
          holders := setAdd c.holders sender
          claimsHeard := c.claimsHeard.filter fun h => decide (h.1 ≠ sender) }) s.cnu.candidates

/-- What a DROP from a sender makes of the claims and candidates of its key (R123 <1> to <3>): the sender is a holder of
neither, and a candidate that is not held leaves the list with a DROP of reason DISPOSED. -/
def DropAtLists (key : ShortKey) (reason : DropReason) (sender : NodeId) (s t : State) : Prop :=
  t.cnu.claims = updateFirst (fun c => decide (c.key = key)) (fun c => { c with holders := setRemove c.holders sender })
    s.cnu.claims ∧
  match s.cnu.candidates.find? fun c => decide (c.key = key) with
  | none => t.cnu.candidates = s.cnu.candidates
  | some c =>
    if reason = .disposed ∧ c.held = false then
      t.cnu.candidates = s.cnu.candidates.filter fun c => decide (c.key ≠ key)
    else
      t.cnu.candidates = updateFirst (fun c => decide (c.key = key))
        (fun c => { c with holders := setRemove c.holders sender }) s.cnu.candidates

/-- The caution level is that of the error counts (R111). -/
abbrev CautionKept (s : State) : Prop := s.pbc.caution = decide (60 ≤ s.pbc.sendCount ∨ 60 ≤ s.pbc.recvCount)

/-- The run and recovery counts of a SILENT node after `n` recessive bits more (R114 <1>). -/
def afterRecessive (n : Nat) (counts : Nat × Nat) : Nat × Nat :=
  ((counts.1 + n) % 16, min 64 (counts.2 + (counts.1 + n) / 16))

/-- The recovery counts of a SILENT node, run and recovery count, after the bits of a gap: the recessive bits before the flags
of other nodes, if any came, and `n` recessive bits after them (R114, log 8). -/
def gapCounts (beforeFlags : Option Nat) (n : Nat) (s : State) : Nat × Nat :=
  let counts := (s.pbc.runCount, s.pbc.recoveryCount)
  afterRecessive n (match beforeFlags with
    | some lead => (0, (afterRecessive lead counts).2)
    | none => counts)

/-- The part as its return from SILENT leaves it (R99, R114, R119 <3>): VOICED with counts of 0, the line idle and BUS_STATE
raised; and with DUP_ID clear the owed producers granted, a BEACON offered, and the beacon timer started again. -/
def backVoiced (s : State) : State :=
  let u := { s with
    pbc := { s.pbc with
      confinement := .voiced, sendCount := 0, recvCount := 0, caution := false, awaitingEleven := false, errorSeq := none }
    evu := { s.evu with flags := s.evu.flags ||| 0x000200 } }
  if s.pbc.dupId then u
  else
    let v := offerBeacon (withAllRead (grantAll u))
    { v with pbc := { v.pbc with
      beaconTimer := s.pbc.beaconTimer.map fun _ => s.coreMs + 1000 * inForceOr s Settings.beacon 0 } }

/-- The part with a mark of announce owed set on an entry, by a write of it where STORE FAULT does not stand (R29, R99). -/
def nowOwes (i : Nat) (e : Entry) (s : State) : State :=
  { s with ctc := { s.ctc with
      work := catSet s.ctc.work i e
      writes := if s.ctc.node = .storeFault then s.ctc.writes else s.ctc.writes ++ [{ index := i, entry := e }] } }

/-- The node may recruit a parcel of this size, lodge time, class and held marker (R132 <1> to <6>). -/
abbrev MayRecruit (s : State) (size lodgeTime cls : Nat) (held : Bool) : Prop :=
  s.ctc.node = .running ∧ s.pbc.confinement ≠ .silent ∧ s.pbc.dupId = false ∧ s.rck.rtValid = true ∧
    s.cnu.claims.length < 4 ∧ s.rli.notices.length < 32 ∧
    (s.cnu.claims.map Claim.size).sum + size ≤ s.cnu.openSpace ∧ s.cnu.claims.length < s.ctc.freeList.length ∧
    (held = true ∨ s.rck.rf < expiryOf lodgeTime (periodInForce s cls))

/-! ### Laws of the part -/

/-- The working copies and the stored records of the catalogue are in canonical form. -/
abbrev CatalogueCanonical (s : State) : Prop := catWf s.ctc.work = true ∧ catWf s.store.entries = true

/-- The error counts stay in their ranges, and in SILENT the send count stands at 240 (R109, R110, R111). -/
abbrev CountsInRange (s : State) : Prop :=
  s.pbc.sendCount ≤ 240 ∧ s.pbc.recvCount ≤ 200 ∧ (s.pbc.confinement = .silent → s.pbc.sendCount = 240)

/-- While SILENT or DUP_ID the node has no frame to send and no attempt in progress (R99, R105, R113). -/
abbrev LineMute (s : State) : Prop :=
  s.pbc.confinement = .silent ∨ s.pbc.dupId = true →
    s.pbc.sendQueue = [] ∧ s.pbc.attempt = none ∧ s.pbc.heldBeacon = false

/-- The queues hold no more than their rules allow (R95, R100, R174, R183, R191). -/
abbrev QueuesInRange (s : State) : Prop :=
  s.pbc.sendQueue.length ≤ 16 ∧ s.pbc.rxFifo.length ≤ 24 ∧ s.rli.requests.length ≤ 32 ∧ s.rli.notices.length ≤ 32 ∧
    s.sli.watchLog.length ≤ 8

/-- The lists of CNU and the Lifted List hold no more than their rules allow, the Appeal List no index twice (R51, R126, R130,
R133, R137). -/
abbrev ListsInRange (s : State) : Prop :=
  s.cnu.appeals.length ≤ 16 ∧ s.cnu.candidates.length ≤ 32 ∧ s.cnu.claims.length ≤ 4 ∧ s.cnu.repairs.length ≤ 16 ∧
    s.hdu.lifted.length ≤ 16 ∧ (s.cnu.appeals.map Appeal.index).Nodup

/-- The free-entry list rises and holds indices of FREE entries that owe no DROP alone (R2, R6). -/
abbrev FreeListInForm (s : State) : Prop :=
  s.ctc.freeList.Pairwise (· < ·) ∧ ∀ i ∈ s.ctc.freeList, (entryAt s i).state = .free ∧ (entryAt s i).owed ≠ .dropFrame

/-- The scrub balance stays within -8 to +8 (R159). -/
abbrev BalanceInRange (s : State) : Prop := -8 ≤ s.scs.balance ∧ s.scs.balance ≤ 8

/-- The media port carries one command at a time: none in flight beside a granted ERASE, and the media timer runs exactly
while a command is in flight (R150, R152). -/
abbrev OneAtPort (s : State) : Prop :=
  (s.mar.inFlight = none ∨ s.mar.grantedErase = none) ∧ (s.mar.timer.isSome ↔ s.mar.inFlight.isSome)

/-- The Peer Table has its 16 slots, SELF at the own id and nowhere else (R115). -/
def PeersKept (s : State) : Prop :=
  s.pbc.peers.length = 16 ∧ ∀ id : NodeId, (peerAt s id).presence = .self ↔ id = s.pbc.ownId

/-- The order of the clocks (R32, R41 to R44): RT within its width; RF no later than BDT, and BDT no later than a valid RT;
floor values rising above RF, none beyond BDT, each of them a day boundary. The rest is what holds these in place: BDT stands
at RF while RT is invalid, the stored RF is not beyond a valid RT, nor beyond RF outside STORE FAULT, and in STORE FAULT no
floor write, START or DORMANT is in progress. -/
def ClockInOrder (s : State) : Prop :=
  s.rck.rt ≤ rtMax ∧
  s.rck.rf ≤ s.rck.bdt ∧
  (s.rck.rtValid = true → s.rck.bdt ≤ s.rck.rt) ∧
  (∀ v ∈ s.rck.floorWrites, v ≤ s.rck.bdt) ∧
  (s.rck.rf :: s.rck.floorWrites).Pairwise (· < ·) ∧
  daySeconds ∣ s.rck.rf ∧ daySeconds ∣ s.store.rf ∧ (∀ v ∈ s.rck.floorWrites, daySeconds ∣ v) ∧
  (s.rck.rtValid = false → s.rck.bdt = s.rck.rf) ∧
  (s.rck.rtValid = true → s.store.header = true → s.store.rf ≤ s.rck.rt) ∧
  (Powered s → s.ctc.node ≠ .storeFault → s.store.header = true → s.store.rf ≤ s.rck.rf) ∧
  (s.ctc.node = .storeFault → s.rck.floorWrites = [] ∧ s.rli.starting = none ∧ s.scs.waitingDormant = none)

/-- A service frame: length, kind, operand and check (12.4). -/
def svcFrame (kind : Byte) (body : List Byte) : List Byte :=
  let covered := toBytes 1 (1 + body.length) ++ [kind] ++ body
  covered ++ toBytes 2 (checkOf (bytesBits covered)).toNat

/-- A peer frame whose fields a payload can carry (R94, R102). -/
def PeerFrame.Sendable : PeerFrame → Prop
  | .hold _ n _ placed => n ≤ 32 ∧ placed < 2 ^ 40
  | .lift _ time => time < 2 ^ 40
  | .drop _ _ => True
  | .claim _ => True
  | .want w =>
    w.lodgeTime < 2 ^ 40 ∧ w.cls ≤ 15 ∧ w.size < 2 ^ 32 ∧ 1 ≤ w.cust.len ∧ w.cust.len ≤ 4 ∧
      w.cust = custodianOf w.cust.len w.cust.code
  | .haveCopy _ time cls => time < 2 ^ 40 ∧ cls ≤ 15
  | .beacon rt _ _ _ => rt < 2 ^ 40


end Sys2Proof.Machine
end

