-- ==== Sys2Proof/Certificates/Slice0/Obligations.lean ====
section
/-! DEFINITION. The statements for the provers: what each command does, the order in which its checks answer, the laws
that every step keeps, and the formats. Names of rules are those of spec/, numbers of logs those of notes/assumptions. -/

open Sys2Proof Sys2Proof.Machine

/-! ### The machine -/

/-- One step runs the command at the front of the queue on the state with the queue's rest (95). -/
def Obligations.StepTakesTheFront : Prop :=
  ∀ c rest (s : State), step { s with pending := c :: rest } = exec c { s with pending := rest }

/-- No command and no state stops the part: a step always answers a next state (R11 and R107 make states of failures).
With no command waiting, a powered part spends one millisecond of its core clock (the model's choice, log 1): the oldest
outstanding cursor write completes (log 9), an error sequence and a restrained wait are over (log 25), a SILENT node counts
the quiet bits (R114, log 8), and each timer that has come to its end puts its expiry into the queue. Without core power
nothing happens. -/
def Obligations.EveryStepAnswersAndIdlesAMillisecond : Prop :=
  (∀ s : State, ∃ t, step s = .next t) ∧
  (∀ s : State, s.pending = [] →
     (¬ Powered s → step s = .next s) ∧
     (Powered s → ∃ t, step s = .next t ∧
       t.coreMs = s.coreMs + 1 ∧
       (match s.scs.cursorWrites with
         | [] => t.scs.cursorWrites = [] ∧ t.store.cursor = s.store.cursor
         | v :: rest => t.scs.cursorWrites = rest ∧ t.store.cursor = v) ∧
       (s.pbc.confinement ≠ .silent → t.pbc = { s.pbc with errorSeq := none, restrainedWait := false }) ∧
       t.pbc.errorSeq = none ∧ t.pbc.restrainedWait = false ∧
       (s.pbc.confinement = .silent →
         t.pbc.recoveryCount = min 64 (s.pbc.recoveryCount + (s.pbc.runCount + 500 * 2 ^ s.pbc.bitRate) / 16) ∧
         t.pbc.runCount = (s.pbc.runCount + 500 * 2 ^ s.pbc.bitRate) % 16) ∧
       { t with
         coreMs := s.coreMs, pending := [],
         pbc := { t.pbc with
           runCount := s.pbc.runCount, recoveryCount := s.pbc.recoveryCount
           errorSeq := s.pbc.errorSeq, restrainedWait := s.pbc.restrainedWait },
         scs := { t.scs with cursorWrites := s.scs.cursorWrites },
         store := { t.store with cursor := s.store.cursor } } = s ∧
       (.beaconTimerExpiry ∈ t.pending ↔ ∃ d, s.pbc.beaconTimer = some d ∧ d ≤ s.coreMs + 1) ∧
       (.roundBoundary ∈ t.pending ↔ ∃ d, s.hdu.roundTimer = some d ∧ d ≤ s.coreMs + 1) ∧
       (.settlePeriodEnd ∈ t.pending ↔ ∃ d, s.rwk.settle = .until d ∧ d ≤ s.coreMs + 1) ∧
       (.scrubTick ∈ t.pending ↔ ∃ d, s.scs.tickTimer = some d ∧ d ≤ s.coreMs + 1) ∧
       (.mediaTimerExpiry ∈ t.pending ↔ ∃ d, s.mar.timer = some d ∧ d ≤ s.coreMs + 1) ∧
       (∀ id, .presenceWindowEnd id ∈ t.pending ↔
         (peerAt s id).presence = .present ∧ ∃ h, (peerAt s id).heardAt = some h ∧ h + presenceWindow s ≤ s.coreMs + 1) ∧
       (∀ key, .recruitTimerExpiry key ∈ t.pending ↔
         ∃ c ∈ s.cnu.candidates, c.key = key ∧ ∃ d, c.timer = some d ∧ d ≤ s.coreMs + 1) ∧
       (∀ key, .candidateExpiry key ∈ t.pending ↔
         ∃ c ∈ s.cnu.candidates, c.key = key ∧ c.lastWant + claimLifetime s ≤ s.coreMs + 1) ∧
       (∀ key, .claimLifetimeExpiry key ∈ t.pending ↔ ∃ c ∈ s.cnu.claims, c.key = key ∧ c.deadline ≤ s.coreMs + 1) ∧
       (∀ i, .appealTimerExpiry i ∈ t.pending ↔
         ∃ a ∈ s.cnu.appeals, BitVec.ofNat 17 a.index = i ∧ ∃ d, a.timer = some d ∧ d ≤ s.coreMs + 1) ∧
       (∀ i, .appealRearm i ∈ t.pending ↔
         ∃ a ∈ s.cnu.appeals, BitVec.ofNat 17 a.index = i ∧ a.appealed = true ∧
           a.appealTime + claimLifetime s ≤ s.coreMs + 1) ∧
       (.elevenRecessiveBitsRead ∈ t.pending ↔ s.pbc.awaitingEleven = true) ∧
       (.leaveSilent ∈ t.pending ↔ s.pbc.confinement = .silent ∧ t.pbc.recoveryCount = 64)))

/-- Without core power the part takes no command: a pin keeps the level it is given and RT advances on the battery, and
every other command, power and cold start apart, changes nothing (R33, log 12). -/
def Obligations.UnpoweredPartIsInert : Prop :=
  ∀ c s, ¬ Powered s → (∀ slot kept, c ≠ .coldStart slot kept) → (∀ battery, c ≠ .corePowerLoss battery) →
    if c = .rtAdvance then
      exec c s = .next (if s.pins.power = .offKept then { s with rck := { s.rck with rt := min rtMax (s.rck.rt + 1) } } else s)
    else
      match c with
      | .guardAsserted => exec c s = .next { s with pins := { s.pins with guardAsserted := true } }
      | .guardReleased => exec c s = .next { s with pins := { s.pins with guardAsserted := false } }
      | .mediaReadyRise size => exec c s = .next { s with pins := { s.pins with mediaReady := true, presentedSize := size.toNat } }
      | .mediaReadyFall => exec c s = .next { s with pins := { s.pins with mediaReady := false } }
      | .svcEnRise => exec c s = .next { s with pins := { s.pins with svcEn := true } }
      | .svcEnFall => exec c s = .next { s with pins := { s.pins with svcEn := false } }
      | _ => exec c s = .next s

/-! ### Resets, power and pins -/

/-- What a reset leaves, cold or warm: R30, R33, R44, R68, R69, R106, R121, R142, R157, R187, R192. RT is kept by a warm
reset, and by a cold start while the time domain stayed powered. The model's choices are among it: the core clock at 0
(log 28), the loaded end and the stopped load walk's mark clear (log 32), the count of MEDIA_ABORT pulses risen by the one of
the reset (log 11), and a domain that had lost its power not kept, whatever the cold start says (log 31). -/
def Obligations.ResetLeavesResetValues : Prop :=
  (∀ slot s, Powered s → Runs (.warmReset slot) s (AfterReset slot s.rck.rt s.rck.rtValid s)) ∧
  (∀ slot kept s, Runs (.coldStart slot kept) s
    (if kept = true ∧ s.pins.power ≠ .offLost then AfterReset slot s.rck.rt s.rck.rtValid s else AfterReset slot 0 false s))

/-- Each record of the catalogue store is written whole: a reset, a loss of core power or a failed access that cuts the
outstanding writes short leaves every record as it was or as its oldest outstanding write makes it (R9, R11; that an
entry record and the high-water it raises land together is the model's choice, log 5). The write of a lift that had not
completed leaves the hold in its stored slot (R57, R68). -/
def Obligations.CutWritesLeaveWholeRecords : Prop :=
  ∀ c s, CatalogueCanonical s →
    (∃ slot, c = .warmReset slot) ∨ (∃ slot kept, c = .coldStart slot kept) ∨ (∃ battery, c = .corePowerLoss battery) ∨
      (∃ record, c = .storeWriteFailed record) ∨ (∃ record, c = .storeReadFailed record) →
    Runs c s fun t =>
      t.store.header = s.store.header ∧
      (∀ i, catGet t.store.entries i = catGet s.store.entries i ∨
        ∃ w, s.ctc.writes.find? (fun w => decide (w.index = i)) = some w ∧ catGet t.store.entries i = w.entry) ∧
      (t.store.highWater = s.store.highWater ∨
        s.store.highWater < t.store.highWater ∧ ∃ w ∈ s.ctc.writes, w.highWater = some t.store.highWater) ∧
      (∀ i, t.store.holds.getD i none = s.store.holds.getD i none ∨
        s.store.header = true ∧ ∃ w, s.hdu.writes.find? (fun w => decide (w.slot = i)) = some w ∧ w.record ≠ none ∧
          t.store.holds.getD i none = w.record) ∧
      (t.store.rf = s.store.rf ∨ s.rck.floorWrites.head? = some t.store.rf) ∧
      (t.store.cursor = s.store.cursor ∨ s.scs.cursorWrites.head? = some t.store.cursor) ∧
      (t.store.settings = s.store.settings ∨
        ∃ st, s.rli.starting = some st ∧ st.prepare = false ∧ t.store.settings = st.settings)

/-- The loose pins of a powered part: GUARD is raised as GUARD_N becomes asserted (R148), MEDIA_READY going low stops
nothing in flight (R150 <3>, R152), and the fall of SVC_EN cuts the answer being sent (R188 <1>). Core power removed: RT
and its marker live on in a time domain on the battery and are lost without it, the pins keep their levels, and every
other block has lost its state, which the model shows as its reset values (R33, log 31). A battery that fails later
loses RT too. -/
def Obligations.PinsAndPowerLoss : Prop :=
  (∀ s, Powered s →
     exec .guardAsserted s = .next { s with
       pins := { s.pins with guardAsserted := true }
       evu := { s.evu with flags := if s.pins.guardAsserted then s.evu.flags else s.evu.flags ||| 0x010000 } } ∧
     exec .mediaReadyFall s = .next { s with pins := { s.pins with mediaReady := false } } ∧
     exec .svcEnRise s = .next { s with pins := { s.pins with svcEn := true } } ∧
     exec .svcEnFall s = .next { s with pins := { s.pins with svcEn := false }, sli := { s.sli with answer := none } }) ∧
  (∀ s battery,
     (Powered s → Runs (.corePowerLoss battery) s fun t =>
       t.pins = { s.pins with power := if battery then .offKept else .offLost } ∧
       t.rck = (if battery then { rt := s.rck.rt, rtValid := s.rck.rtValid } else {}) ∧
       t.pending = s.pending ∧
       { t with pins := {}, store := {}, rck := {}, free := 0, pending := [] } = ({} : State)) ∧
     (s.pins.power = .offKept → Runs (.corePowerLoss battery) s fun t =>
       t.store = s.store ∧ t.pending = s.pending ∧
       (battery = true → t = s) ∧
       (battery = false → t.rck.rt = 0 ∧ t.rck.rtValid = false ∧ t.pins = { s.pins with power := .offLost })) ∧
     (s.pins.power = .offLost → exec (.corePowerLoss battery) s = .next s))

/-- GUARD_N going high lets disposition ERASEs be granted again (R148 <3>, R155 <1>). MEDIA_READY going high gives the
media size once after START (R145 <2>), makes a LOADING node whose load walk has ended RUNNING with its settle period
begun (R14, R82), makes a WAKING node RUNNING and answers its WAKE (R171), and opens the port (R150). -/
def Obligations.GuardReleaseAndMediaReadyRise : Prop :=
  ∀ s, Powered s →
    exec .guardReleased s = .next (mediaTail { s with pins := { s.pins with guardAsserted := false } }) ∧
    ∀ size, ∃ u,
      u = { s with
        pins := { s.pins with mediaReady := true, presentedSize := size.toNat }
        exg := if s.ctc.inForce.isSome ∧ s.exg.sizeTaken = false then
            { s.exg with reportedSize := size.toNat, sizeTaken := true } else s.exg } ∧
      if s.ctc.node = .loading ∧ s.rwk.loadEnded = true then
        Ends (.mediaReadyRise size) s
          (mediaTail { u with
            ctc := { s.ctc with node := .running }
            rwk := { s.rwk with settle := .until (s.coreMs + presenceWindow s) } }) []
      else if s.ctc.node = .waking then
        Ends (.mediaReadyRise size) s
          (mediaTail { u with ctc := { s.ctc with node := .running }, scs := { s.scs with wake := none } })
          (s.scs.wake.toList.map fun r => ⟨r, true, .done, .none⟩)
      else Ends (.mediaReadyRise size) s (mediaTail u) []

/-! ### The media port and the gate -/

/-- The port, when it is free, is granted to the first ready work in the order of R150: a scrub whose balance is at +8,
the oldest eligible VERIFY (R151), the gate's oldest host command, a disposition ERASE unless GUARD_N is asserted or the
node is in STORE FAULT, and a scrub of lower balance. A granted command takes the next issue tag and starts the media
timer (R152); an ERASE of an entry whose erase begun is clear waits, granted, for the write that sets it (R26 <4>, <5>).
The commands after which a walk, the scrub request or the port may have changed end with `mediaTail`: a walk with no visit in
progress and nothing left to visit ends, and a pending one starts, which ends at once where every entry is FREE (R71, R72,
log 27); the end of the load walk is its own trigger, starts the scrub tick timer, and makes a node with MEDIA_READY high
RUNNING (R14, R81, R82, R160); SCS then brings its request into line (R161, O14), and the port is granted. -/
def Obligations.PortIsGrantedByRank : Prop :=
  (∀ s : State, mediaTail s = grantPort (offerScrub (walkProgress s)) ∧
    ∀ pending, pending = (if ∃ p ∈ s.ctc.work, p.2.state ≠ .free then some (⟨.refresh s.hdu.epoch, 0, none⟩ : Walk) else none) →
      (s.rwk.walk = none → walkProgress s = s) ∧
      (∀ w i, s.rwk.walk = some w → w.visiting = some i → walkProgress s = s) ∧
      (∀ epoch low, s.rwk.walk = some ⟨.refresh epoch, low, none⟩ →
        ((∃ p ∈ s.ctc.work, low ≤ p.1 ∧ p.2.state ≠ .free) → walkProgress s = s) ∧
        ((∀ p ∈ s.ctc.work, low ≤ p.1 → p.2.state = .free) → walkProgress s = { s with rwk := { s.rwk with
          walk := if s.rwk.pendingWalk then pending else none, pendingWalk := false } })) ∧
      (∀ low, s.rwk.walk = some ⟨.load, low, none⟩ →
        (low < 131072 → walkProgress s = s) ∧
        (131072 ≤ low → ∀ u, u = { s with
            rwk := { s.rwk with walk := pending, pendingWalk := false, loadEnded := true }
            scs := { s.scs with tickTimer := some (s.coreMs + 1000 * inForceOr s Settings.scrubTick 1) } } →
          walkProgress s = (if s.ctc.node = .loading ∧ s.pins.mediaReady = true then { u with
            ctc := { s.ctc with node := .running }
            rwk := { u.rwk with settle := .until (s.coreMs + presenceWindow s) } } else u)))) ∧
  ∀ s : State,
    (s.mar.inFlight ≠ none ∨ s.mar.grantedErase ≠ none ∨ s.pins.mediaReady = false ∨ s.ctc.node = .awaitingStart ∨
        s.ctc.node = .dormant ∨ s.ctc.node = .waking → grantPort s = s) ∧
    (s.mar.inFlight = none → s.mar.grantedErase = none → s.pins.mediaReady = true → s.ctc.node ≠ .awaitingStart →
      s.ctc.node ≠ .dormant → s.ctc.node ≠ .waking →
      ∀ toPort : MediaCmd → State → State, (∀ c u, toPort c u = { u with mar := { u.mar with
          issueTag := s.mar.issueTag + 1, inFlight := some ⟨s.mar.issueTag + 1, c⟩
          timer := some (s.coreMs + 1000 * inForceOr s Settings.mediaTimeout 1) } }) →
      ∀ scrubGrant : Nat → State, (∀ i, scrubGrant i =
          toPort (.scrub i (entryAt s i).extents (entryAt s i).fullKey) { s with scs := { s.scs with request := none } }) →
      ∀ eligible : VerifyWork → Prop, (∀ v, eligible v ↔
          ∀ c ∈ s.mar.gated, c.op ≠ .read → c.seq < v.before → ∀ x ∈ v.extents,
            x.first + x.count ≤ c.first ∨ c.first + c.count ≤ x.first) →
      (∀ i, s.scs.request = some i → s.scs.balance = 8 → grantPort s = scrubGrant i) ∧
      (s.scs.request = none ∨ s.scs.balance ≠ 8 →
        (∀ before v after, s.mar.verifies = before ++ v :: after → eligible v → (∀ x ∈ before, ¬ eligible x) →
          grantPort s = toPort (.verify v) { s with mar := { s.mar with verifies := before ++ after } }) ∧
        ((∀ v ∈ s.mar.verifies, ¬ eligible v) →
          (∀ c rest, s.mar.gated = c :: rest →
            grantPort s = toPort (.host c) { s with mar := { s.mar with gated := rest } }) ∧
          (s.mar.gated = [] →
            (∀ w rest, s.mar.erases = w :: rest → s.pins.guardAsserted = false → s.ctc.node ≠ .storeFault →
              ((entryAt s w.index).eraseBegun = true →
                grantPort s = toPort (.erase w) { s with mar := { s.mar with erases := rest } }) ∧
              ((entryAt s w.index).eraseBegun = false →
                grantPort s = { s with
                  mar := { s.mar with erases := rest, grantedErase := some w }
                  ctc := { s.ctc with
                    work := catSet s.ctc.work w.index { entryAt s w.index with eraseBegun := true }
                    writes := s.ctc.writes ++ [{ index := w.index, entry := { entryAt s w.index with eraseBegun := true }, effects := [.releaseErase] }] } })) ∧
            (s.mar.erases = [] ∨ s.pins.guardAsserted = true ∨ s.ctc.node = .storeFault →
              (∀ i, s.scs.request = some i → -8 < s.scs.balance → grantPort s = scrubGrant i) ∧
              (s.scs.request = none ∨ s.scs.balance ≤ -8 → grantPort s = s))))))

/-- While GUARD_N stays asserted no disposition ERASE is granted: one that reaches the media was in flight or granted
before, and none is newly granted (R148 <3>, R155 <1>). -/
def Obligations.GuardHoldsBackErases : Prop :=
  ∀ s t, step s = .next t → s.pins.guardAsserted = true → t.pins.guardAsserted = true →
    (∀ tag w, t.mar.inFlight = some ⟨tag, .erase w⟩ → s.mar.inFlight = some ⟨tag, .erase w⟩ ∨ s.mar.grantedErase = some w) ∧
    (∀ w, t.mar.grantedErase = some w → s.mar.grantedErase = some w)

/-- A host command that comes into the gated queue lies within the media size, and a WRITE or TRIM among them touches no
block of a run of the Extent Map, nor of a non-FREE entry that a load walk has still to visit (log 15), and came while GUARD_N
was released (R146, R147). The media size is the greater of the reported one and the end of the runs that the load walk placed
(R145 <3>). -/
def Obligations.GateAdmitsNoProtectedBlock : Prop :=
  (∀ s, mediaSize s = max s.exg.reportedSize s.exg.loadedEnd) ∧
  ∀ s t, step s = .next t → ∀ x ∈ t.mar.gated, x ∉ s.mar.gated →
    1 ≤ x.count ∧ x.count ≤ 16777216 ∧ x.first + x.count ≤ mediaSize s ∧
      (x.op ≠ .read → s.pins.guardAsserted = false ∧
        (∀ r ∈ s.exg.runs, x.first + x.count ≤ r.first ∨ r.first + r.count ≤ x.first) ∧
        ∀ p ∈ s.ctc.work, s.ctc.loaded ≤ p.1 → p.2.state ≠ .free →
          ∀ r ∈ p.2.extents, x.first + x.count ≤ r.first ∨ r.first + r.count ≤ x.first)

/-- The host's media commands at the gate (R146, R147): the first failing check answers, and a command that passes joins
the end of the gated queue with the next place in the gate's order. A TRIM keeps no transfer handle (R152). In a STORE FAULT
that stopped the load walk a WRITE or TRIM is answered STORE_FAULT (R81); in one whose load walk goes on, the blocks of the
entries it has still to visit are protected with those of the map (log 15). -/
def Obligations.MediaCommandsPassTheGate : Prop :=
  ∀ tag first count handle s, Accepting s tag →
    ∀ c r op h, (c, r, op, h) = (.mediaRead tag first count handle, ⟨tag, 0x0C⟩, HostOp.read, handle) ∨
        (c, r, op, h) = (.mediaWrite tag first count handle, ⟨tag, 0x0D⟩, HostOp.write, handle) ∨
        (c, r, op, h) = (.mediaTrim tag first count handle, ⟨tag, 0x0E⟩, HostOp.trim, 0) →
      if s.ctc.node = .awaitingStart ∨ s.ctc.node = .loading then Refuses c s r .notReady (.node s.ctc.node)
      else if s.ctc.node = .dormant ∨ s.ctc.node = .waking then Refuses c s r .notNow (.node s.ctc.node)
      else if op ≠ .read ∧ s.ctc.node = .storeFault ∧ s.ctc.loadStopped = true then Refuses c s r .storeFault .none
      else if count.toNat = 0 ∨ 16777216 < count.toNat then Refuses c s r .badField .none
      else if mediaSize s < first.toNat + count.toNat then Refuses c s r .outOfRange .none
      else if op ≠ .read ∧ s.pins.guardAsserted = true then Refuses c s r .guarded .none
      else if op ≠ .read ∧ ((∃ x ∈ s.exg.runs, x.first < first.toNat + count.toNat ∧ first.toNat < x.first + x.count) ∨
          ∃ p ∈ s.ctc.work, s.ctc.loaded ≤ p.1 ∧ p.2.state ≠ .free ∧
            ∃ x ∈ p.2.extents, x.first < first.toNat + count.toNat ∧ first.toNat < x.first + x.count) then
        Refuses c s r .writeProtected .none
      else
        Takes c s r (mediaTail { s with mar := { s.mar with
          gated := s.mar.gated ++ [⟨r, op, first.toNat, count.toNat, h, s.mar.hostSeq⟩]
          hostSeq := s.mar.hostSeq + 1 } })

/-- A completion whose issue tag is not that of the command in flight is discarded (R153). A host command ends with its
answer, and one that failed, or ended with a completion of another kind, or at the media timer's end, with MEDIA_FAULT
(R147, R153, R154). A disposition ERASE ends (R27): one that was not DONE returns to the head of its queue. The media
timer's end adds MEDIA_ABORT and MEDIA_TIMEOUT (R154); with no command in flight, or before the timer of the one in flight
is over, it changes nothing (logs 2, 3). A DONE is counted, and after the last one the entry is freed, with its DROP to come
once that is written; the watch hit of a freed entry has the change of state as its cause (log 16). -/
def Obligations.HostCommandsAndErasesEnd : Prop :=
  (∀ tag result s, Powered s →
     ((∀ f, s.mar.inFlight = some f → f.tag ≠ tag) → exec (.mediaCompletion tag result) s = .next s) ∧
     (s.mar.inFlight = none ∨ ¬ MediaTimerOver s → exec .mediaTimerExpiry s = .next s) ∧
     (∀ c base, s.mar.inFlight = some ⟨tag, .host c⟩ → base = { s with mar := { s.mar with inFlight := none, timer := none } } →
       Ends (.mediaCompletion tag result) s (mediaTail base)
         [⟨c.req, true, if result = .done then .done else .mediaFault, .none⟩] ∧
       (MediaTimerOver s → Ends .mediaTimerExpiry s
         (mediaTail { base with
           pins := { s.pins with mediaAborts := s.pins.mediaAborts + 1 }
           evu := { s.evu with flags := s.evu.flags ||| 0x000001 } })
         [⟨c.req, true, .mediaFault, .none⟩]))) ∧
  (∀ tag result s w, Powered s → s.mar.inFlight = some ⟨tag, .erase w⟩ →
     ∀ e n, e = entryAt s w.index → n = erasesDone s w.index + 1 →
     ∀ base, base = { s with mar := { s.mar with inFlight := none, timer := none } } →
     ∀ back, back = { base with mar := { base.mar with erases := w :: s.mar.erases } } →
     ∀ done, done = (w.index, n) :: s.ctc.eraseDone.filter (fun p => decide (p.1 ≠ w.index)) →
       (result ≠ .done → Ends (.mediaCompletion tag result) s (mediaTail back) []) ∧
       (MediaTimerOver s → Ends .mediaTimerExpiry s
         (mediaTail { back with
           pins := { s.pins with mediaAborts := s.pins.mediaAborts + 1 }
           evu := { s.evu with flags := s.evu.flags ||| 0x000001 } }) []) ∧
       (result = .done → n ≠ e.extents.length ∨ e.state ≠ .disposing ∨ s.ctc.node = .storeFault →
         Ends (.mediaCompletion tag result) s (mediaTail { base with ctc := { s.ctc with eraseDone := done } }) []) ∧
       (result = .done → n = e.extents.length → e.state = .disposing → s.ctc.node ≠ .storeFault →
         Ends (.mediaCompletion tag result) s
           (mediaTail { base with
             ctc := { s.ctc with
               eraseDone := done
               work := catSet s.ctc.work w.index {}
               writes := s.ctc.writes ++ [{
                 index := w.index, entry := {}, effects := [.freed e.shortKey true]
                 hit := some ⟨e.shortKey, { state := true }, w.index, .free, 0, 0⟩ }] } }) []))

/-- A VERIFY of a LODGING entry ends, of a request or resumed by the load walk (R19, R20, R30): after a match the entry is
RETAINED, and once that is written the request is answered DONE with the index, the HAVE is queued and the index is handed
to CNU; after anything else the entry is freed, and a request is answered CHECK_MISMATCH or MEDIA_FAULT. A VERIFY of a
refill ends (R24): after a match the refill extents become the entry's extents and it is RETAINED; after anything else the
refill extents are dropped and it stays DAMAGED. The media timer's end, and not a moment before it (log 3), is MEDIA_FAULT,
with MEDIA_ABORT and MEDIA_TIMEOUT (R154). In STORE FAULT either VERIFY changes no entry, and a request is answered
STORE_FAULT (R12 <2>). An entry that is no longer LODGING, or DAMAGED with its refill, is left as it is (log 2); the hit of
an entry that is freed or RETAINED has the change of state as its cause (log 16). -/
def Obligations.VerifiesEnd : Prop :=
  ∀ c tag result s v, Powered s → s.mar.inFlight = some ⟨tag, .verify v⟩ →
    ∀ base failure,
      (c = .mediaCompletion tag result ∧ base = { s with mar := { s.mar with inFlight := none, timer := none } } ∧
          failure = (match result with
            | .matched => none
            | .mismatched => some .checkMismatch
            | _ => some .mediaFault)) ∨
        (c = .mediaTimerExpiry ∧ MediaTimerOver s ∧ failure = some Reply.mediaFault ∧
          base = { s with
            mar := { s.mar with inFlight := none, timer := none }
            pins := { s.pins with mediaAborts := s.pins.mediaAborts + 1 }
            evu := { s.evu with flags := s.evu.flags ||| 0x000001 } }) →
    ∀ answered : Reply → Results → List Effect, (∀ o res, answered o res = v.req.toList.map fun r => .answer r o res) →
    ∀ counted, counted = { s.scs with
      scrubbable := if v.index < s.ctc.loaded then s.scs.scrubbable + 1 else s.scs.scrubbable } →
    ∀ e, e = entryAt s v.index →
      (s.ctc.node = .storeFault → Ends c s (mediaTail base) (v.req.toList.map fun r => ⟨r, true, .storeFault, .none⟩)) ∧
      (s.ctc.node ≠ .storeFault → v.refill = false →
        (e.state ≠ .lodging → Ends c s (mediaTail base) []) ∧
        (e.state = .lodging → failure = none →
          Ends c s
            (mediaTail { base with
              ctc := { s.ctc with
                work := catSet s.ctc.work v.index { e with state := .retained }
                writes := s.ctc.writes ++ [{
                  index := v.index, entry := { e with state := .retained }
                  effects := answered .done (.index v.index) ++ [.announceHave, .census]
                  hit := some ⟨e.shortKey, { state := true }, v.index, .retained, e.holdCount, e.holders⟩ }] }
              scs := counted }) []) ∧
        (∀ o, e.state = .lodging → failure = some o →
          Ends c s
            (mediaTail { base with
              ctc := { s.ctc with
                work := catSet s.ctc.work v.index {}
                writes := s.ctc.writes ++ [{
                  index := v.index, entry := {}
                  effects := answered o .none ++ [.freed e.shortKey false]
                  hit := some ⟨e.shortKey, { state := true }, v.index, .free, 0, 0⟩ }] } }) [])) ∧
      (s.ctc.node ≠ .storeFault → v.refill = true →
        (e.state ≠ .damaged ∨ e.refill = none → Ends c s (mediaTail base) []) ∧
        (∀ extents, e.state = .damaged → e.refill = some extents →
          (failure = none →
            Ends c s
              (mediaTail { base with
                ctc := { s.ctc with
                  work := catSet s.ctc.work v.index { e with state := .retained, extents := extents, refill := none }
                  writes := s.ctc.writes ++ [{
                    index := v.index, entry := { e with state := .retained, extents := extents, refill := none }
                    effects := .refillTaken e.extents extents :: answered .done (.index v.index) ++ [.announceHave, .census]
                    hit := some ⟨e.shortKey, { state := true }, v.index, .retained, e.holdCount, e.holders⟩ }] }
                scs := counted }) []) ∧
          (∀ o, failure = some o →
            Ends c s
              (mediaTail { base with
                ctc := { s.ctc with
                  work := catSet s.ctc.work v.index { e with refill := none }
                  writes := s.ctc.writes ++ [{
                    index := v.index, entry := { e with refill := none }
                    effects := .refillDropped extents :: answered o .none }] } }) [])))

/-- A scrub ends with a result (R162 to R166): the cursor moves on and is written where it changes (log 9), the balance
falls, no scrub is owed any more. A match sets the last scrub time where RT is valid; a mismatch or a failure makes the
entry DAMAGED, with its DROP, notices and event to come once that is written; a result of an entry that is no longer
RETAINED or RELEASABLE is discarded, and in STORE FAULT no entry changes and no cursor is written. At the media timer's end
(log 3) a scrub has no result, and cursor and balance stay (R154, R162). A DORMANT request that waited is then checked again
(R168). Which scrub SCS asks for (R161): none unless all its conditions hold; the one asked for while its entry can still be
scrubbed; otherwise the lowest scrubbable index from the cursor upward, wrapping. -/
def Obligations.ScrubsEnd : Prop :=
  (∀ tag result s i extents key, Powered s → s.mar.inFlight = some ⟨tag, .scrub i extents key⟩ →
     ∀ c base, c = Instr.mediaCompletion tag result → base = { s with mar := { s.mar with inFlight := none, timer := none } } →
     ∀ e cur, e = entryAt s i → cur = (i + 1) % 131072 →
     ∀ u, u = { base with scs := { s.scs with
       cursor := cur
       cursorWrites := if s.ctc.node = .storeFault ∨ cur = s.scs.cursor then s.scs.cursorWrites else s.scs.cursorWrites ++ [cur]
       balance := max (-8) (s.scs.balance - 1), owed := false } } →
     ∀ res, res = (match result with | .matched => MediaResult.matched | .mismatched => .mismatched | _ => .failed) →
       (MediaTimerOver s → ScrubEnded .mediaTimerExpiry s { base with
         pins := { s.pins with mediaAborts := s.pins.mediaAborts + 1 }
         evu := { s.evu with flags := s.evu.flags ||| 0x000001 } }) ∧
       (¬ ScrubbableAt s i → ScrubEnded c s u) ∧
       (ScrubbableAt s i →
         (s.ctc.node = .storeFault ∨ res = .matched ∧ s.rck.rtValid = false →
           ScrubEnded c s
             (recordHit (some ⟨e.shortKey, { scrub := some res }, i, e.state, e.holdCount, e.holders⟩) u)) ∧
         (s.ctc.node ≠ .storeFault → res = .matched → s.rck.rtValid = true →
           ScrubEnded c s { u with
             ctc := { s.ctc with
               work := catSet s.ctc.work i { e with lastScrub := some s.rck.rt }
               writes := s.ctc.writes ++ [{
                 index := i, entry := { e with lastScrub := some s.rck.rt }
                 hit := some ⟨e.shortKey, { scrub := some .matched }, i, e.state, e.holdCount, e.holders⟩ }] } }) ∧
         (s.ctc.node ≠ .storeFault → res ≠ .matched →
           ScrubEnded c s { u with
             scs := { u.scs with scrubbable := if i < s.ctc.loaded then s.scs.scrubbable - 1 else s.scs.scrubbable }
             ctc := { s.ctc with
               work := catSet s.ctc.work i { e with state := .damaged }
               writes := s.ctc.writes ++ [{
                 index := i, entry := { e with state := .damaged }
                 effects := [.announceDamaged, .damagedNotices]
                 hit := some ⟨e.shortKey, { state := true, scrub := some res }, i, .damaged, e.holdCount, e.holders⟩ }] } }))) ∧
  (∀ s : State,
     (¬ MayScrub s → offerScrub s = { s with scs := { s.scs with request := none } }) ∧
     (MayScrub s →
       (∀ i, s.scs.request = some i → ScrubbableAt s i → offerScrub s = s) ∧
       ((∀ i, s.scs.request = some i → ¬ ScrubbableAt s i) → catWf s.ctc.work = true →
         ∃ r, offerScrub s = { s with scs := { s.scs with request := r } } ∧
           (∀ i, s.scs.cursor ≤ i → ScrubbableAt s i → (∀ j, s.scs.cursor ≤ j → j < i → ¬ ScrubbableAt s j) → r = some i) ∧
           (∀ i, (∀ j, s.scs.cursor ≤ j → ¬ ScrubbableAt s j) → ScrubbableAt s i → (∀ j < i, ¬ ScrubbableAt s j) →
             r = some i) ∧
           ((∀ j, ¬ ScrubbableAt s j) → r = none))))

/-! ### The request link -/

/-- How a request arrives (R173 <2>, R174, R193 <4>): a frame of tag 0 is discarded, operands outside their layout are
answered BAD_FIELD, a full queue of 32 answers FULL and an outstanding tag BUSY, each at once and without a place in the
queue. -/
def Obligations.RequestsArriveByR174 : Prop :=
  ∀ c r fits s, requestOfCommand c = some (r, fits) → Powered s →
    if r.tag = 0 then exec c s = .next s
    else if fits = false then Ends c s s [⟨r, false, .badField, .none⟩]
    else if 32 ≤ s.rli.requests.length then Ends c s s [⟨r, false, .full, .none⟩]
    else if ∃ q ∈ s.rli.requests, q.tag = r.tag then Ends c s s [⟨r, false, .busy, .none⟩]
    else Runs c s fun t => t.rli.requests = s.rli.requests ++ [r]

/-- START (R176, R177): the checks in order, and a "use stored" START accepted at once; one that brings a record waits
for its writes. START_ACCEPTED (R177, R178, R68): the stored settings are those of the record; a blank store becomes an
empty catalogue with the holds learned before START, all written, and its header; and the node starts to load. With no
START in progress nothing happens (log 2). The settings of a record are those of Table 12-4, each clamped to its range
(R176 <4>, R193 <5>); a period is shortened where a bounded one takes the place of an UNBOUNDED or longer one (R176 <5>). -/
def Obligations.StartIsCheckedAndAccepted : Prop :=
  (∀ (record : BitVec 416) (byte : Nat → Nat), (∀ i < 52, byte i = (record.extractLsb' (8 * (51 - i)) 8).toNat) →
     settingsOf record = {
       k := max 1 (min 8 (byte 0)), q := max 1 (min 9 (byte 1))
       periods := (List.range 16).map fun c =>
         if 256 * byte (2 + 2 * c) + byte (3 + 2 * c) = 65535 then none
         else some (min 36500 (256 * byte (2 + 2 * c) + byte (3 + 2 * c)))
       beacon := max 1 (min 60 (byte 34)), skew := max 1 (min 3600 (256 * byte 35 + byte 36))
       holdRound := max 60 (min 3600 (256 * byte 37 + byte 38))
       appealStep := max 5 (min 1000 (256 * byte 39 + byte 40)), recruitStep := max 5 (min 1000 (256 * byte 41 + byte 42))
       claimLifetime := max 1 (min 240 (byte 43))
       scrubTick := max 1 (min 86400 (16777216 * byte 44 + 65536 * byte 45 + 256 * byte 46 + byte 47))
       mediaTimeout := max 1 (min 600 (256 * byte 48 + byte 49)), bitRate := min 3 (byte 50)
       scrubAbort := decide (byte 51 ≠ 0) }) ∧
  (∀ old new : Option Nat, shortens old new = true ↔ ∃ days, new = some days ∧ ∀ before, old = some before → days < before) ∧
  (∀ (s : State) cfg, s.ctc.inForce = some cfg → presenceWindow s = 3000 * cfg.beacon ∧
     ∀ cls, periodInForce s cls = cfg.periods.getD cls (some 0)) ∧
  (∀ tag choice record s, Accepting s tag → choice.toNat ≤ 1 →
     ∀ c r, c = Instr.start tag choice record → r = (⟨tag, 0x01⟩ : Req) →
       if s.ctc.node = .storeFault then Refuses c s r .storeFault .none
       else if s.ctc.node ≠ .awaitingStart then Refuses c s r .notNow (.node s.ctc.node)
       else if s.rli.starting ≠ none then Refuses c s r .busy .none
       else if choice = 0 ∧ s.store.header = false then Refuses c s r .notReady (.node .awaitingStart)
       else if choice = 0 then
         ∃ cfg e, (s.ctc.settingsRead = some cfg ∨ s.ctc.settingsRead = none ∧ cfg = s.store.settings) ∧
           StartTaken cfg s e ∧ Answers c s r .done .none e
       else if s.store.header = true ∧ ∃ k ∈ List.range 16, shortens (s.store.settings.periods.getD k (some 0)) ((settingsOf record).periods.getD k (some 0)) = true then
         ∃ k < 16, shortens (s.store.settings.periods.getD k (some 0)) ((settingsOf record).periods.getD k (some 0)) = true ∧
           (∀ j < k, shortens (s.store.settings.periods.getD j (some 0)) ((settingsOf record).periods.getD j (some 0)) = false) ∧
           Refuses c s r .shorten (.cls k)
       else
         Takes c s r { s with rli := { s.rli with starting := some ⟨r, settingsOf record, !s.store.header⟩ } }) ∧
  (∀ s, Powered s →
     (s.rli.starting = none → exec .startAccepted s = .next s) ∧
     (∀ st, s.rli.starting = some st → st.prepare = false →
       ∃ e, StartTaken st.settings
           { s with store := { s.store with settings := st.settings }, rli := { s.rli with starting := none } } e ∧
         Ends .startAccepted s e [⟨st.req, true, .done, .none⟩]) ∧
     (∀ st u, s.rli.starting = some st → st.prepare = true →
       u = takeEarlyLifts s.hdu.writes { s with rli := { s.rli with starting := none } } →
       ((∀ w ∈ s.hdu.writes, ∀ time, w.purpose ≠ .liftHeard time) → u.hdu = s.hdu) ∧
       ∃ e, StartTaken st.settings
           { u with
             store := { header := true, settings := st.settings, holds := u.hdu.slots.map (Option.map HoldSlot.hold) }
             hdu := { u.hdu with writes := [] }
             ctc := { u.ctc with work := [], highWater := 0 } } e ∧
         Ends .startAccepted s e [⟨st.req, true, .done, .none⟩]))

/-- SET TIME (R36, R37): refused while RT is valid, and for a value below RF or the lodge high-water; otherwise RT takes
the value, becomes valid, and BDT and the floor follow (R41 to R43). SET SPACE (R179): the open space takes the operand,
clamped to the media size, and the answer carries it. -/
def Obligations.SetTimeAndSetSpace : Prop :=
  (∀ tag time s, Accepting s tag →
     ∀ c r, c = Instr.setTime tag time → r = (⟨tag, 0x02⟩ : Req) →
       if s.ctc.node = .awaitingStart ∨ s.ctc.node = .loading then Refuses c s r .notReady (.node s.ctc.node)
       else if s.ctc.node = .dormant ∨ s.ctc.node = .waking then Refuses c s r .notNow (.node s.ctc.node)
       else if s.ctc.node = .storeFault then Refuses c s r .storeFault .none
       else if s.rck.rtValid = true then Refuses c s r .notNow (.node .running)
       else if time.toNat < s.rck.rf ∨ time.toNat < s.ctc.highWater then
         Refuses c s r .timeLow (.floors s.rck.rf s.ctc.highWater)
       else
         ∀ cfg bdt, s.ctc.inForce = some cfg → bdt = boundedTime { s with rck := { s.rck with rt := time.toNat } } cfg.q →
           Answers c s r .done .none { s with rck := { s.rck with
             rt := time.toNat, rtValid := true, bdt := bdt
             floorWrites :=
               if s.rck.rf < bdt / 86400 * 86400 ∧ ∀ v ∈ s.rck.floorWrites, v < bdt / 86400 * 86400 then
                 s.rck.floorWrites ++ [bdt / 86400 * 86400] else s.rck.floorWrites } }) ∧
  (∀ tag blocks s, Accepting s tag →
     ∀ c r, c = Instr.setSpace tag blocks → r = (⟨tag, 0x03⟩ : Req) →
       if s.ctc.node = .awaitingStart ∨ s.ctc.node = .loading then Refuses c s r .notReady (.node s.ctc.node)
       else
         Answers c s r .done (.space (min blocks.toNat (mediaSize s)))
           { s with cnu := { s.cnu with openSpace := min blocks.toNat (mediaSize s) } })

/-- READ STATUS, CLEAR EVENTS and SET EVENT ENABLES are answered in every node state (R182, R185, R186). The status block of
READ STATUS shows every condition as its owner holds it (`BlockShows`). CLEAR EVENTS
clears the marked flags, but GUARD stays raised while GUARD_N is asserted (R148; that its answer shows it so is the
model's choice, log 18). SET EVENT ENABLES sets each enable to its mark. ALERT_N is low exactly while an event is
pending, and the top code is the code of the first pending event, group A before B before C and lower codes first, or
0x00 (R186 <1>, <2>). -/
def Obligations.EventRequestsAndTopCode : Prop :=
  (∀ tag mask s, Accepting s tag →
     (∀ b, BlockShows s b → Answers (.readStatus tag) s ⟨tag, 0x11⟩ .done (.status b) s) ∧
     (∀ flags, flags = (if s.pins.guardAsserted = true ∧ s.evu.flags.getLsbD 16 = true then
           (s.evu.flags &&& ~~~mask) ||| 0x010000 else s.evu.flags &&& ~~~mask) →
       ∀ e, e = { s with evu := { s.evu with flags := flags } } →
         Answers (.clearEvents tag mask) s ⟨tag, 0x12⟩ .done (.events flags s.evu.enables (topCode e)) e) ∧
     (∀ e, e = { s with evu := { s.evu with enables := mask &&& 0x7F3F3F } } →
       Answers (.setEventEnables tag mask) s ⟨tag, 0x13⟩ .done (.events s.evu.flags (mask &&& 0x7F3F3F) (topCode e)) e)) ∧
  (∀ s : State,
     (alertLow s = true ↔ ∃ e : Event, s.evu.flags.getLsbD e.bit = true ∧ s.evu.enables.getLsbD e.bit = true) ∧
     (topCode s = 0 ↔ alertLow s = false) ∧
     ∀ e : Event, topCode s = e.code ↔
       (s.evu.flags.getLsbD e.bit = true ∧ s.evu.enables.getLsbD e.bit = true) ∧
         ∀ e' : Event, e'.code < e.code → ¬ (s.evu.flags.getLsbD e'.bit = true ∧ s.evu.enables.getLsbD e'.bit = true))

/-- The transmitter ends a frame (R173, R174, R183): an answered request leaves the request queue, a sent notice leaves
the head of the Notice Queue, and the waiting frame that became ready earliest is begun; with no frame being sent
nothing happens (log 2). -/
def Obligations.TransmitterTakesTheNextFrame : Prop :=
  ∀ s, Powered s →
    (s.rli.tx = none → exec .transmitFrameDone s = .next s) ∧
    (∀ f, s.rli.tx = some f → Runs .transmitFrameDone s fun t =>
      SameButLink t s ∧ t.rli.starting = s.rli.starting ∧
      (match f with
        | .answer a =>
          t.rli.requests = (if a.queued then s.rli.requests.erase a.req else s.rli.requests) ∧ t.rli.notices = s.rli.notices
        | .notice _ => t.rli.requests = s.rli.requests ∧ t.rli.notices = s.rli.notices.tail) ∧
      (t.rli.tx = none ↔ s.rli.answers = [] ∧ t.rli.notices = []) ∧
      (∀ a, t.rli.tx = some (.answer a) →
        ∃ n, ReadyAnswer.mk n a ∈ s.rli.answers ∧ t.rli.answers = s.rli.answers.erase ⟨n, a⟩ ∧
          (∀ x ∈ s.rli.answers, n ≤ x.stamp) ∧ (t.rli.notices ≠ [] → n ≤ t.rli.noticeStamp)) ∧
      (∀ n, t.rli.tx = some (.notice n) →
        t.rli.answers = s.rli.answers ∧ t.rli.notices.head? = some n ∧ ∀ x ∈ s.rli.answers, t.rli.noticeStamp ≤ x.stamp))

/-! ### The catalogue requests -/

/-- LODGE and ADOPT run the same checks in the order of R17 (R3, R21), and the first that fails answers. -/
def Obligations.LodgeAndAdoptAreChecked : Prop :=
  ∀ tag key custLen cust cls time n slots s, Accepting s tag → extentsFit n slots = true →
    (s.ctc.loadStopped = true → s.ctc.node = .storeFault) →
    ∀ es, es = usedSlots slots n.toNat →
    ∀ c r, (c, r) = (Instr.lodge tag key custLen cust cls n slots, (⟨tag, 0x04⟩ : Req)) ∨
        (c, r) = (Instr.adopt tag key custLen cust cls time n slots, (⟨tag, 0x05⟩ : Req)) →
      if s.ctc.node = .awaitingStart ∨ s.ctc.node = .loading then Refuses c s r .notReady (.node s.ctc.node)
      else if s.ctc.node = .dormant ∨ s.ctc.node = .waking then Refuses c s r .notNow (.node s.ctc.node)
      else if s.ctc.node = .storeFault then Refuses c s r .storeFault .none
      else if custLen.toNat < 1 ∨ 4 < custLen.toNat ∨ 15 < cls.toNat then Refuses c s r .badField .none
      else if s.rck.rtValid = false then Refuses c s r .clockInvalid .none
      else if s.pins.guardAsserted = true then Refuses c s r .guarded .none
      else if ∃ p ∈ s.ctc.work, p.2.state ≠ .free ∧ p.2.fullKey = key then
        ∃ p ∈ s.ctc.work, p.2.state ≠ .free ∧ p.2.fullKey = key ∧ Refuses c s r .known (.index p.1)
      else if ∃ p ∈ s.ctc.work, p.2.state ≠ .free ∧ p.2.shortKey = shortKeyOf key then Refuses c s r .keyClash .none
      else if s.ctc.freeList = [] then Refuses c s r .catalogueFull .none
      else if ∃ x ∈ es, mediaSize s < x.first + x.count then Refuses c s r .outOfRange .none
      else if (∃ x ∈ es, ∃ q ∈ s.exg.runs, q.first < x.first + x.count ∧ x.first < q.first + q.count) ∨
          ¬ es.Pairwise (fun x y => x.first + x.count ≤ y.first ∨ y.first + y.count ≤ x.first) then
        Refuses c s r .overlap .none
      else LodgePasses s key custLen.toNat cls.toNat es

/-- An accepted LODGE takes the lowest free index for an entry LODGING at the current RT, with its expiry of R45 and the
count of holds that match; its runs enter the map, its write begins (with the high-water it raises), and a claim or
candidate of its key is removed; the VERIFY follows the write (R13, R18, R139). An accepted ADOPT does the same from the
claim for its key, or from its operands with the holder set of a candidate; the lodge time is no later than RT (R21,
R139). The watch hit names LODGED or ADOPTED and the change of state (log 16). The free-entry list rises and holds free
indices alone by CatalogueStaysCanonical. -/
def Obligations.LodgeAndAdoptTakeAnEntry : Prop :=
  (∀ tag key custLen cust cls n slots i rest s, Accepting s tag → extentsFit n slots = true →
     LodgePasses s key custLen.toNat cls.toNat (usedSlots slots n.toNat) → s.ctc.freeList = i :: rest →
     ∀ e : Entry, e = {
         state := .lodging, fullKey := key, shortKey := key.extractLsb' 192 64
         cust := custodianOf custLen.toNat cust, cls := cls.toNat, origin := .lodgedHere, lodgeTime := s.rck.rt
         expiry := expiryOf s.rck.rt (periodInForce s cls.toNat), extents := usedSlots slots n.toNat
         holdCount := holdsOn s (custodianOf custLen.toNat cust) } →
       Takes (.lodge tag key custLen cust cls n slots) s ⟨tag, 0x04⟩
         (entryTaken ⟨tag, 0x04⟩ i rest e { lodged := true, state := true } s)) ∧
  (∀ tag key custLen cust cls time n slots i rest s, Accepting s tag → extentsFit n slots = true →
     LodgePasses s key custLen.toNat cls.toNat (usedSlots slots n.toNat) → s.ctc.freeList = i :: rest →
     ∀ cust' cls' time' holders,
       (match s.cnu.claims.find? (fun c => decide (c.key = key.extractLsb' 192 64)) with
         | some c => cust' = c.cust ∧ cls' = c.cls ∧ time' = min c.lodgeTime s.rck.rt ∧ holders = c.holders
         | none => cust' = custodianOf custLen.toNat cust ∧ cls' = cls.toNat ∧ time' = min time.toNat s.rck.rt ∧
           holders = ((s.cnu.candidates.find? (fun c => decide (c.key = key.extractLsb' 192 64))).map Candidate.holders).getD 0) →
     ∀ e : Entry, e = {
         state := .lodging, fullKey := key, shortKey := key.extractLsb' 192 64
         cust := cust', cls := cls', origin := .adopted, lodgeTime := time'
         expiry := expiryOf time' (periodInForce s cls'), extents := usedSlots slots n.toNat, holders := holders
         holdCount := holdsOn s cust' } →
       Takes (.adopt tag key custLen cust cls time n slots) s ⟨tag, 0x05⟩
         (entryTaken ⟨tag, 0x05⟩ i rest e { adopted := true, state := true } s))

/-- REFILL (R23): its checks in order, and an accepted one records and places the refill extents and writes the entry;
the VERIFY follows the write. A run stands in the Extent Map in order of its start block (R143). -/
def Obligations.RefillRecordsItsExtents : Prop :=
  (∀ (r : Run) before after, (∀ q ∈ before, q.first ≤ r.first) → (∀ q ∈ after.head?, r.first < q.first) →
    insertRun r (before ++ after) = before ++ r :: after) ∧
  ∀ tag index n slots s, Accepting s tag → extentsFit n slots = true →
    ∀ c r i es e, c = Instr.refill tag index n slots → r = (⟨tag, 0x06⟩ : Req) → i = index.toNat →
      es = usedSlots slots n.toNat → e = entryAt s i →
      if s.ctc.node = .awaitingStart ∨ s.ctc.node = .loading then Refuses c s r .notReady (.node s.ctc.node)
      else if s.ctc.node = .dormant ∨ s.ctc.node = .waking then Refuses c s r .notNow (.node s.ctc.node)
      else if s.ctc.node = .storeFault then Refuses c s r .storeFault .none
      else if 131071 < i then Refuses c s r .badField .none
      else if s.pins.guardAsserted = true then Refuses c s r .guarded .none
      else if e.state ≠ .damaged then Refuses c s r .notDamaged (.entryState e.state)
      else if e.refill ≠ none then Refuses c s r .busy .none
      else if ∃ x ∈ es, mediaSize s < x.first + x.count then Refuses c s r .outOfRange .none
      else if (∃ x ∈ es, ∃ q ∈ s.exg.runs, q.owner ≠ i ∧ q.first < x.first + x.count ∧ x.first < q.first + q.count) ∨
          ¬ es.Pairwise (fun x y => x.first + x.count ≤ y.first ∨ y.first + y.count ≤ x.first) then
        Refuses c s r .overlap .none
      else
        Takes c s r { s with
          exg := { s.exg with runs := es.foldl (fun runs x => insertRun ⟨x.first, x.count, i, .refill⟩ runs) s.exg.runs }
          ctc := { s.ctc with
            work := catSet s.ctc.work i { e with refill := some es }
            writes := s.ctc.writes ++ [{
              index := i, entry := { e with refill := some es }, effects := [.queueVerify true s.mar.hostSeq (some r)] }] } }

/-- DISPOSE (R25, R26, R65 <2>): its checks in order; the re-check against the whole Hold Table returns a held entry, or
any entry while hold doubt stands, to RETAINED with HELD; otherwise the entry is DISPOSING, answered DONE and its ERASEs
queued once that is written, in the order of the acceptances (R149). -/
def Obligations.DisposeRechecksHolds : Prop :=
  ∀ tag index s, Accepting s tag →
    ∀ c r i e k, c = Instr.dispose tag index → r = (⟨tag, 0x07⟩ : Req) → i = index.toNat → e = entryAt s i →
      k = holdsOn s e.cust →
      if s.ctc.node = .awaitingStart ∨ s.ctc.node = .loading then Refuses c s r .notReady (.node s.ctc.node)
      else if s.ctc.node = .dormant ∨ s.ctc.node = .waking then Refuses c s r .notNow (.node s.ctc.node)
      else if s.ctc.node = .storeFault then Refuses c s r .storeFault .none
      else if 131071 < i then Refuses c s r .badField .none
      else if e.state ≠ .releasable then Refuses c s r .notReleasable (.entryState e.state)
      else if s.pins.guardAsserted = true then Refuses c s r .guarded .none
      else if 0 < k ∨ s.hdu.doubt.start = true ∨ s.hdu.doubt.loss = true ∨ s.hdu.doubt.overflow = true then
        ∀ e', e' = { e with state := .retained, holdCount := k } →
          Takes c s r (mediaTail { s with ctc := { s.ctc with
            work := catSet s.ctc.work i e'
            writes := s.ctc.writes ++ [{
              index := i, entry := e', effects := [.answer r .held (.holdCount k)]
              hit := some ⟨e.shortKey, { state := true, holdCount := decide (e.holdCount ≠ k) }, i, .retained, k, e.holders⟩ }] } })
      else
        ∀ e', e' = { e with state := .disposing, holdCount := 0, eraseBegun := false } →
          Takes c s r (mediaTail { s with
            ctc := { s.ctc with
              work := catSet s.ctc.work i e'
              eraseDone := s.ctc.eraseDone.filter (fun p => decide (p.1 ≠ i))
              writes := s.ctc.writes ++ [{
                index := i, entry := e', effects := [.answer r .done .none, .queueErases s.mar.disposeSeq]
                hit := some ⟨e.shortKey, { state := true, holdCount := decide (e.holdCount ≠ 0) }, i, .disposing, 0, e.holders⟩ }] }
            mar := { s.mar with disposeSeq := s.mar.disposeSeq + 1 }
            scs := if i < s.ctc.loaded then
                { s.scs with
                  scrubbable := s.scs.scrubbable - 1
                  owed := s.scs.owed && decide (1 < s.scs.scrubbable) }
              else s.scs })

/-- LOOKUP (R180, R81): from RUNNING on, STORE FAULT included. An entry with no write outstanding is answered as it
stands, a FREE entry with its state alone; while a write is outstanding the answer waits for it; after a load walk that
a failed read stopped, the indices not loaded are answered NOT_READY (R81). (That it joins the entry's last outstanding
write is the model's choice, log 17.) LIST RELEASABLE (R181): the RELEASABLE entries from the start index upward, at
most as many as asked for and never more than 16; an entry whose record cannot be read in STORE FAULT is passed over
(R11, log 48). Which resume index stands beside a full list that ends at the last
index, or at the last one loaded, is the model's choice (log 19). -/
def Obligations.LookupAndListReport : Prop :=
  (∀ tag selector operand s, Accepting s tag → selector.toNat ≤ 1 →
     ∀ c r i cat, c = Instr.lookup tag selector operand → r = (⟨tag, 0x0A⟩ : Req) → i = operand.toNat % 2 ^ 24 →
       cat = (if s.ctc.loadStopped then s.ctc.work.filter fun p => decide (p.1 < s.ctc.loaded) else s.ctc.work) →
       if s.ctc.node = .awaitingStart ∨ s.ctc.node = .loading then Refuses c s r .notReady (.node s.ctc.node)
       else if selector = 0 then
         if 131071 < i then Refuses c s r .badField .none
         else if s.ctc.loadStopped = true ∧ s.ctc.loaded ≤ i then Refuses c s r .notReady (.node s.ctc.node)
         else if ∀ w ∈ s.ctc.writes, w.index ≠ i then
           Refuses c s r .done (.entry i (if (entryAt s i).state = .free then {} else entryAt s i))
         else
           ∀ before w after, s.ctc.writes = before ++ w :: after → w.index = i → (∀ x ∈ after, x.index ≠ i) →
             Takes c s r { s with ctc := { s.ctc with
               writes := before ++ { w with lookups := w.lookups ++ [⟨r, none⟩] } :: after } }
       else
         (∀ before p after, cat = before ++ p :: after → p.2.state ≠ .free → p.2.shortKey = operand →
           (∀ x ∈ before, x.2.state ≠ .free → x.2.shortKey ≠ operand) → catWf s.ctc.work = true →
           ((∀ w ∈ s.ctc.writes, w.index ≠ p.1) → Refuses c s r .done (.entry p.1 p.2)) ∧
           (∀ front w back, s.ctc.writes = front ++ w :: back → w.index = p.1 → (∀ x ∈ back, x.index ≠ p.1) →
             Takes c s r { s with ctc := { s.ctc with
               writes := front ++ { w with lookups := w.lookups ++ [⟨r, some operand⟩] } :: back } })) ∧
         ((∀ p ∈ cat, p.2.state ≠ .free → p.2.shortKey ≠ operand) →
           (s.ctc.loadStopped = true → Refuses c s r .notReady (.node s.ctc.node)) ∧
           (s.ctc.loadStopped = false → (∀ p ∈ s.store.entries, p.2.state ≠ .free → p.2.shortKey ≠ operand) →
             Refuses c s r .unknownKey .none))) ∧
  (∀ tag start count s, Accepting s tag →
     ∀ c r cat, c = Instr.listReleasable tag start count → r = (⟨tag, 0x0B⟩ : Req) →
       cat = (s.ctc.work.filter fun p =>
         decide ((s.ctc.loadStopped = true → p.1 < s.ctc.loaded) ∧ ¬ Unreadable s p.1)) →
       if s.ctc.node = .awaitingStart ∨ s.ctc.node = .loading then Refuses c s r .notReady (.node s.ctc.node)
       else if 131071 < start.toNat then Refuses c s r .badField .none
       else if count = 0 then Answers c s r .done (.releasable [] (some start.toNat)) (withAllRead s)
       else
         ∃ found resume, Answers c s r .done (.releasable found resume) (withAllRead s) ∧ found.length ≤ min 16 count.toNat ∧
           found <+: ((cat.filter fun p => decide (start.toNat ≤ p.1 ∧ p.2.state = .releasable)).map
             fun p => (p.1, p.2.shortKey)) ∧
           (found.length < min 16 count.toNat → resume = none ∧
             ∀ p ∈ cat, start.toNat ≤ p.1 → p.2.state = .releasable → (p.1, p.2.shortKey) ∈ found) ∧
           (found.length = min 16 count.toNat → ∀ last, found.getLast? = some last →
             resume = if last.1 + 1 < (if s.ctc.loadStopped then s.ctc.loaded else 131072) then some (last.1 + 1) else none))

/-! ### Holds -/

/-- PLACE HOLD (R55, R56): its checks in order; a duplicate is answered DONE, at once or with the slot's outstanding
write; otherwise the hold is entered in the lowest empty slot at the last known time, its matter leaves the Lifted List,
the epoch changes, and the slot is written. LIFT HOLD (R57): its checks in order; an accepted one sets the slot's
lifting field and writes the empty slot. The hold stays in the table, and counts, until that is written. The last known time
is RT where it is valid, and otherwise the later of RF and the lodge high-water (R35). -/
def Obligations.PlaceAndLiftHold : Prop :=
  (∀ s, lastKnown s = if s.rck.rtValid then s.rck.rt else max s.rck.rf s.ctc.highWater) ∧
  (∀ (s : State) m, (isLifting s m = true ↔ ∃ h, some h ∈ s.hdu.slots ∧ h.hold.matter = m ∧ h.lifting = true) ∧
     (slotOf s m = none ↔ ∀ h, some h ∈ s.hdu.slots → h.hold.matter ≠ m) ∧
     ∀ front h back, s.hdu.slots = front ++ some h :: back → h.hold.matter = m → (∀ x, some x ∈ front → x.hold.matter ≠ m) →
       slotOf s m = some front.length ∧ slotAt s front.length = some h) ∧
  (∀ tag m patLen pattern s, Accepting s tag →
     ∀ c r, c = Instr.placeHold tag m patLen pattern → r = (⟨tag, 0x08⟩ : Req) →
       if s.ctc.node = .awaitingStart ∨ s.ctc.node = .loading then Refuses c s r .notReady (.node s.ctc.node)
       else if s.ctc.node = .storeFault then Refuses c s r .storeFault .none
       else if m = 0 then Refuses c s r .badField .none
       else if isLifting s m = true then Refuses c s r .busy .none
       else
         (∀ i, slotOf s m = some i →
           ((∀ w ∈ s.hdu.writes, w.slot ≠ i) → Refuses c s r .done .none) ∧
           (∀ before w after, s.hdu.writes = before ++ w :: after → w.slot = i → (∀ x ∈ after, x.slot ≠ i) →
             Takes c s r { s with hdu := { s.hdu with
               writes := before ++ { w with waiters := w.waiters ++ [r] } :: after } })) ∧
         (slotOf s m = none → (∀ x ∈ s.hdu.slots, x ≠ none) → Refuses c s r .tableFull .none) ∧
         (∀ front back, slotOf s m = none → s.hdu.slots = front ++ none :: back → (∀ x ∈ front, x ≠ none) →
           ∀ h u, h = (⟨m, min 32 patLen.toNat, pattern, lastKnown s, !s.rck.rtValid, s.pbc.ownId⟩ : HoldRec) →
             u = epochChange { s with hdu := { s.hdu with
               slots := front ++ some ⟨h, false, false, false⟩ :: back
               lifted := s.hdu.lifted.filter fun l => decide (l.matter ≠ m) } } →
             Takes c s r (mediaTail { u with hdu := { u.hdu with
               writes := s.hdu.writes ++ [⟨front.length, some h, m, .placed r, []⟩] } }))) ∧
  (∀ tag m s, Accepting s tag →
     ∀ c r, c = Instr.liftHold tag m → r = (⟨tag, 0x09⟩ : Req) →
       if s.ctc.node = .awaitingStart ∨ s.ctc.node = .loading then Refuses c s r .notReady (.node s.ctc.node)
       else if s.ctc.node = .storeFault then Refuses c s r .storeFault .none
       else if m = 0 then Refuses c s r .badField .none
       else if slotOf s m = none then Refuses c s r .unknownMatter .none
       else if isLifting s m = true then Refuses c s r .busy .none
       else
         ∀ front h back, s.hdu.slots = front ++ some h :: back → h.hold.matter = m →
           (∀ x, some x ∈ front → x.hold.matter ≠ m) →
           Takes c s r { s with hdu := { s.hdu with
             slots := front ++ some { h with lifting := true } :: back
             writes := s.hdu.writes ++ [⟨front.length, none, m, .lifted r, []⟩] } })

/-- What a change of the hold epoch does (R52, R66): the epoch rises by 1, wrapping; a refresh walk is triggered; and each
DISPOSING entry that a hold matches, of the indices CTC can read (R81, R11), is RETAINED again: its queued ERASEs are
withdrawn, its write is begun outside STORE FAULT (R9), SCS counts it again where its load visit has been made (R159), and
the change is a watch hit (R191), recorded at once in STORE FAULT; or, where its erasing has begun, it stays and HOLD_LATE
is raised with its key, the last in index order (log 23). Nothing else changes, but for the marks of failed reads, which are
gone (log 48). How RWK takes a trigger (R70, R71): not in AWAITING START, nor in a STORE FAULT whose load walk has not ended
(log 15); with no walk running a refresh walk starts at index 0 with the hold epoch of the moment, and passes over an empty
catalogue in no time (log 27); a running walk is left as it is, with the pending flag set. -/
def Obligations.EpochChangesAndTriggers : Prop :=
  (∀ s t, catWf s.ctc.work = true → t = epochChange s →
     ∀ met : Nat → Prop, (∀ i, met i ↔ (s.ctc.loadStopped = true → i < s.ctc.loaded) ∧ ¬ Unreadable s i ∧
       (entryAt s i).state = .disposing ∧ 0 < holdsOn s (entryAt s i).cust) →
     ∀ reverted : List Nat, reverted.Pairwise (· < ·) → (∀ i, i ∈ reverted ↔ met i ∧ (entryAt s i).eraseBegun = false) →
     ∀ back : Nat → Entry, (∀ i, back i =
       { entryAt s i with state := .retained, holdCount := holdsOn s (entryAt s i).cust }) →
     ∀ hit : Nat → Option Hit, (∀ i, hit i = some ⟨(entryAt s i).shortKey,
       { state := true, holdCount := decide ((entryAt s i).holdCount ≠ (back i).holdCount) }, i, .retained,
       (back i).holdCount, (entryAt s i).holders⟩) →
     ∀ recorded, recorded = (if s.ctc.node = .storeFault then reverted.foldl (fun u i => recordHit (hit i) u) s else s) →
     t.hdu = { s.hdu with epoch := s.hdu.epoch + 1 } ∧
     (∀ i, entryAt t i = if i ∈ reverted then back i else entryAt s i) ∧
     t.ctc = { s.ctc with
       work := t.ctc.work, holdLateKey := t.ctc.holdLateKey, unread := []
       writes := if s.ctc.node = .storeFault then s.ctc.writes
         else s.ctc.writes ++ reverted.map fun i => { index := i, entry := back i, hit := hit i } } ∧
     t.mar = { s.mar with erases := s.mar.erases.filter fun w => decide (w.index ∉ reverted) } ∧
     t.scs = { s.scs with
       scrubbable := s.scs.scrubbable + (reverted.filter fun i => decide (i < s.ctc.loaded)).length } ∧
     t.sli = recorded.sli ∧
     ((∀ i, met i → (entryAt s i).eraseBegun = false) → t.ctc.holdLateKey = s.ctc.holdLateKey ∧ t.evu = recorded.evu) ∧
     (∀ i, met i → (entryAt s i).eraseBegun = true → (∀ j, i < j → met j → (entryAt s j).eraseBegun = false) →
       t.ctc.holdLateKey = some (entryAt s i).shortKey ∧
         t.evu = { s.evu with flags := recorded.evu.flags ||| 0x040000 }) ∧
     t.rwk = (trigger { s with hdu := { s.hdu with epoch := s.hdu.epoch + 1 } }).rwk ∧
     { t with hdu := s.hdu, ctc := s.ctc, mar := s.mar, scs := s.scs, sli := s.sli, evu := s.evu, rwk := s.rwk } = s) ∧
  (∀ s : State,
     (s.ctc.node = .awaitingStart ∨ (s.ctc.node = .storeFault ∧ s.rwk.loadEnded = false) → trigger s = s) ∧
     (s.ctc.node ≠ .awaitingStart → (s.ctc.node = .storeFault → s.rwk.loadEnded = true) →
       (∀ w, s.rwk.walk = some w → trigger s = { s with rwk := { s.rwk with pendingWalk := true } }) ∧
       (s.rwk.walk = none → (∃ p ∈ s.ctc.work, p.2.state ≠ .free) →
         trigger s = { s with rwk := { s.rwk with walk := some ⟨.refresh s.hdu.epoch, 0, none⟩ } }) ∧
       (s.rwk.walk = none → (∀ p ∈ s.ctc.work, p.2.state = .free) → trigger s = s)))

/-- A slot write completes (R55 <4>, R56 <6>, R57, R59 <4>): a placed hold is answered, with the duplicates that waited,
and HOLD is offered; a lifted one is removed at the last known time, answered, and LIFT is offered; a lift heard from a
peer is removed at the frame's time. A HOLD that is taken leaves send owed clear, also where a round boundary had set it
while the write was outstanding (log 39). A matter enters the Lifted List with age 0 in the newest place (R51): in place of its
old entry, whose set lift owed mark it keeps (log 24), or as a new one, for which the oldest of 16 makes room. With no write of the slot outstanding nothing happens (log 2), and on a blank
store nothing is stored (R68). -/
def Obligations.HoldSlotWriteCompletes : Prop :=
  (∀ m time (s : State),
    { addLifted m time s with hdu := { (addLifted m time s).hdu with lifted := s.hdu.lifted } } = s ∧
    (∀ before old after, s.hdu.lifted = before ++ old :: after → s.hdu.lifted.length ≤ 16 → old.matter = m →
      (∀ x ∈ before ++ after, x.matter ≠ m) →
      (addLifted m time s).hdu.lifted = before ++ after ++ [⟨m, time, 0, old.owed⟩]) ∧
    ((∀ x ∈ s.hdu.lifted, x.matter ≠ m) →
      (s.hdu.lifted.length < 16 → (addLifted m time s).hdu.lifted = s.hdu.lifted ++ [⟨m, time, 0, false⟩]) ∧
      (∀ oldest rest, s.hdu.lifted = oldest :: rest → rest.length = 15 →
        (addLifted m time s).hdu.lifted = rest ++ [⟨m, time, 0, false⟩]))) ∧
  ∀ slot s, Powered s →
    (s.store.header = false → Ends (.holdSlotWriteComplete slot) s (mediaTail s) []) ∧
    ((∀ w ∈ s.hdu.writes, w.slot ≠ slot.toNat) → Ends (.holdSlotWriteComplete slot) s (mediaTail s) []) ∧
    (∀ before w after, s.store.header = true → s.hdu.writes = before ++ w :: after → w.slot = slot.toNat →
      (∀ x ∈ before, x.slot ≠ slot.toNat) → ∀ u, u = { s with
        hdu := { s.hdu with writes := before ++ after }
        store := { s.store with holds := s.store.holds.set slot.toNat w.record } } →
      (w.purpose = .entered →
        Ends (.holdSlotWriteComplete slot) s (mediaTail u) (w.waiters.map fun q => ⟨q, true, .done, .none⟩)) ∧
      (∀ r h, w.purpose = .placed r → slotAt s slot.toNat = some h →
        Ends (.holdSlotWriteComplete slot) s
          (mediaTail
            (if canOffer s then
              { u with
                hdu := { u.hdu with slots := s.hdu.slots.set slot.toNat (some { h with sendOwed := false }) }
                pbc := { s.pbc with
                  sendQueue := insertSend { content := .frame (.hold h.hold.matter h.hold.patLen h.hold.pattern
                    (if h.hold.unknown then 0 else h.hold.placed)) } s.pbc.sendQueue } }
            else { u with hdu := { u.hdu with slots := s.hdu.slots.set slot.toNat (some { h with sendOwed := true }) } }))
          ((r :: w.waiters).map fun q => ⟨q, true, .done, .none⟩)) ∧
      (∀ r v, w.purpose = .lifted r →
        v = epochChange (addLifted w.matter (lastKnown s)
          { u with hdu := { u.hdu with slots := s.hdu.slots.set slot.toNat none } }) →
        Ends (.holdSlotWriteComplete slot) s
          (mediaTail
            (if canOffer v then
              { v with pbc := { v.pbc with
                sendQueue := insertSend { content := .frame (.lift w.matter (lastKnown s)) } v.pbc.sendQueue } }
            else updateLifted w.matter (fun l => { l with owed := true }) v))
          [⟨r, true, .done, .none⟩]) ∧
      (∀ time, w.purpose = .liftHeard time →
        Ends (.holdSlotWriteComplete slot) s
          (mediaTail (epochChange (addLifted w.matter time
            { u with hdu := { u.hdu with slots := s.hdu.slots.set slot.toNat none } }))) []))

/-- A HOLD frame leaves the Receive FIFO and comes to HDU (R58, R103): matter 0 is ignored; a hold that is there already
is marked heard; the Lifted List blocks one placed no later than its lift; with every slot occupied OVERFLOW sets hold
doubt; and otherwise the hold is entered, marked heard, and HOLD_ENTERED is posted. A LIFT frame comes to HDU (R59):
ignored where no slot holds the matter, where the slot is being lifted, or where the lift is older than a known placed
time; otherwise the slot's lifting field is set and its empty record written, or in STORE FAULT the hold is removed at
once. -/
def Obligations.HoldAndLiftFrames : Prop :=
  (∀ sender m patLen pattern placed rest s, Powered s →
     s.pbc.rxFifo = ⟨sender, .hold m patLen pattern placed⟩ :: rest →
     ∀ u, u = { s with pbc := { s.pbc with rxFifo := rest } } →
       if m = 0 then Ends .holdDispatch s (mediaTail u) []
       else
         (∀ front h back, s.hdu.slots = front ++ some h :: back → h.hold.matter = m →
           (∀ x, some x ∈ front → x.hold.matter ≠ m) →
           Ends .holdDispatch s
             (mediaTail { u with hdu := { s.hdu with slots := front ++ some { h with heard := true } :: back } }) []) ∧
         ((∀ h, some h ∈ s.hdu.slots → h.hold.matter ≠ m) →
           ((∃ l ∈ s.hdu.lifted, l.matter = m ∧ placed ≤ l.time) → Ends .holdDispatch s (mediaTail u) []) ∧
           ((∀ l ∈ s.hdu.lifted, l.matter = m → l.time < placed) →
             ((∀ x ∈ s.hdu.slots, x ≠ none) →
               Ends .holdDispatch s (mediaTail { u with
                 hdu := { s.hdu with
                   doubt := { s.hdu.doubt with overflow := true }
                   doubtTimer := if s.ctc.node = .awaitingStart then none else some 0 }
                 evu := { s.evu with flags := s.evu.flags ||| 0x080000 } }) []) ∧
             (∀ front back, s.hdu.slots = front ++ none :: back → (∀ x ∈ front, x ≠ none) →
               ∀ h v, h = (⟨m, patLen, pattern, placed, decide (placed = 0), sender⟩ : HoldRec) →
                 v = epochChange { u with hdu := { s.hdu with
                   slots := front ++ some ⟨h, false, true, false⟩ :: back
                   lifted := s.hdu.lifted.filter fun l => decide (l.matter ≠ m) } } →
                 Ends .holdDispatch s
                   (mediaTail { v with
                     hdu := { v.hdu with
                       writes := if s.ctc.node = .storeFault then s.hdu.writes
                         else s.hdu.writes ++ [⟨front.length, some h, m, .entered, []⟩] }
                     rli := { s.rli with
                       notices := if s.rli.notices.length < 32 then
                         s.rli.notices ++ [.holdEntered m patLen pattern sender] else s.rli.notices } }) [])))) ∧
  (∀ sender m time rest s, Powered s → s.pbc.rxFifo = ⟨sender, .lift m time⟩ :: rest →
     ∀ u, u = { s with pbc := { s.pbc with rxFifo := rest } } →
       (m = 0 → exec .liftDispatch s = .next (mediaTail u)) ∧
       ((∀ h, some h ∈ s.hdu.slots → h.hold.matter ≠ m) → exec .liftDispatch s = .next (mediaTail u)) ∧
       (∀ front h back, m ≠ 0 → s.hdu.slots = front ++ some h :: back → h.hold.matter = m →
         (∀ x, some x ∈ front → x.hold.matter ≠ m) →
         if h.lifting = true ∨ (h.hold.unknown = false ∧ time < h.hold.placed) then
           exec .liftDispatch s = .next (mediaTail u)
         else if s.ctc.node = .storeFault then
           exec .liftDispatch s = .next (mediaTail (epochChange (addLifted m time
             { u with hdu := { s.hdu with slots := front ++ none :: back } })))
         else
           exec .liftDispatch s = .next (mediaTail { u with hdu := { s.hdu with
             slots := front ++ some { h with lifting := true } :: back
             writes := s.hdu.writes ++ [⟨front.length, none, m, .liftHeard time, []⟩] } })))

/-- A round boundary (R61, R62, R64, R95). Each slot not heard in the round and not being lifted is due. The due slots offer
their HOLDs in slot order: with room for n frames (16 less the frames there, and none where PBC refuses every offer) the first
n enter the Send Queue at their places, with send owed clear, and the later ones have send owed set; the queue changes in
nothing else. The heard fields clear; Lifted List entries of age 1 leave and the others age; and at the second boundary after
its cause hold doubt clears and a refresh walk is triggered. The round timer starts again (R60). The end of a timer that is
not running changes nothing (log 2). -/
def Obligations.RoundBoundaryOffersHolds : Prop :=
  ∀ s, Powered s →
    (s.hdu.roundTimer = none → exec .roundBoundary s = .next s) ∧
    ∀ cfg room due (frame : HoldSlot → SendItem), s.hdu.roundTimer ≠ none → s.ctc.inForce = some cfg →
      room = (if canOffer s then 16 - s.pbc.sendQueue.length else 0) →
      due = (List.range s.hdu.slots.length).filter (fun i => match slotAt s i with
        | some h => !h.heard && !h.lifting
        | none => false) →
      (∀ h, frame h = ⟨.frame (.hold h.hold.matter h.hold.patLen h.hold.pattern
        (if h.hold.unknown then 0 else h.hold.placed)), .byPayload, false⟩) →
      ∃ t, exec .roundBoundary s = .next t ∧
        t.pbc.sendQueue =
          ((due.take room).filterMap (slotAt s)).foldl (fun queue h => insertSend (frame h) queue) s.pbc.sendQueue ∧
        t.hdu.slots.length = s.hdu.slots.length ∧
        (∀ i, slotAt t i = (slotAt s i).map fun h => { h with
          heard := false
          sendOwed := if i ∈ due.take room then false else if i ∈ due.drop room then true else h.sendOwed }) ∧
        t.hdu.roundTimer = some (s.coreMs + 1000 * cfg.holdRound) ∧ t.hdu.epoch = s.hdu.epoch ∧ t.hdu.writes = s.hdu.writes ∧
        t.hdu.lifted = (s.hdu.lifted.filter fun l => decide (l.age = 0)).map (fun l => { l with age := 1 }) ∧
        (t.hdu.doubt, t.hdu.doubtTimer) = (match doubtStands s, s.hdu.doubtTimer with
          | false, _ => (s.hdu.doubt, none)
          | true, none => (s.hdu.doubt, none)
          | true, some k => if 1 ≤ k then ((⟨false, false, false⟩ : Doubt), none) else (s.hdu.doubt, some (k + 1))) ∧
        { t with hdu := s.hdu, pbc := { t.pbc with sendQueue := s.pbc.sendQueue }, rwk := s.rwk } = s ∧
        (doubtStands s = false ∨ s.hdu.doubtTimer = none ∨ s.hdu.doubtTimer = some 0 → t.rwk = s.rwk) ∧
        (∀ k, doubtStands s = true → s.hdu.doubtTimer = some k → 1 ≤ k → t.rwk = (trigger s).rwk)

/-! ### The shelf peer bus -/

/-- A frame completes at a node as a receiver (R92, R93 <1>, R100 to R102, R104, R110 <3>, R111): a node that is not SILENT
drives the acknowledgement slot unless DUP_ID stands, the receive count falls, and a RESTRAINED node may be VOICED again. A
node that the bits before the frame take out of SILENT reads it as the VOICED node it then is (R114); one that stays SILENT
drives nothing and keeps its counts, and its run count is that of the frame's end (log 8). The frame is stored, lost for
want of room with hold doubt, malformed, or passed over before START by its kind. A node in an attempt of its own, or one
that waits for its 11 bits, reads no frame (R86; log 2). A frame that bears the own id sets DUP_ID, with its event, and
empties the Send Queue (R99, R104, R105); while DUP_ID stands it raises nothing (log 51). An emptied queue leaves no attempt
and no frame, and reports its frames in their order (log 23), each to the record it was made from: HDU owes the HOLD or LIFT
again (R62), CNU the CLAIM (R137), the WANT, of its appeal if that is APPEALED still (R127), and the repair HAVE, where its
list has room (R130); CTC owes the HAVE or DROP of an entry that still bears the key (R29), or the DROP of a freed one whose
index is unused (log 20), unless a later announcement has superseded it or the record cannot be read (R11, log 48); and a
BEACON is not reported. Nothing else changes. -/
def Obligations.ReceivedFramesAndOwnId : Prop :=
  (∀ kind sender payload, ∀ taken : State → State, (∀ u, taken u =
       if sender = u.pbc.ownId then
         if u.pbc.dupId then u else emptyQueue { u with
           pbc := { u.pbc with dupId := true }, evu := { u.evu with flags := u.evu.flags ||| 0x000100 } }
       else
         match readPayload kind payload with
         | none => { u with evu := { u.evu with flags := u.evu.flags ||| 0x002000 } }
         | some f =>
           if u.ctc.node = .awaitingStart ∧ kind ≠ 6 ∧ kind ≠ 0 ∧ kind ≠ 1 then u
           else if 24 ≤ u.pbc.rxFifo.length then { u with
             evu := { u.evu with flags := u.evu.flags ||| 0x000400 ||| 0x080000 }
             hdu := { u.hdu with
               doubt := { u.hdu.doubt with loss := true }
               doubtTimer := if u.ctc.node = .awaitingStart then none else some 0 } }
           else { u with
             pbc := { u.pbc with rxFifo := u.pbc.rxFifo ++ [⟨sender, f⟩] }
             evu := { u.evu with
               flags := if u.pbc.rxFifo.length = 22 then u.evu.flags ||| 0x000800 else u.evu.flags } }) →
     ∀ s, Powered s →
       (s.pbc.awaitingEleven = true ∨ s.pbc.attempt ≠ none → exec (.frameReceived kind sender payload) s = .next s) ∧
       (s.pbc.awaitingEleven = false → s.pbc.attempt = none → CautionKept s →
         (s.pbc.confinement = .voiced ∧ s.pbc.sendCount < 120 ∧ s.pbc.recvCount ≤ 120) ∨
           (s.pbc.confinement = .restrained ∧ s.pbc.sendCount < 240) →
         exec (.frameReceived kind sender payload) s = .next (taken { s with pbc := { s.pbc with
           ackDriven := !s.pbc.dupId, errorSeq := none, restrainedWait := false, recvCount := s.pbc.recvCount - 1
           confinement := if s.pbc.confinement = .restrained ∧ ¬ (s.pbc.sendCount < 120 ∧ s.pbc.recvCount ≤ 120) then
             .restrained else .voiced
           caution := decide (60 ≤ s.pbc.sendCount ∨ 61 ≤ s.pbc.recvCount) } })) ∧
       (s.pbc.awaitingEleven = false → s.pbc.attempt = none → s.pbc.confinement = .silent →
         ∃ v, exec .leaveSilent s = .next v ∧
           (v.pbc.confinement ≠ .silent →
             exec (.frameReceived kind sender payload) s = exec (.frameReceived kind sender payload) v ∧
             Powered v ∧ v.pbc.awaitingEleven = false ∧ v.pbc.attempt = none ∧ CautionKept v ∧
             v.pbc.confinement = .voiced ∧ v.pbc.sendCount = 0 ∧ v.pbc.recvCount = 0) ∧
           (v.pbc.confinement = .silent → ∃ driven,
             exec (.frameReceived kind sender payload) s = .next (taken { v with
               pbc := { v.pbc with
                 ackDriven := false, errorSeq := none, restrainedWait := false
                 runCount := if driven = true then 8 else recessiveTail ⟨kind, sender, payload⟩ + 9 }
               free := v.free + 1 })))) ∧
  (∀ s : State, emptyQueue s = withAllRead (s.pbc.sendQueue.foldl reportDiscard
     { s with pbc := { s.pbc with sendQueue := [], attempt := none, heldBeacon := false } })) ∧
  (∀ (s : State) (q : SendItem), q.content = .beacon → reportDiscard s q = s) ∧
  (∀ (s : State) (q : SendItem) f, q.content = .frame f → q.producer = .byPayload →
     (∀ m n p x, f = .hold m n p x →
       (slotOf s m = none → reportDiscard s q = s) ∧
       (∀ i h, slotOf s m = some i → slotAt s i = some h → reportDiscard s q = { s with hdu := { s.hdu with
         slots := s.hdu.slots.set i (some { h with sendOwed := true }) } })) ∧
     (∀ m x, f = .lift m x → reportDiscard s q = { s with hdu := { s.hdu with
       lifted := updateFirst (fun l => decide (l.matter = m)) (fun l => { l with owed := true }) s.hdu.lifted } }) ∧
     (∀ key, f = .claim key → reportDiscard s q = { s with cnu := { s.cnu with
       claims := updateFirst (fun c => decide (c.key = key)) (fun c => { c with owed := true }) s.cnu.claims } }) ∧
     (∀ w, f = .want w → reportDiscard s q = { s with cnu := { s.cnu with
       appeals := (updateFirst (fun a => decide (a.key = w.key) && a.appealed) (fun a => { a with wantOwed := true })
         s.cnu.appeals) } })) ∧
  (∀ (s : State) (q : SendItem) f i e, q.content = .frame f → e = entryAt s i →
     (q.producer = .announcement i true → reportDiscard s q = s) ∧
     (q.producer = .announcement i false →
       (Unreadable s i → reportDiscard s q = s) ∧
       (¬ Unreadable s i →
         (∀ key owed, (∃ time cls, f = .haveCopy key time cls) ∧ owed = Owed.haveFrame ∨
             f = .drop key .damaged ∧ owed = .dropFrame →
           (e.state = .free ∨ e.shortKey ≠ key ∨ e.owed = owed → reportDiscard s q = s) ∧
           (e.state ≠ .free → e.shortKey = key → e.owed ≠ owed → reportDiscard s q = nowOwes i { e with owed := owed } s)) ∧
         (∀ key, f = .drop key .disposed →
           (i ∉ s.ctc.freeList → reportDiscard s q = s) ∧
           (i ∈ s.ctc.freeList → e.state = .free → reportDiscard s q = nowOwes i { shortKey := key, owed := .dropFrame }
             { s with ctc := { s.ctc with freeList := s.ctc.freeList.erase i } })))) ∧
     (q.producer = .repair i → reportDiscard s q = { s with cnu := { s.cnu with
       repairs := if i ∈ s.cnu.repairs ∨ 16 ≤ s.cnu.repairs.length then s.cnu.repairs else s.cnu.repairs ++ [i] } }))

/-- An attempt begins with the head of the queue, a BEACON filled from the state at its start bit (R90, R96, R97), when
the line is idle, no change of rate comes first, no attempt is in progress and no restrained wait is due (R112, log 25).
Arbitration is lost to a smaller value, bit by bit on the line (R85, R91 <1>), and at the recessive fill bit of the own
field, which the command then gives with the own value (log 25); the frame keeps its place in the queue and no attempt is in
progress (R97 <2>). A value that does not win takes nothing, and neither command changes anything where it cannot be
(log 2). -/
def Obligations.AttemptsAndArbitration : Prop :=
  (∀ s, Powered s →
     (s.pbc.awaitingEleven = true ∨ s.pbc.restrainedWait = true ∨ s.pbc.rateChange ≠ none ∨ s.pbc.attempt ≠ none ∨
         s.pbc.sendQueue = [] →
       exec .attemptStart s = .next s) ∧
     (∀ q qs f, s.pbc.awaitingEleven = false → s.pbc.restrainedWait = false → s.pbc.rateChange = none →
       s.pbc.attempt = none → s.pbc.sendQueue = q :: qs →
       (match q.content with
         | .frame g => f = g
         | .beacon => f = .beacon s.rck.rt (!s.rck.rtValid) (decide (s.ctc.node = .dormant ∨ s.ctc.node = .waking))
             (decide (s.ctc.node = .storeFault))) →
       exec .attemptStart s = .next { s with pbc := { s.pbc with
         attempt := some f, sendQueue := { q with inAttempt := true } :: qs, errorSeq := none } })) ∧
  ((∀ mine other : BitVec 7, losesArbitration mine other = true ↔
     other.toNat < mine.toNat ∨ other = mine ∧ mine.toNat ≤ 1) ∧
   ∀ winner s, Powered s →
     (s.pbc.attempt = none → exec (.arbitrationLost winner) s = .next s) ∧
     (∀ f own, s.pbc.attempt = some f → own = 16 * (kindOf f).toNat + s.pbc.ownId.toNat →
       exec (.arbitrationLost winner) s =
         .next (if winner.toNat < own ∨ winner.toNat = own ∧ own ≤ 1 then
           { s with pbc := { s.pbc with
             attempt := none, heldBeacon := false
             sendQueue := s.pbc.sendQueue.map fun q => { q with inAttempt := false } } }
         else s)))

/-- A frame counted sent leaves the queue, the send count falls, its slot is granted to the first producer that owes a
frame, and a BEACON held behind it is offered (R96 <4>, R97 <1>, R98, R109 <4>); a node still RESTRAINED then waits (R111,
R112). With no attempt in progress nothing happens (log 2). Who is granted a freed slot (R62, R98, R140): HDU for an owed
LIFT, then for an owed HOLD of the lowest slot, then CTC for an owed announcement, whose mark is cleared and whose index,
where the entry is owed-free, returns to the free-entry list (R2, R29), then CNU for an owed CLAIM, an owed WANT and an owed
repair HAVE; entries that no longer qualify leave CNU's lists on the way. In STORE FAULT a record that cannot be read is
passed over, by CTC and by CNU, and the marks of failed reads are gone with the grant of a sent frame (R11, log 48). None is
granted while the queue refuses offers (R95, R99). One grant makes one frame at most. An offer is taken while the queue is open
and holds fewer than 16 frames, but not in DUP_ID or SILENT, and the frame stands behind every frame of its own or a lower kind
(R95). -/
def Obligations.SentFramesAndGrants : Prop :=
  (∀ s : State, canOffer s = true ↔ s.pbc.sendOpen = true ∧ s.pbc.sendQueue.length < 16 ∧ s.pbc.dupId = false ∧
     s.pbc.confinement ≠ .silent) ∧
  (∀ (q : SendItem) (before after : List SendItem), (∀ x ∈ before, x.kind ≤ q.kind) → (∀ x ∈ after.head?, q.kind < x.kind) →
     insertSend q (before ++ after) = before ++ q :: after) ∧
  (∀ q : SendItem, q.kind = (match q.content with | .beacon => 6 | .frame f => kindOf f)) ∧
  (∀ s, Powered s →
     (s.pbc.attempt = none → exec .frameSent s = .next s) ∧
     (∀ f before q after conf u v, s.pbc.attempt = some f →
       (s.pbc.confinement = .voiced ∧ s.pbc.recvCount < 120 ∧ s.pbc.sendCount ≤ 120) ∨
         (s.pbc.confinement = .restrained ∧ s.pbc.sendCount ≤ 240) → CautionKept s →
       s.pbc.sendQueue = before ++ q :: after → q.inAttempt = true → (∀ x ∈ before, x.inAttempt = false) →
       conf = (if s.pbc.confinement = .restrained ∧ ¬ (s.pbc.sendCount ≤ 120 ∧ s.pbc.recvCount < 120) then
         Confinement.restrained else .voiced) →
       u = grantOne { s with pbc := { s.pbc with
         attempt := none, heldBeacon := false, errorSeq := none, sendQueue := before ++ after
         sendCount := s.pbc.sendCount - 1, confinement := conf
         caution := decide (61 ≤ s.pbc.sendCount ∨ 60 ≤ s.pbc.recvCount)
         restrainedWait := decide (conf = .restrained) } } →
       v = withAllRead u →
       exec .frameSent s = .next (if s.pbc.heldBeacon then offerBeacon v else v))) ∧
  (∀ s : State, ∀ may : Nat × Entry → Prop,
     (∀ p, may p ↔ p.1 < s.ctc.loaded ∧ p.2.owed ≠ .nothing ∧ ¬ Unreadable s p.1 ∧
       (p.2.owed = .haveFrame → ∀ q ∈ s.ctc.work, (s.ctc.loadStopped = true → q.1 < s.ctc.loaded) →
         q.2.state = .free → q.2.owed = .dropFrame → q.2.shortKey ≠ p.2.shortKey)) →
     (canOffer s = false → grantOne s = s) ∧
     (canOffer s = true →
       (grantOne s).pbc.sendQueue.length ≤ s.pbc.sendQueue.length + 1 ∧
       (∀ before l after, s.hdu.lifted = before ++ l :: after → l.owed = true → (∀ x ∈ before, x.owed = false) →
         (∀ x ∈ before, x.matter ≠ l.matter) →
         grantOne s = { s with
           hdu := { s.hdu with lifted := before ++ { l with owed := false } :: after }
           pbc := { s.pbc with sendQueue := insertSend { content := .frame (.lift l.matter l.time) } s.pbc.sendQueue } }) ∧
       ((∀ l ∈ s.hdu.lifted, l.owed = false) →
         (∀ front h back, s.hdu.slots = front ++ some h :: back → h.sendOwed = true →
           (∀ x, some x ∈ front → x.sendOwed = false) →
           grantOne s = { s with
             hdu := { s.hdu with slots := front ++ some { h with sendOwed := false } :: back }
             pbc := { s.pbc with sendQueue := insertSend { content := .frame (.hold h.hold.matter h.hold.patLen h.hold.pattern
               (if h.hold.unknown then 0 else h.hold.placed)) } s.pbc.sendQueue } }) ∧
         ((∀ h, some h ∈ s.hdu.slots → h.sendOwed = false) →
           (∀ before p after e f, catWf s.ctc.work = true → s.ctc.work = before ++ p :: after → may p →
             (∀ x ∈ before, ¬ may x) → e = (if p.2.state = .free then {} else { p.2 with owed := .nothing }) →
             f = (if p.2.owed = .dropFrame then
                 PeerFrame.drop p.2.shortKey (if p.2.state = .free then .disposed else .damaged)
               else .haveCopy p.2.shortKey p.2.lodgeTime p.2.cls) →
             grantOne s = { s with
               ctc := { s.ctc with
                 work := catSet s.ctc.work p.1 e
                 writes := if s.ctc.node = .storeFault then s.ctc.writes else s.ctc.writes ++ [{ index := p.1, entry := e }]
                 freeList := if p.2.state = .free then insertIndex p.1 s.ctc.freeList else s.ctc.freeList }
               pbc := { s.pbc with sendQueue := (insertSend
                 { content := .frame f, producer := .announcement p.1 false } s.pbc.sendQueue) } }) ∧
           ((∀ p ∈ s.ctc.work, ¬ may p) →
             (∀ before c after, s.cnu.claims = before ++ c :: after → c.owed = true → (∀ x ∈ before, x.owed = false) →
               (∀ x ∈ before, x.key ≠ c.key) →
               grantOne s = { s with
                 cnu := { s.cnu with claims := before ++ { c with owed := false } :: after }
                 pbc := { s.pbc with sendQueue := insertSend { content := .frame (.claim c.key) } s.pbc.sendQueue } }) ∧
             ((∀ c ∈ s.cnu.claims, c.owed = false) → (s.cnu.appeals.map Appeal.index).Nodup →
               ∀ short : Nat → Prop, (∀ i, short i ↔ liveHolders s (entryAt s i) < copyTarget s ∧ ScrubbableAt s i ∧
                 (s.rck.rf < (entryAt s i).expiry ∨ 0 < (entryAt s i).holdCount)) →
               ∀ unowed : List Appeal → List Appeal,
                 (∀ as, unowed as = as.filter fun a => decide (a.wantOwed = true → Unreadable s a.index)) →
               (∀ before a after e, s.cnu.appeals = before ++ a :: after → a.wantOwed = true → e = entryAt s a.index →
                 ¬ Unreadable s a.index → short a.index →
                 (∀ x ∈ before, x.wantOwed = true → Unreadable s x.index ∨ ¬ short x.index) →
                 grantOne s = { s with
                   cnu := { s.cnu with appeals := unowed before ++ { a with wantOwed := false } :: after }
                   pbc := { s.pbc with sendQueue := insertSend { content := .frame (.want ⟨e.shortKey, e.lodgeTime, e.cls,
                     decide (0 < e.holdCount), extentsSize e.extents, e.cust,
                     setAdd (setOf (presentMembers s e.holders)) s.pbc.ownId⟩) } s.pbc.sendQueue } }) ∧
               ((∀ a ∈ s.cnu.appeals, a.wantOwed = true → Unreadable s a.index ∨ ¬ short a.index) →
                 ∀ kept : List Nat → List Nat, (∀ is, kept is = is.filter fun i => decide (Unreadable s i)) →
                 (∀ before i after e, s.cnu.repairs = before ++ i :: after → e = entryAt s i → ScrubbableAt s i →
                   ¬ Unreadable s i → (∀ j ∈ before, Unreadable s j ∨ ¬ ScrubbableAt s j) →
                   grantOne s = { s with
                     cnu := { s.cnu with appeals := unowed s.cnu.appeals, repairs := kept before ++ after }
                     pbc := { s.pbc with sendQueue := (insertSend
                       { content := .frame (.haveCopy e.shortKey e.lodgeTime e.cls), producer := .repair i }
                       s.pbc.sendQueue) } }) ∧
                 ((∀ j ∈ s.cnu.repairs, Unreadable s j ∨ ¬ ScrubbableAt s j) →
                   grantOne s = { s with cnu := { s.cnu with
                     appeals := unowed s.cnu.appeals, repairs := kept s.cnu.repairs } }))))))))

/-- A send error adds 6 to the send count, but for a missing acknowledgement while RESTRAINED; the frame keeps its
place, and the node sends its flag, dominant only while VOICED after the change with DUP_ID clear (R97 <3>, R108, R109,
R111, R112). A receive error adds 1 to the receive count up to 200 and begins an error sequence (R108, R110, R111); one
that comes after the acknowledgement slot leaves that slot driven (R92). A further 8 dominant bits after a flag are one
further error of the direction that began the sequence (R108, R109 <3>, R110 <2>). The entry to SILENT abandons the attempt,
sets the recovery counts to 0 and empties the Send Queue to its producers (R99, R113). In SILENT the counts stay, and the
recovery counts take the bits of the line as far as they are known (R114, log 8); a node that the bits before an errored frame
take out of SILENT counts the error as the VOICED node it then is. Before the first 16 dominant bits of its error sequence a
SILENT node has read up to 16 recessive ones, which may bring it out of SILENT (R108, R114); dominant bits after those are
nothing but dominant, and either leaves its run count at 0. A send error without an attempt, a receive
error during one or before the 11 bits, and dominant bits before the 11 bits or without a sequence are no event (R107,
log 2). The confinement state and caution level that a change of the counts leaves (R111). -/
def Obligations.ErrorsMoveTheCounts : Prop :=
  (∀ e s, Powered s →
     (s.pbc.attempt = none → exec (.sendError e) s = .next s) ∧
     (∀ f, s.pbc.attempt = some f →
       ∀ queue, queue = s.pbc.sendQueue.map (fun q => { q with inAttempt := false }) →
       (s.pbc.confinement = .voiced ∨ s.pbc.confinement = .restrained ∧ e ≠ .noAck → s.pbc.sendCount + 6 < 240 →
         ∀ conf, conf = (if 120 ≤ s.pbc.sendCount + 6 ∨ 120 ≤ s.pbc.recvCount then Confinement.restrained else .voiced) →
         exec (.sendError e) s = .next { s with
           pbc := { s.pbc with
             attempt := none, heldBeacon := false, sendQueue := queue, sendCount := s.pbc.sendCount + 6, confinement := conf
             caution := decide (60 ≤ s.pbc.sendCount + 6 ∨ 60 ≤ s.pbc.recvCount)
             restrainedWait := decide (conf = .restrained)
             errorSeq := some ⟨true, decide (conf = .voiced) && !s.pbc.dupId, false⟩ }
           evu := { s.evu with flags :=
             if ((60 ≤ s.pbc.sendCount + 6 ∨ 60 ≤ s.pbc.recvCount) ∧ s.pbc.caution = false) ∨
                 (s.pbc.confinement = .voiced ∧ conf = .restrained) then
               s.evu.flags ||| 0x000200 else s.evu.flags } }) ∧
       (s.pbc.confinement = .restrained → e = .noAck →
         exec (.sendError e) s = .next { s with pbc := { s.pbc with
           attempt := none, heldBeacon := false, sendQueue := queue, restrainedWait := true, errorSeq := some ⟨true, false, false⟩ } }) ∧
       (s.pbc.confinement = .restrained → e ≠ .noAck → 234 ≤ s.pbc.sendCount → s.pbc.sendCount ≤ 240 →
         ∀ v, v = emptyQueue { s with
             pbc := { s.pbc with
               attempt := none, heldBeacon := false, sendQueue := queue, sendCount := 240, confinement := .silent
               caution := true, restrainedWait := false, runCount := 0, recoveryCount := 0 }
             evu := { s.evu with flags := s.evu.flags ||| 0x000200 } } →
           exec (.sendError e) s = .next { v with pbc := { v.pbc with errorSeq := some ⟨true, false, false⟩ } }) ∧
       (s.pbc.confinement = .silent →
         exec (.sendError e) s = .next { s with pbc := { s.pbc with
           attempt := none, heldBeacon := false, sendQueue := queue, restrainedWait := false, errorSeq := some ⟨true, false, false⟩ } }))) ∧
  (∀ e s, Powered s →
     (s.pbc.awaitingEleven = true ∨ s.pbc.attempt ≠ none → exec (.receiveError e) s = .next s) ∧
     (s.pbc.errorSeq = none ∨ s.pbc.awaitingEleven = true → exec .dominantRunError s = .next s) ∧
     (∀ recv conf flags, s.pbc.confinement ≠ .silent → s.pbc.sendCount < 240 → recv = min 200 (s.pbc.recvCount + 1) →
       conf = (if 120 ≤ s.pbc.sendCount ∨ 120 ≤ recv then Confinement.restrained else .voiced) →
       flags = (if ((60 ≤ s.pbc.sendCount ∨ 60 ≤ recv) ∧ s.pbc.caution = false) ∨
           (s.pbc.confinement = .voiced ∧ conf = .restrained) then
         s.evu.flags ||| 0x000200 else s.evu.flags) →
       (s.pbc.awaitingEleven = false → s.pbc.attempt = none →
         exec (.receiveError e) s = .next { s with
           pbc := { s.pbc with
             ackDriven := decide (e = .form) && !s.pbc.dupId
             recvCount := recv, confinement := conf, caution := decide (60 ≤ s.pbc.sendCount ∨ 60 ≤ recv)
             restrainedWait := false, errorSeq := some ⟨false, decide (conf = .voiced) && !s.pbc.dupId, false⟩ }
           evu := { s.evu with flags := flags } }) ∧
       (∀ dominant run, s.pbc.errorSeq = some ⟨false, dominant, run⟩ → s.pbc.awaitingEleven = false →
         exec .dominantRunError s = .next { s with
           pbc := { s.pbc with
             errorSeq := some ⟨false, dominant, true⟩
             recvCount := recv, confinement := conf, caution := decide (60 ≤ s.pbc.sendCount ∨ 60 ≤ recv)
             restrainedWait := s.pbc.restrainedWait && decide (conf = .restrained) }
           evu := { s.evu with flags := flags } })) ∧
     (∀ dominant run, s.pbc.confinement = .restrained → s.pbc.errorSeq = some ⟨true, dominant, run⟩ → s.pbc.sendCount < 234 →
       114 ≤ s.pbc.sendCount → s.pbc.caution = true → s.pbc.awaitingEleven = false →
       exec .dominantRunError s = .next { s with pbc := { s.pbc with
         sendCount := s.pbc.sendCount + 6, errorSeq := some ⟨true, dominant, true⟩ } }) ∧
     (∀ q u, s.pbc.errorSeq = some q → s.pbc.awaitingEleven = false →
       u = { s with pbc := { s.pbc with errorSeq := some { q with dominantRun := true } } } →
       (s.pbc.confinement ≠ .silent →
         exec .dominantRunError s = .next (if q.sending then setCounts (min 240 (s.pbc.sendCount + 6)) s.pbc.recvCount u
           else setCounts s.pbc.sendCount (min 200 (s.pbc.recvCount + 1)) u)) ∧
       (s.pbc.confinement = .silent → q.dominantRun = true →
         exec .dominantRunError s = .next { u with pbc := { u.pbc with runCount := 0 } }) ∧
       (s.pbc.confinement = .silent → q.dominantRun = false → ∃ n ≤ 16, ∀ v, v = { u with
           pbc := { u.pbc with
             runCount := 0, recoveryCount := min 64 (s.pbc.recoveryCount + (s.pbc.runCount + n) / 16) }
           free := s.free + 1 } →
         exec .dominantRunError s = .next (if 64 ≤ v.pbc.recoveryCount then backVoiced v else v))) ∧
     (s.pbc.confinement = .silent → s.pbc.awaitingEleven = false →
       ∀ v, s.pbc.attempt = none → exec .leaveSilent s = .next v →
         (v.pbc.confinement ≠ .silent → exec (.receiveError e) s = exec (.receiveError e) v) ∧
         (v.pbc.confinement = .silent → ∃ run, (e = .form → run = 0) ∧ (e = .fill → run = 0 ∨ run = 8) ∧ (e = .check → run < 7) ∧
           exec (.receiveError e) s = .next { v with
             pbc := { v.pbc with
               ackDriven := false, restrainedWait := false, errorSeq := some ⟨false, false, false⟩, runCount := run }
             free := v.free + 1 }))) ∧
  (∀ send recv s, s.pbc.confinement ≠ .silent → send ≤ 240 →
     ∀ t, t = setCounts send recv s →
       t.pbc.sendCount = send ∧ t.pbc.recvCount = recv ∧
       t.pbc.caution = decide (60 ≤ send ∨ 60 ≤ recv) ∧
       (s.pbc.confinement = .voiced → send < 240 →
         (t.pbc.confinement = .restrained ↔ 120 ≤ send ∨ 120 ≤ recv) ∧ t.pbc.confinement ≠ .silent) ∧
       (s.pbc.confinement = .restrained →
         (t.pbc.confinement = .silent ↔ send = 240) ∧ (t.pbc.confinement = .voiced ↔ send < 120 ∧ recv < 120)) ∧
       (∀ u, u = { s with
           pbc := { s.pbc with
             sendCount := send, recvCount := recv, caution := t.pbc.caution, confinement := t.pbc.confinement
             restrainedWait := s.pbc.restrainedWait && decide (t.pbc.confinement = .restrained) }
           evu := { s.evu with flags := t.evu.flags } } →
         t = (if t.pbc.confinement = .silent then
           emptyQueue { u with pbc := { u.pbc with runCount := 0, recoveryCount := 0 } } else u)) ∧
       (t.evu.flags.getLsbD 9 = true ↔ s.evu.flags.getLsbD 9 = true ∨
         (t.pbc.caution = true ∧ s.pbc.caution = false) ∨
         (t.pbc.confinement ≠ s.pbc.confinement ∧ t.pbc.confinement ≠ .voiced)))

/-- A SILENT node counts the bits read since the last event of the line, by free values (R114, log 8). One whose recovery
count so comes to 64 returns VOICED with counts of 0 and the line idle, raising BUS_STATE; with DUP_ID clear the owed producers
are granted, one after another until the queue is full or none is owed, a BEACON is offered and the beacon timer starts again
(R99, R114, R119 <3>). One whose count does not stays SILENT, and a node that is not SILENT is left as it is (log 2). A change
of bit rate is made while the line is idle and no attempt is in progress, after which 11 recessive bits must be read again
(R86); where that is not so, it changes nothing (log 2). -/
def Obligations.LineReturnsAndChangesRate : Prop :=
  (∀ s, grantAll s = grantOne^[16] s ∧ grantOne (grantAll s) = grantAll s) ∧
  ∀ s, Powered s →
    (s.pbc.confinement ≠ .silent → exec .leaveSilent s = .next s) ∧
    (s.pbc.confinement = .silent → ∃ n beforeFlags, ∀ base, base = { s with
        pbc := { s.pbc with runCount := (gapCounts beforeFlags n s).1, recoveryCount := (gapCounts beforeFlags n s).2 }
        free := s.free + 1 } →
      (base.pbc.recoveryCount < 64 → exec .leaveSilent s = .next base) ∧
      (64 ≤ base.pbc.recoveryCount → exec .leaveSilent s = .next (backVoiced base))) ∧
    (s.pbc.rateChange = none ∨ s.pbc.attempt ≠ none ∨ s.pbc.awaitingEleven = true → exec .bitRateChange s = .next s) ∧
    (∀ code, s.pbc.rateChange = some code → s.pbc.attempt = none → s.pbc.awaitingEleven = false →
      exec .bitRateChange s = .next { s with pbc := { s.pbc with bitRate := code, rateChange := none, awaitingEleven := true, errorSeq := none } }) ∧
    exec .elevenRecessiveBitsRead s = .next { s with pbc := { s.pbc with awaitingEleven := false } }

/-! ### Peer Table, census and timers -/

/-- A BEACON at its sender's Peer Table slot (R38, R39, R40, R116, R118): stamp, local reception time, last-heard time,
marks and time marker; a slot that becomes SKEWED raises CLOCK; an ABSENT sender becomes PRESENT with PRESENCE and a
trigger; and BDT is recomputed (R41). -/
def Obligations.BeaconsFillThePeerTable : Prop :=
  ∀ sender stamp invalid dormant fault rest s, Powered s →
    s.pbc.rxFifo = ⟨sender, .beacon stamp invalid dormant fault⟩ :: rest →
    ∀ old marker p, old = peerAt s sender →
      marker = (if invalid = true ∨ s.rck.rtValid = false then TimeMarker.invalid
        else if inForceOr s Settings.skew 3600 < (stamp - s.rck.rt) + (s.rck.rt - stamp) then .skewed else .usable) →
      p = ({ old with
        marker := marker, stamp := some stamp, localTime := some s.rck.rt, heardAt := some s.coreMs
        dormant := dormant, fault := fault
        presence := if old.presence = .absent then .present else old.presence } : Peer) →
      ∀ flags, flags = (if marker = .skewed ∧ old.marker ≠ .skewed then s.evu.flags ||| 0x100000 else s.evu.flags) →
      sender.toNat < s.pbc.peers.length →
      exec .beaconDispatch s = .next (recomputeBdt (
        if old.presence = .absent then
          trigger { s with
            pbc := { s.pbc with rxFifo := rest, peers := s.pbc.peers.set sender.toNat p }
            evu := { s.evu with flags := flags ||| 0x001000 } }
        else
          { s with
            pbc := { s.pbc with rxFifo := rest, peers := s.pbc.peers.set sender.toNat p }
            evu := { s.evu with flags := flags } }))

/-- HAVE, DROP, WANT and CLAIM frames leave the Receive FIFO and change what the census knows (R103, R122, R123, R128,
R130, R131, R135): a HAVE or WANT adds its sender to the holder set of the entry of its key, a DROP removes it, each with a
write where the set changed and STORE FAULT does not stand (`holdersTaken`). Each is a test of the Appeal List entry, after the
change of the set: one no longer short or eligible leaves, with its owed WANT (R122, R129, R164, log 53, `testedByCnu`). A DROP
has CNU re-check the entry (R123, R126): with the write where one is made, so that no WANT comes before it (R10, log 38), and
otherwise at once (`handedToCnu`). The candidates and claims of the key take a HAVE or DROP as R122, R123 and R136 say, and
nothing else changes; a CLAIM stands with its time among the claims heard of a candidate. A WANT at a holder is taken as its
appeal, and a repair HAVE follows, with the write or at once, where the entry is RETAINED or RELEASABLE at the WANT (log 43). A
WANT for a key that no entry holds is a recruitment call (R131 to R133): a claim of its key takes the holders; a node not
eligible to recruit ignores it, the last WANT time of a candidate with it (log 44); a full Candidate List raises
CANDIDATE_FULL; and otherwise the parcel is a candidate, its recruit timer started with a rank computed now or, at delay 0, at
its end at once. The recruit rank counts the PRESENT peers outside the holder set whose placement position is smaller than the
own one (R125 <2>). -/
def Obligations.WantsAndCensusFrames : Prop :=
  (∀ (s : State) (key : ShortKey) (holders : NodeSet) (ids : List NodeId), ids.Nodup →
     (∀ id, id ∈ ids ↔ (peerAt s id).presence = .present ∧ holders.getLsbD id.toNat = false ∧
       placementPosition key id < placementPosition key s.pbc.ownId) →
     recruitRank s key holders = ids.length) ∧
  (∀ (set : NodeSet) (id x : NodeId), setHas set id = set.getLsbD id.toNat ∧
     (setHas (setAdd set id) x = true ↔ x = id ∨ setHas set x = true) ∧
     (setHas (setRemove set id) x = true ↔ x ≠ id ∧ setHas set x = true)) ∧
  (∀ sender key s, Powered s → catWf s.ctc.work = true →
     (∀ time cls rest, s.pbc.rxFifo = ⟨sender, .haveCopy key time cls⟩ :: rest →
       ∀ u, u = { s with pbc := { s.pbc with rxFifo := rest } } →
       Runs .haveDispatch s fun t => HaveAtLists key sender s t ∧
         ∀ x, x = { t with cnu := { t.cnu with claims := s.cnu.claims, candidates := s.cnu.candidates } } →
           (findKey s key = none → x = u) ∧
           (∀ i e v, findKey s key = some i → e = { entryAt s i with holders := setAdd (entryAt s i).holders sender } →
             v = holdersTaken i e [] u →
             x = testedByCnu i e v)) ∧
     (∀ reason rest, s.pbc.rxFifo = ⟨sender, .drop key reason⟩ :: rest →
       ∀ u, u = { s with pbc := { s.pbc with rxFifo := rest } } →
       Runs .dropDispatch s fun t => DropAtLists key reason sender s t ∧
         ∀ x, x = { t with cnu := { t.cnu with claims := s.cnu.claims, candidates := s.cnu.candidates } } →
           (findKey s key = none → x = u) ∧
           (∀ i e, findKey s key = some i → e = { entryAt s i with holders := setRemove (entryAt s i).holders sender } →
             x = (if e.holders = (entryAt s i).holders ∨ s.ctc.node = .storeFault then
                 handedToCnu i e (testedByCnu i e (holdersTaken i e [] u))
               else holdersTaken i e [.recheck] u))) ∧
     (∀ w rest i, s.pbc.rxFifo = ⟨sender, .want w⟩ :: rest → w.key = key → findKey s key = some i →
       ∀ e e' hit u v, e = entryAt s i → e' = { e with holders := setAdd e.holders sender } →
         hit = (⟨e.shortKey, { holder := true }, i, e.state, e.holdCount, e'.holders⟩ : Hit) →
         u = { s with
           pbc := { s.pbc with rxFifo := rest }
           cnu := { s.cnu with appeals := (updateFirst (fun a => decide (a.index = i))
             (fun a => if a.appealed then { a with appealTime := s.coreMs, wantOwed := false }
               else { a with appealed := true, timer := none, appealTime := s.coreMs }) (testedByCnu i e' s).cnu.appeals) } } →
         v = (if setHas e.holders sender then u
           else recordHit (some hit) { u with ctc := { s.ctc with work := catSet s.ctc.work i e' } }) →
         (setHas e.holders sender = false → s.ctc.node ≠ .storeFault →
           Ends .wantDispatch s { u with ctc := { s.ctc with
             work := catSet s.ctc.work i e'
             writes := s.ctc.writes ++ [{
               index := i, entry := e', hit := some hit
               effects := if e.state = .retained ∨ e.state = .releasable then [.repairHave] else [] }] } } []) ∧
         (setHas e.holders sender = true ∨ s.ctc.node = .storeFault →
           (¬ ScrubbableAt s i → Ends .wantDispatch s v []) ∧
           (ScrubbableAt s i → canOffer s = true →
             Ends .wantDispatch s { v with pbc := { v.pbc with sendQueue := (insertSend
               { content := .frame (.haveCopy e.shortKey e.lodgeTime e.cls), producer := .repair i } s.pbc.sendQueue) } } []) ∧
           (ScrubbableAt s i → canOffer s = false →
             Ends .wantDispatch s { v with cnu := { v.cnu with
               repairs := if i ∈ s.cnu.repairs ∨ 16 ≤ s.cnu.repairs.length then s.cnu.repairs else s.cnu.repairs ++ [i] } } []))) ∧
     (∀ rest, s.pbc.rxFifo = ⟨sender, .claim key⟩ :: rest →
       exec .claimDispatch s = .next { s with
         pbc := { s.pbc with rxFifo := rest }
         cnu := { s.cnu with candidates := (updateFirst (fun c => decide (c.key = key))
           (fun c => if setHas c.holders sender then c else
             { c with claimsHeard := c.claimsHeard.filter (fun h => decide (h.1 ≠ sender)) ++ [(sender, s.coreMs)] })
           s.cnu.candidates) } })) ∧
  (∀ sender w rest s, Powered s → s.pbc.rxFifo = ⟨sender, .want w⟩ :: rest → findKey s w.key = none →
     ∀ u, u = { s with pbc := { s.pbc with rxFifo := rest } } →
     ∀ holders, holders = setRemove w.holders s.pbc.ownId →
       if ∃ c ∈ s.cnu.claims, c.key = w.key then
         Ends .wantDispatch s { u with cnu := { s.cnu with claims := (updateFirst (fun c => decide (c.key = w.key))
           (fun c => { c with holders := c.holders ||| holders }) s.cnu.claims) } } []
       else if ¬ MayRecruit s w.size w.lodgeTime w.cls w.held then Ends .wantDispatch s u []
       else if ∃ c ∈ s.cnu.candidates, c.key = w.key then
         ∀ before c after merged c', s.cnu.candidates = before ++ c :: after → c.key = w.key → (∀ x ∈ before, x.key ≠ w.key) →
           merged = c.holders ||| holders →
           c' = { c with
             holders := merged, held := w.held, lastWant := s.coreMs
             claimsHeard := c.claimsHeard.filter fun h => !setHas merged h.1 } →
           (c.timer ≠ none →
             Ends .wantDispatch s { u with cnu := { s.cnu with candidates := before ++ c' :: after } } []) ∧
           (∀ rank delay v, c.timer = none → rank = recruitRank s w.key merged →
             delay = rank * inForceOr s Settings.recruitStep 0 →
             v = { u with cnu := { s.cnu with candidates := (before ++
               { c' with rank := rank, timer := some (s.coreMs + delay) } :: after) } } →
             Ends .wantDispatch s (if delay = 0 then recruitExpire w.key v else v) [])
       else if 32 ≤ s.cnu.candidates.length then
         Ends .wantDispatch s { u with evu := { s.evu with flags := s.evu.flags ||| 0x000004 } } []
       else
         ∀ rank delay v, rank = recruitRank s w.key holders → delay = rank * inForceOr s Settings.recruitStep 0 →
           v = { u with cnu := { s.cnu with candidates := s.cnu.candidates ++ [{
             key := w.key, lodgeTime := w.lodgeTime, cls := w.cls, held := w.held, cust := w.cust, size := w.size
             holders := holders, lastWant := s.coreMs, rank := rank, timer := some (s.coreMs + delay) }] } } →
           Ends .wantDispatch s (if delay = 0 then recruitExpire w.key v else v) [])

/-- A candidate's recruit timer ends (R134, R137): with enough live holders the candidate is dropped; where live holders and
recent claims together fall short of K and the node may recruit, it becomes a claim, FETCH is posted and CLAIM is offered or
owed; and otherwise it waits. With no candidate of the key, or none whose timer runs, and at the lifetime's end of a claim
that is not there, nothing happens (log 2). A candidate not wanted for a claim lifetime leaves the list (R136 <1>), one that
a WANT taken first has refreshed stays (R136, log 3), and a claim whose lifetime ends leaves it with CLAIM_LAPSED raised and
posted (R138). -/
def Obligations.RecruitTimersAndExpiries : Prop :=
  (∀ key s, Powered s →
     ((∀ c ∈ s.cnu.candidates, c.key ≠ key) → Ends (.recruitTimerExpiry key) s s []) ∧
     (∀ before c after, s.cnu.candidates = before ++ c :: after → c.key = key → c.timer = none →
       (∀ x ∈ before, x.key ≠ key) → Ends (.recruitTimerExpiry key) s s []) ∧
     (∀ before c after d, s.cnu.candidates = before ++ c :: after → c.key = key → c.timer = some d →
       (∀ x ∈ before, x.key ≠ key) → (∀ x ∈ after, x.key ≠ key) →
       ∀ recent live, recent = c.claimsHeard.filter (fun h => decide (s.coreMs ≤ h.2 + claimLifetime s)) →
         live = (presentMembers s c.holders).length →
       if copyTarget s ≤ live then
         Ends (.recruitTimerExpiry key) s { s with cnu := { s.cnu with candidates := before ++ after } } []
       else if live + recent.length < copyTarget s ∧ MayRecruit s c.size c.lodgeTime c.cls c.held then
         ∀ e claim, claim = ({
             key := key, lodgeTime := c.lodgeTime, cls := c.cls, cust := c.cust, size := c.size, holders := c.holders
             claimTime := s.coreMs, deadline := s.coreMs + claimLifetime s, owed := !canOffer s } : Claim) →
           e = { s with
             cnu := { s.cnu with candidates := before ++ after, claims := s.cnu.claims ++ [claim] }
             pbc := { s.pbc with sendQueue := (
               if canOffer s then insertSend { content := .frame (.claim key) } s.pbc.sendQueue else s.pbc.sendQueue) }
             rli := { s.rli with
               notices := s.rli.notices ++ [.fetchAdoption key c.lodgeTime c.cls c.cust c.size c.holders] } } →
           Ends (.recruitTimerExpiry key) s e []
       else
         Ends (.recruitTimerExpiry key) s { s with cnu := { s.cnu with
           candidates := before ++ { c with claimsHeard := recent, timer := none } :: after } } [])) ∧
  (∀ key s, Powered s →
     exec (.candidateExpiry key) s =
       .next { s with cnu := { s.cnu with candidates := (s.cnu.candidates.filter fun c =>
         decide (c.key = key → s.coreMs < c.lastWant + claimLifetime s)) } } ∧
     ((∀ c ∈ s.cnu.claims, c.key ≠ key) → Ends (.claimLifetimeExpiry key) s s []) ∧
     ((∃ c ∈ s.cnu.claims, c.key = key) →
       Ends (.claimLifetimeExpiry key) s
         { s with
           cnu := { s.cnu with claims := s.cnu.claims.filter fun c => decide (c.key ≠ key) }
           evu := { s.evu with flags := s.evu.flags ||| 0x000010 }
           rli := { s.rli with notices :=
             if s.rli.notices.length < 32 then s.rli.notices ++ [.claimLapsed key] else s.rli.notices } } []))

/-- The terms of the census (R8, R125 <1>): the live holders are the PRESENT members of the holder set, and one more for an own
live copy; the appeal rank counts the PRESENT members whose placement position is smaller than the own one; K, the appeal step
and the claim lifetime are those in force. Appeals (R127, R129): at the end of its timer an entry still short and eligible is appealed for, by a WANT of its
PRESENT holders and the own id offered or owed, and any other leaves the list; the re-arm test starts the timer of an
appealed entry again, which at delay 0 ends at once (R125), or removes it; a WANT still owed stays owed (log 42). The
timer's end of an appealed entry, the re-arm of a waiting one or of one that a WANT has been heard for within a claim
lifetime (R128, log 3), and either for an index not on the list change nothing (log 2). In STORE FAULT an entry whose record
cannot be read is passed over (R11, log 48). -/
def Obligations.AppealTimersSendWants : Prop :=
  (∀ (s : State) (e : Entry) (ids : List NodeId), ids.Nodup →
    ((∀ id, id ∈ ids ↔ (peerAt s id).presence = .present ∧ e.holders.getLsbD id.toNat = true) →
      (presentMembers s e.holders).Perm ids ∧
      (∀ id, (setAdd (setOf (presentMembers s e.holders)) s.pbc.ownId).getLsbD id.toNat = true ↔ id ∈ ids ∨ id = s.pbc.ownId) ∧
      liveHolders s e = ids.length + if e.state = .retained ∨ e.state = .releasable ∨ e.state = .disposing then 1 else 0) ∧
    ((∀ id, id ∈ ids ↔ (peerAt s id).presence = .present ∧ e.holders.getLsbD id.toNat = true ∧
        placementPosition e.shortKey id < placementPosition e.shortKey s.pbc.ownId) →
      appealRank s e = ids.length)) ∧
  (∀ (s : State) cfg, s.ctc.inForce = some cfg → copyTarget s = cfg.k ∧ claimLifetime s = 60000 * cfg.claimLifetime ∧
    inForceOr s Settings.appealStep 0 = cfg.appealStep ∧ inForceOr s Settings.recruitStep 0 = cfg.recruitStep) ∧
  ∀ index s, Powered s →
    ∀ i e, i = index.toNat → e = entryAt s i →
    ((∀ a ∈ s.cnu.appeals, a.index ≠ i) →
      exec (.appealTimerExpiry index) s = .next s ∧ exec (.appealRearm index) s = .next s) ∧
    ∀ due, due = (decide (liveHolders s e < copyTarget s) && decide (e.state = .retained ∨ e.state = .releasable) &&
        decide (s.rck.rf < e.expiry ∨ 0 < e.holdCount)) →
    ∀ before a after, s.cnu.appeals = before ++ a :: after → a.index = i → (∀ x ∈ before, x.index ≠ i) →
      (∀ x ∈ after, x.index ≠ i) →
    ∀ a' (wanted : State), a' = { a with appealed := true, timer := none, appealTime := s.coreMs } →
      wanted = (
          if canOffer s then { s with
            cnu := { s.cnu with appeals := before ++ a' :: after }
            pbc := { s.pbc with sendQueue := insertSend { content := .frame (.want ⟨e.shortKey, e.lodgeTime, e.cls,
              decide (0 < e.holdCount), extentsSize e.extents, e.cust,
              setAdd (setOf (presentMembers s e.holders)) s.pbc.ownId⟩) } s.pbc.sendQueue } }
          else { s with cnu := { s.cnu with appeals := before ++ { a' with wantOwed := true } :: after } }) →
      ∀ ended : Prop, (ended ↔ a.appealTime + claimLifetime s ≤ s.coreMs) →
      (Unreadable s i →
        (a.appealed = false → exec (.appealTimerExpiry index) s = .next (withAllRead s)) ∧
        (a.appealed = true → ended → exec (.appealRearm index) s = .next (withAllRead s))) ∧
      (a.appealed = false → ¬ Unreadable s i → due = false →
        exec (.appealTimerExpiry index) s = .next { s with cnu := { s.cnu with appeals := before ++ after } }) ∧
      (a.appealed = false → ¬ Unreadable s i → due = true → exec (.appealTimerExpiry index) s = .next wanted) ∧
      (a.appealed = true → exec (.appealTimerExpiry index) s = .next s) ∧
      (a.appealed = false ∨ ¬ ended → exec (.appealRearm index) s = .next s) ∧
      (a.appealed = true → ended → ¬ Unreadable s i → due = false →
        exec (.appealRearm index) s = .next { s with cnu := { s.cnu with appeals := before ++ after } }) ∧
      (∀ delay, delay = appealRank s e * inForceOr s Settings.appealStep 0 → a.appealed = true → ended → ¬ Unreadable s i →
        due = true →
        exec (.appealRearm index) s = .next (
          if delay = 0 then wanted
          else { s with cnu := { s.cnu with
            appeals := before ++ { a with appealed := false, timer := some (s.coreMs + delay) } :: after } }))

/-- The beacon timer starts again and a BEACON is offered (R119); a PRESENT peer whose window ends is ABSENT, with PRESENCE
and a trigger (R117, R118); the settle period ends with a trigger (R82); and a scrub tick moves the balance up while an
entry can be scrubbed, raising SCRUB_LAG at +8 (R160). The end of a timer that is not running, or of a presence window that
is not over (R117, log 3), changes nothing (log 2). What the beacon source's offer makes of the Send Queue (R96, R119):
nothing while the queue is closed, SILENT or in DUP_ID; a BEACON held behind one in an attempt; one that waits already
replaced, having no contents of its own; and otherwise one enters behind the frames of lower or equal kind, or is skipped by
a full queue. -/
def Obligations.TimersAndBeaconOffers : Prop :=
  (∀ s, Powered s →
     (s.pbc.beaconTimer = none → exec .beaconTimerExpiry s = .next s) ∧
     (∀ cfg, s.ctc.inForce = some cfg → s.pbc.beaconTimer ≠ none →
       exec .beaconTimerExpiry s = .next (offerBeacon { s with pbc := { s.pbc with
         beaconTimer := some (s.coreMs + 1000 * cfg.beacon) } })) ∧
     (∀ id h, (peerAt s id).presence = .present → (peerAt s id).heardAt = some h → h + presenceWindow s ≤ s.coreMs →
       exec (.presenceWindowEnd id) s = .next (trigger { s with
         pbc := { s.pbc with peers := s.pbc.peers.set id.toNat { peerAt s id with presence := .absent } }
         evu := { s.evu with flags := s.evu.flags ||| 0x001000 } })) ∧
     (∀ id, (peerAt s id).presence ≠ .present ∨ (∀ h, (peerAt s id).heardAt = some h → s.coreMs < h + presenceWindow s) →
       exec (.presenceWindowEnd id) s = .next s) ∧
     (∀ d, s.rwk.settle = .until d →
       exec .settlePeriodEnd s = .next (trigger { s with rwk := { s.rwk with settle := .ended } })) ∧
     ((∀ d, s.rwk.settle ≠ .until d) → exec .settlePeriodEnd s = .next s) ∧
     (s.scs.tickTimer = none → exec .scrubTick s = .next s) ∧
     (∀ cfg scs, s.ctc.inForce = some cfg → s.scs.tickTimer ≠ none → scs = { s.scs with tickTimer := some (s.coreMs + 1000 * cfg.scrubTick) } →
       exec .scrubTick s = .next (mediaTail (
         if s.scs.scrubbable = 0 then { s with scs := scs }
         else if s.scs.balance < 8 then { s with scs := { scs with balance := s.scs.balance + 1 } }
         else { s with scs := scs, evu := { s.evu with flags := s.evu.flags ||| 0x000002 } })))) ∧
  (∀ s : State,
     (s.pbc.dupId = true ∨ s.pbc.confinement = .silent ∨ s.pbc.sendOpen = false → offerBeacon s = s) ∧
     (s.pbc.dupId = false → s.pbc.confinement ≠ .silent → s.pbc.sendOpen = true →
       ((∃ q ∈ s.pbc.sendQueue, q.content = .beacon ∧ q.inAttempt = true) →
         offerBeacon s = { s with pbc := { s.pbc with heldBeacon := true } }) ∧
       ((∃ q ∈ s.pbc.sendQueue, q.content = .beacon) → (∀ q ∈ s.pbc.sendQueue, q.content = .beacon → q.inAttempt = false) →
         offerBeacon s = s) ∧
       ((∀ q ∈ s.pbc.sendQueue, q.content ≠ .beacon) → 16 ≤ s.pbc.sendQueue.length → offerBeacon s = s) ∧
       ((∀ q ∈ s.pbc.sendQueue, q.content ≠ .beacon) → s.pbc.sendQueue.length < 16 →
         offerBeacon s = { s with pbc := { s.pbc with sendQueue := s.pbc.sendQueue ++ [{ content := .beacon }] } })))

/-! ### Time -/

/-- RT advances by one second and stays at 2^40 − 1 (R32). With core power, an invalid RT holds CLOCK raised (R34 <5>);
a valid one has BDT recomputed and, where the day boundary at or below it passes RF and every floor value being written,
a floor write begun (R41, R42, R43), but none in STORE FAULT (R44). The set S is own RT and, for each PRESENT and
USABLE peer, its stamp and the seconds since its reception, equal values kept (R40). Bounded time (R42): with fewer than Q
clocks in S it keeps its value; otherwise it is the greatest time not above own RT that Q of them have reached, and never
falls. A floor write completes: RF and its stored record take the written value and a refresh walk is triggered (R43,
R70); with none outstanding nothing happens (log 2). -/
def Obligations.TimeAndFloorAdvance : Prop :=
  (∀ s rt, rt = min 1099511627775 (s.rck.rt + 1) →
     (s.pins.power = .offKept → exec .rtAdvance s = .next { s with rck := { s.rck with rt := rt } }) ∧
     (s.pins.power = .offLost → exec .rtAdvance s = .next s) ∧
     (Powered s → s.rck.rtValid = false → exec .rtAdvance s = .next { s with
       rck := { s.rck with rt := rt }, evu := { s.evu with flags := s.evu.flags ||| 0x100000 } }) ∧
     (Powered s → s.rck.rtValid = true → s.ctc.inForce = none →
       exec .rtAdvance s = .next { s with rck := { s.rck with rt := rt } }) ∧
     (∀ cfg bdt day, Powered s → s.rck.rtValid = true → s.ctc.inForce = some cfg →
       bdt = boundedTime { s with rck := { s.rck with rt := rt } } cfg.q → day = bdt / 86400 * 86400 →
       exec .rtAdvance s = .next { s with rck := { s.rck with
         rt := rt, bdt := bdt
         floorWrites :=
           if s.ctc.node ≠ .storeFault ∧ s.rck.rf < day ∧ ∀ v ∈ s.rck.floorWrites, v < day then s.rck.floorWrites ++ [day]
           else s.rck.floorWrites } })) ∧
  (∀ (s : State) q clocks, 1 ≤ q →
     clocks = s.rck.rt :: (s.pbc.peers.filter fun p => decide (p.presence = .present) && decide (p.marker = .usable)).map
       (fun p => p.stamp.getD 0 + (s.rck.rt - p.localTime.getD 0)) →
     clockSet s = clocks ∧
     s.rck.bdt ≤ boundedTime s q ∧ boundedTime s q ≤ max s.rck.bdt s.rck.rt ∧
     (s.rck.bdt < boundedTime s q → q ≤ clocks.countP fun v => decide (boundedTime s q ≤ v)) ∧
     (∀ x, x ≤ s.rck.rt → q ≤ (clocks.countP fun v => decide (x ≤ v)) → x ≤ boundedTime s q)) ∧
  (∀ s : State, (s.rck.rtValid = false ∨ s.ctc.inForce = none → recomputeBdt s = s) ∧
     ∀ cfg bdt day, s.rck.rtValid = true → s.ctc.inForce = some cfg → bdt = boundedTime s cfg.q → day = bdt / 86400 * 86400 →
       recomputeBdt s = { s with rck := { s.rck with
         bdt := bdt
         floorWrites :=
           if s.ctc.node ≠ .storeFault ∧ s.rck.rf < day ∧ ∀ v ∈ s.rck.floorWrites, v < day then s.rck.floorWrites ++ [day]
           else s.rck.floorWrites } }) ∧
  (∀ s, Powered s →
     (s.rck.floorWrites = [] → exec .floorWriteComplete s = .next s) ∧
     (∀ v rest, s.rck.floorWrites = v :: rest →
       exec .floorWriteComplete s = .next (trigger { s with
         rck := { s.rck with rf := v, floorWrites := rest }, store := { s.store with rf := v } })))

/-! ### Walks and the store -/

/-- The load visit of a FREE entry without an owed DROP gives its index to the free-entry list (R30, R80 <2>); that of an
owed-free entry offers its DROP, and where it is taken the record is written free and its index is free (R2, R29, R80 <2>).
That of any other entry outside STORE FAULT (R30, R76, R80, R145 <3>) places its runs, raises its expiry, counts it for the
scrubber where it is RETAINED or RELEASABLE, reverts RELEASABLE under R75 and DISPOSING under R76, raising HOLD_LATE where
its erasing has begun, drops the refill of a DAMAGED one, resumes the VERIFY of a LODGING one and the ERASEs of one that
stays DISPOSING, and offers an announcement still owed; it writes the entry where it changed, and the walk waits for that
write. Otherwise the walk goes on to the next index, and after the last the node is RUNNING where MEDIA_READY is high, with
the refresh walk its end triggers while an entry is occupied (R14, R71, R81, log 27). With no load walk at a visit nothing
is read (log 2). -/
def Obligations.LoadVisitsReadTheStore : Prop :=
  ∀ s, Powered s →
    ((∀ i, s.rwk.walk ≠ some ⟨.load, i, none⟩) → Ends .loadVisit s (mediaTail s) []) ∧
    (∀ i e u, s.rwk.walk = some ⟨.load, i, none⟩ → i < 131072 → e = entryAt s i →
      u = { s with ctc := { s.ctc with loaded := i + 1 }, rwk := { s.rwk with walk := some ⟨.load, i + 1, none⟩ } } →
      (e.state = .free → e.owed ≠ .dropFrame →
        Ends .loadVisit s (mediaTail { u with ctc := { u.ctc with freeList := insertIndex i s.ctc.freeList } }) []) ∧
      (e.state = .free → e.owed = .dropFrame → canOffer s = false → Ends .loadVisit s (mediaTail u) []) ∧
      (e.state = .free → e.owed = .dropFrame → canOffer s = true → s.ctc.node ≠ .storeFault → catWf s.ctc.work = true →
        Ends .loadVisit s
          (mediaTail { u with
            rwk := { s.rwk with walk := some ⟨.load, i, some i⟩ }
            ctc := { u.ctc with
              work := catSet s.ctc.work i {}
              writes := s.ctc.writes ++ [{ index := i, entry := {}, effects := [.visitDone] }]
              freeList := insertIndex i s.ctc.freeList }
            pbc := { s.pbc with sendQueue := (insertSend
              { content := .frame (.drop e.shortKey .disposed), producer := .announcement i false } s.pbc.sendQueue) } }) []) ∧
      (e.state = .retained → e.owed = .nothing → expiryOf e.lodgeTime (periodInForce s e.cls) ≤ e.expiry →
        Ends .loadVisit s
          (mediaTail { u with
            exg := { s.exg with
              runs := e.extents.foldl (fun runs x => insertRun ⟨x.first, x.count, i, .entry⟩ runs) s.exg.runs
              loadedEnd := e.extents.foldl (fun m x => max m (x.first + x.count)) s.exg.loadedEnd }
            scs := { s.scs with scrubbable := s.scs.scrubbable + 1 } }) []) ∧
      (e.state ≠ .free → s.ctc.node ≠ .storeFault → s.ctc.loadStopped = false →
        ∀ n expiry st (again : Bool), n = (if e.state = .disposing then holdsOn s e.cust else e.holdCount) →
          expiry = max e.expiry (expiryOf e.lodgeTime (periodInForce s e.cls)) →
          st = (if e.state = .releasable ∧ s.rck.rf < expiry ∨ e.state = .disposing ∧ 0 < n ∧ e.eraseBegun = false then
            EntryState.retained else e.state) →
          (again = true ↔ canOffer s = true ∧ e.owed ≠ .nothing ∧ (e.owed = .haveFrame → ∀ p ∈ s.ctc.work,
            p.2.state = .free → p.2.owed = .dropFrame → p.2.shortKey ≠ e.shortKey)) →
          ∀ (e' : Entry) (late : Bool) (v : State), e' = { e with
              holdCount := n, expiry := expiry, state := st
              refill := if e.state = .damaged then none else e.refill
              owed := if again then .nothing else e.owed } →
            late = (decide (st = .disposing) && decide (0 < n) && e.eraseBegun) →
            v = { s with
              ctc := { s.ctc with loaded := i + 1, holdLateKey := if late then some e.shortKey else s.ctc.holdLateKey }
              evu := { s.evu with flags := if late then s.evu.flags ||| 0x040000 else s.evu.flags }
              exg := { s.exg with
                runs := e.extents.foldl (fun runs x => insertRun ⟨x.first, x.count, i, .entry⟩ runs) s.exg.runs
                loadedEnd := e.extents.foldl (fun m x => max m (x.first + x.count)) s.exg.loadedEnd }
              scs := { s.scs with scrubbable :=
                if st = .retained ∨ st = .releasable then s.scs.scrubbable + 1 else s.scs.scrubbable }
              mar := (match st with
                | .lodging => { s.mar with verifies := s.mar.verifies ++ [⟨i, false, e.extents, e.fullKey, 0, none⟩] }
                | .disposing => { s.mar with
                  erases := insertErases (e.extents.map fun x => ⟨i, x, s.mar.disposeSeq⟩) s.mar.disposeSeq s.mar.erases
                  disposeSeq := s.mar.disposeSeq + 1 }
                | _ => s.mar)
              pbc := { s.pbc with sendQueue := (
                if again then
                  insertSend { content := .frame (owedFrame e), producer := .announcement i false } s.pbc.sendQueue
                else s.pbc.sendQueue) } } →
            (e' = e →
              Ends .loadVisit s (mediaTail { v with rwk := { s.rwk with walk := some ⟨.load, i + 1, none⟩ } }) []) ∧
            (e' ≠ e →
              Ends .loadVisit s
                (mediaTail { v with
                  rwk := { s.rwk with walk := some ⟨.load, i, some i⟩ }
                  ctc := { v.ctc with
                    work := catSet s.ctc.work i e'
                    writes := s.ctc.writes ++ [{
                      index := i, entry := e', effects := [.visitDone]
                      hit := if st = e.state ∧ n = e.holdCount then none
                        else some ⟨e.shortKey, { state := decide (e.state ≠ st), holdCount := decide (e.holdCount ≠ n) }, i, st,
                          n, e.holders⟩ }] } }) [])) ∧
      (e.state = .free → e.owed ≠ .dropFrame → i = 131071 → s.ctc.node = .loading →
        Runs .loadVisit s fun t => t.rwk.loadEnded = true ∧ t.rwk.pendingWalk = false ∧
          ((∃ p ∈ s.ctc.work, p.2.state ≠ .free) → t.rwk.walk = some ⟨.refresh s.hdu.epoch, 0, none⟩) ∧
          ((∀ p ∈ s.ctc.work, p.2.state = .free) → t.rwk.walk = none) ∧
          t.ctc.node = (if s.pins.mediaReady then .running else .loading) ∧
          t.scs.tickTimer = some (s.coreMs + 1000 * inForceOr s Settings.scrubTick 1)))

/-- What a refresh visit makes of the entry it visits (R73 to R79): the lowest non-FREE index at or above the walk's
next one, its hold count afresh and its expiry raised by the formula (not in STORE FAULT); RETAINED becomes RELEASABLE
under R74, RELEASABLE reverts under R75, DISPOSING under R76. Every other entry stays. Where the entry changed, and no STORE
FAULT stands, its write begins and the walk waits for it, with the index visited as its next one (log 41); what follows the
write is the RELEASABLE notice and, after the settle period, the hand-over of a short and eligible entry to CNU (R78). A
visit without a write hands it over at once, and the walk moves on: to the index above, or to its end (R71, R72). With no
refresh walk at a visit nothing is read (log 2). -/
def Obligations.RefreshVisitsJudgeEntries : Prop :=
  ∀ s, Powered s → catWf s.ctc.work = true →
    ((∀ k i, s.rwk.walk ≠ some ⟨.refresh k, i, none⟩) → Ends .refreshVisit s (mediaTail s) []) ∧
    (∀ epoch low before i e after, s.rwk.walk = some ⟨.refresh epoch, low, none⟩ →
      s.ctc.work = before ++ (i, e) :: after → low ≤ i → e.state ≠ .free →
      (∀ p ∈ before, p.1 < low ∨ p.2.state = .free) →
      ∀ n expiry st, n = holdsOn s e.cust →
        expiry = (if s.ctc.node = .storeFault then e.expiry else max e.expiry (expiryOf e.lodgeTime (periodInForce s e.cls))) →
        st = (if s.ctc.node = .storeFault then e.state
          else if e.state = .retained ∧ expiry ≤ s.rck.rf ∧ n = 0 ∧ doubtStands s = false ∧ s.hdu.epoch = epoch then .releasable
          else if e.state = .releasable ∧ (0 < n ∨ s.rck.rf < expiry) then .retained
          else if e.state = .disposing ∧ 0 < n ∧ e.eraseBegun = false then .retained
          else e.state) →
        ∀ (e' : Entry) (handed : Bool) (x : State), e' = { e with holdCount := n, expiry := expiry, state := st } →
          (handed = true ↔ liveHolders s e' < copyTarget s ∧ (st = .retained ∨ st = .releasable) ∧
            (s.rck.rf < expiry ∨ 0 < n) ∧ s.rwk.settle = .ended) →
          x = { s with ctc := { s.ctc with work := catSet s.ctc.work i e' } } →
          Runs .refreshVisit s fun t =>
            (∃ begun, entryAt t i = { e' with eraseBegun := begun } ∧ (begun = e.eraseBegun ∨ begun = true)) ∧
            (∀ j, j ≠ i → { entryAt t j with eraseBegun := (entryAt s j).eraseBegun } = entryAt s j) ∧
            (s.ctc.node ≠ .storeFault → e' ≠ e →
              t.rwk.walk = some ⟨.refresh epoch, i, some i⟩ ∧ (t.cnu, t.pbc) = (s.cnu, s.pbc) ∧
              ∃ w ∈ t.ctc.writes, w.index = i ∧ w.entry = e' ∧
                w.effects = (if e.state = .retained ∧ st = .releasable then [.releasableNotice] else []) ++
                  (if handed then [.census] else []) ++ [.visitDone]) ∧
            (s.ctc.node = .storeFault ∨ e' = e →
              ((∃ p ∈ after, p.2.state ≠ .free) →
                t.rwk.walk = some ⟨.refresh epoch, i + 1, none⟩ ∧ t.rwk.pendingWalk = s.rwk.pendingWalk) ∧
              ((∀ p ∈ after, p.2.state = .free) →
                t.rwk.walk = (if s.rwk.pendingWalk then some ⟨.refresh s.hdu.epoch, 0, none⟩ else none) ∧
                t.rwk.pendingWalk = false) ∧
              (t.cnu, t.pbc) = (if handed then ((handedToCnu i e' x).cnu, (handedToCnu i e' x).pbc) else (s.cnu, s.pbc))) ∧
            (e.state = .disposing → st = .retained → ∀ y ∈ t.mar.erases, y.index ≠ i) ∧
            (e.state = .disposing → 0 < n → e.eraseBegun = true →
              t.ctc.holdLateKey = some e.shortKey ∧ t.evu.flags.getLsbD 18 = true) ∧
            (t.store, t.hdu, t.rck, t.pins, t.exg) = (s.store, s.hdu, s.rck, s.pins, s.exg))

/-- A write of an entry completes (R9, R10, R13): the stored record and high-water take it, a watch hit is recorded (R191),
what its change brings outside the entry follows, effect by effect, and the LOOKUPs that waited for it are answered with the
record it leaves (R180, log 17). With no write outstanding nothing happens (log 2). A hit is recorded where its key is the
watch key: a record with RT and its validity, which a ninth overwrites the oldest for, and WATCH_HIT raised (R191). The effects: an answer; the VERIFY of
the extents or of the refill's (R18, R23); the ERASEs, one for each extent, in the order of the DISPOSEs (R26 <3>, R149),
unless the entry is DISPOSING no longer (log 29); the release of the granted ERASE (R26 <5>); the freeing, where the runs
and the appeal go and the index is free at once or, its DROP not taken, owes it (R2, R28, R29); the refill's extents in
place of the old ones, or gone (R24, R143); a HAVE or a DROP for damage, taken or owed (R29); the hand-over to CNU (R126,
`handedToCnu`); the re-check after a DROP
(R123, log 53); the notices and events of R74 and R164 (log 46); a repair HAVE (R130); and the end of a visit (R72). -/
def Obligations.EntryWritesComplete : Prop :=
  (∀ s : State, recordHit none s = s ∧ ∀ hit : Hit,
    (s.sli.watchKey ≠ some hit.key → recordHit (some hit) s = s) ∧
    (∀ log flags, s.sli.watchKey = some hit.key → flags = s.evu.flags ||| 0x000020 →
      (log = s.sli.watchLog ∧ log.length < 8 ∨ ∃ oldest, s.sli.watchLog = oldest :: log ∧ log.length = 7) →
      recordHit (some hit) s = { s with
        sli := { s.sli with watchLog := log ++ [⟨s.rck.rt, s.rck.rtValid, hit⟩] }, evu := { s.evu with flags := flags } })) ∧
  (∀ index s, Powered s →
    ((∀ w ∈ s.ctc.writes, w.index ≠ index.toNat) → exec (.entryWriteComplete index) s = .next s) ∧
    (∀ before w after u, s.ctc.writes = before ++ w :: after → w.index = index.toNat →
      (∀ x ∈ before, x.index ≠ index.toNat) →
      u = recordHit w.hit { s with
        ctc := { s.ctc with writes := before ++ after }
        store := { s.store with
          entries := catSet s.store.entries index.toNat w.entry
          highWater := max s.store.highWater (w.highWater.getD 0) } } →
      Ends (.entryWriteComplete index) s (mediaTail (runEffects index.toNat w.entry w.effects u))
        (w.effects.filterMap effectAnswer ++ w.lookups.map (lookupReply index.toNat w.entry)))) ∧
  (∀ i written s, ∀ ran : Effect → State, (∀ f, ran f = runEffect i written s f) → ∀ e, e = entryAt s i →
    (∀ r o res, { ran (.answer r o res) with rli := s.rli } = s ∧
      { (ran (.answer r o res)).rli with answers := s.rli.answers } = s.rli) ∧
    -- the media port
    (∀ refill k req, ran (.queueVerify refill k req) = { s with mar := { s.mar with
      verifies := s.mar.verifies ++
        [⟨i, refill, if refill then written.refill.getD [] else written.extents, written.fullKey, k, req⟩] } }) ∧
    (∀ order before after, s.mar.erases = before ++ after → (∀ w ∈ before, w.order ≤ order) →
      (∀ w ∈ after, order < w.order) →
      ((e.state = .disposing ∧ ∀ w ∈ s.ctc.writes, w.index = i → w.entry.state = .disposing) →
        ran (.queueErases order) = { s with mar := { s.mar with
          erases := before ++ written.extents.map (fun x => ⟨i, x, order⟩) ++ after } }) ∧
      ((e.state ≠ .disposing ∨ ∃ w ∈ s.ctc.writes, w.index = i ∧ w.entry.state ≠ .disposing) →
        ran (.queueErases order) = s)) ∧
    (s.mar.grantedErase = none → ran .releaseErase = s) ∧
    (∀ x, s.mar.grantedErase = some x →
      ran .releaseErase = { s with mar := { s.mar with
        grantedErase := none, issueTag := s.mar.issueTag + 1, inFlight := some ⟨s.mar.issueTag + 1, .erase x⟩
        timer := some (s.coreMs + 1000 * inForceOr s Settings.mediaTimeout 1) } }) ∧
    -- the Extent Map
    (∀ old new others,
      s.exg.runs.Perm (old.map (fun x : Extent => Run.mk x.first x.count i .entry) ++
        new.map (fun x : Extent => Run.mk x.first x.count i .refill) ++ others) →
      { ran (.refillTaken old new) with exg := { (ran (.refillTaken old new)).exg with runs := s.exg.runs } } = s ∧
      (ran (.refillTaken old new)).exg.runs.Perm (new.map (fun x => Run.mk x.first x.count i .entry) ++ others)) ∧
    (∀ es others, s.exg.runs.Perm (es.map (fun x : Extent => Run.mk x.first x.count i .refill) ++ others) →
      { ran (.refillDropped es) with exg := { (ran (.refillDropped es)).exg with runs := s.exg.runs } } = s ∧
      (ran (.refillDropped es)).exg.runs.Perm others) ∧
    -- the Send Queue and the free-entry list
    (∀ queue : List SendItem, queue = s.pbc.sendQueue.map (fun q => match q.producer with
        | .announcement j _ => if j = i then { q with producer := .announcement j true } else q
        | _ => q) →
      (∀ effect frame (taken : Bool) owed (x : State), e.state ≠ .free →
        (effect = .announceHave ∧ frame = .haveCopy e.shortKey e.lodgeTime e.cls ∧
            owed = (if taken then Owed.nothing else .haveFrame) ∧
            (taken = true ↔ canOffer s = true ∧ ∀ p ∈ s.ctc.work, (s.ctc.loadStopped = true → p.1 < s.ctc.loaded) →
              p.2.state = .free → p.2.owed = .dropFrame → p.2.shortKey ≠ e.shortKey)) ∨
          (effect = .announceDamaged ∧ frame = .drop e.shortKey .damaged ∧
            owed = (if taken then Owed.nothing else .dropFrame) ∧ taken = canOffer s) →
        x = { s with pbc := { s.pbc with sendQueue :=
          (if taken then insertSend { content := .frame frame, producer := .announcement i false } queue else queue) } } →
        (e.owed = owed → ran effect = x) ∧
        (e.owed ≠ owed → ran effect = { x with ctc := { s.ctc with
          work := catSet s.ctc.work i { e with owed := owed }
          writes := if s.ctc.node = .storeFault then s.ctc.writes
            else s.ctc.writes ++ [{ index := i, entry := { e with owed := owed } }] } })) ∧
      (∀ key (drop : Bool) (x : State), e = {} →
        x = { s with
          exg := { s.exg with runs := s.exg.runs.filter fun r => decide (r.owner ≠ i) }
          cnu := { s.cnu with appeals := s.cnu.appeals.filter fun a => decide (a.index ≠ i) }
          ctc := { s.ctc with eraseDone := s.ctc.eraseDone.filter fun p => decide (p.1 ≠ i) } } →
        (drop = false → ran (.freed key drop) =
          { x with ctc := { x.ctc with freeList := insertIndex i s.ctc.freeList } }) ∧
        (drop = true → canOffer s = true → ran (.freed key drop) = { x with
          ctc := { x.ctc with freeList := insertIndex i s.ctc.freeList }
          pbc := { s.pbc with sendQueue := (insertSend
            { content := .frame (.drop key .disposed), producer := .announcement i false } queue) } }) ∧
        (drop = true → canOffer s = false → ran (.freed key drop) = { x with
          ctc := { x.ctc with
            freeList := s.ctc.freeList.erase i
            work := catSet s.ctc.work i { shortKey := key, owed := .dropFrame }
            writes := if s.ctc.node = .storeFault then s.ctc.writes
              else s.ctc.writes ++ [{ index := i, entry := { shortKey := key, owed := .dropFrame } }] }
          pbc := { s.pbc with sendQueue := queue } }))) ∧
    -- CNU
    ran .census = handedToCnu i e s ∧
    ran .recheck = handedToCnu i e (testedByCnu i e s) ∧
    (¬ ScrubbableAt s i → ran .repairHave = s) ∧
    (ScrubbableAt s i → canOffer s = true → ran .repairHave = { s with pbc := { s.pbc with sendQueue := (insertSend
      { content := .frame (.haveCopy e.shortKey e.lodgeTime e.cls), producer := .repair i } s.pbc.sendQueue) } }) ∧
    (ScrubbableAt s i → canOffer s = false → ran .repairHave = { s with cnu := { s.cnu with
      repairs := if i ∈ s.cnu.repairs ∨ 16 ≤ s.cnu.repairs.length then s.cnu.repairs else s.cnu.repairs ++ [i] } }) ∧
    -- notices and walks
    (∀ effect flags notices, s.rli.notices.length ≤ 32 →
      (effect, flags, notices) = (.releasableNotice, (0x400000 : EventMask), [Notice.releasable i e.shortKey]) ∨
        (effect, flags, notices) = (.damagedNotices, (0x200000 : EventMask), [.damaged i e.shortKey,
          .fetchRefill i e.shortKey e.lodgeTime e.cls e.cust (extentsSize e.extents) e.holders]) →
      (ran effect).rli.notices = (s.rli.notices ++ notices).take 32 ∧
      { (ran effect).rli with notices := s.rli.notices, noticeStamp := s.rli.noticeStamp } = s.rli ∧
      { ran effect with rli := s.rli } = { s with evu := { s.evu with flags := s.evu.flags ||| flags } }) ∧
    ran .visitDone = { s with rwk := { s.rwk with walk := s.rwk.walk.map fun w => { w with next := i + 1, visiting := none } } })

/-- A failed write that is outstanding, or a failed read of an entry, brings STORE FAULT (R11, R12): the event is raised, no
write stays outstanding, the requests that needed one are answered STORE_FAULT, a granted ERASE is back at the head of its
queue (R152), MEDIA_SLEEP is low (R170) and no entry, hold, clock or frame changes; a record that could not be read is
passed over by the next action that needs it (log 48), and a load walk whose own visit it is not goes on (log 50); what
becomes of the work that waited is read from R11 and R12 (log 6). In STORE FAULT already, a failed write changes nothing of
CTC. A failed read of a reset (R11, R44, R68, R85, R117, R159; that it arrives as a command before START is the model's
choice, log 35): the node is in STORE FAULT, and 1 Mbit/s, floors of 0 (both after one failed read, log 13), an empty slot
or cursor 0 stand for what could not be read. A failed read of a load visit stops the load walk for good (R81). A failed
read of the dispatch of a frame passes it over: the frame leaves the Receive FIFO and no entry changes, while CNU's own
lists take a HAVE or DROP (log 48). A failed write with nothing outstanding is no event (log 2). -/
def Obligations.FailedStoreAccesses : Prop :=
  (∀ c s, Powered s → s.ctc.node ≠ .storeFault →
     (∃ i : BitVec 17, c = .storeWriteFailed (.entry i) ∧ ∃ w ∈ s.ctc.writes, w.index = i.toNat) ∨
       (∃ i : BitVec 6, c = .storeWriteFailed (.holdSlot i) ∧ s.store.header = true ∧ ∃ w ∈ s.hdu.writes, w.slot = i.toNat) ∨
       (c = .storeWriteFailed .floor ∧ s.rck.floorWrites ≠ []) ∨ (c = .storeWriteFailed .cursor ∧ s.scs.cursorWrites ≠ []) ∨
       (c = .storeWriteFailed .start ∧ s.rli.starting ≠ none) ∨ (∃ i : BitVec 17, c = .storeReadFailed (.entry i)) →
     Runs c s fun t =>
       t.ctc.node = .storeFault ∧ t.evu.flags.getLsbD 17 = true ∧ t.ctc.writes = [] ∧ t.hdu.writes = [] ∧
       t.rck.floorWrites = [] ∧ t.scs.cursorWrites = [] ∧ t.rli.starting = none ∧ t.scs.waitingDormant = none ∧
       t.scs.wake = none ∧ t.scs.mediaSleep = false ∧ t.mar.grantedErase = none ∧
       t.mar.erases = s.mar.grantedErase.toList ++ s.mar.erases ∧ t.ctc.work = s.ctc.work ∧
       (∀ i : BitVec 17, c = .storeReadFailed (.entry i) → t.ctc.unread = i.toNat :: s.ctc.unread) ∧
       (∀ i, s.rwk.walk = some ⟨.load, i, none⟩ → i < 131072 → t.rwk = s.rwk ∧ t.ctc.loadStopped = s.ctc.loadStopped) ∧
       (∀ st, s.rli.starting = some st → Answered t st.req .storeFault .none) ∧
       (∀ r, s.scs.waitingDormant = some r ∨ s.scs.wake = some r → Answered t r .storeFault .none) ∧
       (∀ w ∈ s.ctc.writes, ∀ r, (∃ o res, Effect.answer r o res ∈ w.effects) ∨ (∃ b k, Effect.queueVerify b k (some r) ∈ w.effects) →
         Answered t r .storeFault .none) ∧
       (∀ w ∈ s.hdu.writes, ∀ r, w.purpose = .placed r ∨ w.purpose = .lifted r ∨ r ∈ w.waiters →
         Answered t r .storeFault .none) ∧
       { t.rck with floorWrites := s.rck.floorWrites } = s.rck ∧ t.pbc = s.pbc ∧ t.cnu = s.cnu ∧ t.exg = s.exg ∧
       t.pins = s.pins ∧ t.hdu.lifted = s.hdu.lifted ∧ t.hdu.epoch = s.hdu.epoch ∧ t.hdu.doubt = s.hdu.doubt ∧
       (∀ i, (slotAt t i).map HoldSlot.hold = (slotAt s i).map HoldSlot.hold)) ∧
  (∀ record s, Powered s →
     (writeOutstanding s record = false → exec (.storeWriteFailed record) s = .next s) ∧
     (s.ctc.inForce = none → s.ctc.node = .awaitingStart →
       (Runs (.storeReadFailed .header) s fun t => t.ctc.node = .storeFault ∧ t.rck = { s.rck with floorWrites := [] }) ∧
       (Runs (.storeReadFailed .settings) s fun t =>
         t.ctc.node = .storeFault ∧ t.ctc.settingsRead = none ∧ t.pbc = { s.pbc with bitRate := 1 }) ∧
       (Runs (.storeReadFailed .floor) s fun t =>
         t.ctc.node = .storeFault ∧ t.rck = { s.rck with rf := 0, bdt := 0, floorWrites := [] } ∧ t.ctc.highWater = 0) ∧
       (Runs (.storeReadFailed .highWater) s fun t =>
         t.ctc.node = .storeFault ∧ t.rck = { s.rck with rf := 0, bdt := 0, floorWrites := [] } ∧ t.ctc.highWater = 0) ∧
       (Runs (.storeReadFailed .cursor) s fun t => t.ctc.node = .storeFault ∧ t.scs.cursor = 0) ∧
       (∀ i : BitVec 6, s.hdu.writes = [] → (slotAt s i.toNat).map HoldSlot.hold = s.store.holds.getD i.toNat none →
         Runs (.storeReadFailed (.holdSlot i)) s fun t => t.ctc.node = .storeFault ∧ slotAt t i.toNat = none)) ∧
     (∀ i : BitVec 17, s.ctc.node = .storeFault → Ends (.storeReadFailed (.entry i)) s
       (mediaTail { s with ctc := { s.ctc with unread := i.toNat :: s.ctc.unread } }) []) ∧
     (∀ i, s.rwk.walk = some ⟨.load, i, none⟩ → i < 131072 → s.ctc.node = .loading →
       Runs (.storeReadFailed .loadVisit) s fun t =>
         t.ctc.node = .storeFault ∧ t.rwk.walk = none ∧ t.rwk.pendingWalk = false ∧ t.ctc.loadStopped = true ∧
           t.ctc.loaded = s.ctc.loaded ∧ t.exg = s.exg) ∧
     (∀ epoch low before i e after, s.rwk.walk = some ⟨.refresh epoch, low, none⟩ → s.ctc.node ≠ .storeFault →
       s.ctc.work = before ++ (i, e) :: after → low ≤ i → e.state ≠ .free →
       (∀ p ∈ before, p.1 < low ∨ p.2.state = .free) → (∃ p ∈ after, i < p.1 ∧ p.2.state ≠ .free) →
       Runs (.storeReadFailed .refreshVisit) s fun t =>
         t.ctc.node = .storeFault ∧ t.rwk.walk = some ⟨.refresh epoch, i + 1, none⟩ ∧ t.ctc.work = s.ctc.work) ∧
     (∀ sender f rest, s.pbc.rxFifo = ⟨sender, f⟩ :: rest →
       ∀ passed : State → Prop, (∀ t, passed t ↔ t.ctc.node = .storeFault ∧ t.pbc = { s.pbc with rxFifo := rest } ∧
         t.ctc.work = s.ctc.work ∧ t.ctc.writes = (if s.ctc.node = .storeFault then s.ctc.writes else []) ∧
         t.cnu = { s.cnu with claims := t.cnu.claims, candidates := t.cnu.candidates }) →
         match f with
         | .haveCopy key _ _ => Runs (.storeReadFailed .dispatch) s fun t => passed t ∧ HaveAtLists key sender s t
         | .drop key reason => Runs (.storeReadFailed .dispatch) s fun t => passed t ∧ DropAtLists key reason sender s t
         | .want _ => Runs (.storeReadFailed .dispatch) s fun t => passed t ∧ t.cnu = s.cnu
         | _ => Ends (.storeReadFailed .dispatch) s (mediaTail s) []) ∧
     (s.pbc.rxFifo = [] → Ends (.storeReadFailed .dispatch) s (mediaTail s) []))

/-! ### DORMANT, WAKE and the service line -/

/-- DORMANT (R167 to R169): its checks in order; with no scrub in flight the node is DORMANT at once with MEDIA_SLEEP
high; with one, the request waits for it, or aborts it where the settings say so. WAKE (R171, R172): answered DONE in
RUNNING, BUSY in WAKING and STORE_FAULT in STORE FAULT; in DORMANT the node is WAKING with MEDIA_SLEEP low and a scrub
owed where an entry can be scrubbed, and RUNNING at once where MEDIA_READY is high. -/
def Obligations.DormantAndWake : Prop :=
  (∀ tag s, Accepting s tag →
     ∀ c r, c = Instr.dormant tag → r = (⟨tag, 0x0F⟩ : Req) →
       if s.ctc.node = .awaitingStart ∨ s.ctc.node = .loading then Refuses c s r .notReady (.node s.ctc.node)
       else if s.ctc.node = .dormant ∨ s.ctc.node = .waking then Refuses c s r .notNow (.node s.ctc.node)
       else if s.ctc.node = .storeFault then Refuses c s r .storeFault .none
       else if (∃ p ∈ s.ctc.work, p.2.state = .lodging ∨ p.2.refill ≠ none) ∨ s.mar.erases ≠ [] ∨ s.mar.grantedErase ≠ none ∨
           s.mar.gated ≠ [] ∨ s.cnu.claims ≠ [] ∨ s.scs.waitingDormant ≠ none then Refuses c s r .busy .none
       else
         (∀ f, s.mar.inFlight = some f → (∀ v, f.cmd ≠ .verify v) → (∀ i es key, f.cmd ≠ .scrub i es key) →
           Refuses c s r .busy .none) ∧
         (s.scs.owed = true → (s.mar.inFlight = none ∨ ∃ n i es key, s.mar.inFlight = some ⟨n, .scrub i es key⟩) →
           Refuses c s r .scrubOwed .none) ∧
         (s.scs.owed = false → s.mar.inFlight = none →
           Answers c s r .done .none (mediaTail { s with
             ctc := { s.ctc with node := .dormant }
             scs := { s.scs with mediaSleep := true, request := none, waitingDormant := none } })) ∧
         (∀ n i es key, s.scs.owed = false → s.mar.inFlight = some ⟨n, .scrub i es key⟩ →
           (inForceOr s Settings.scrubAbort false = false →
             Takes c s r (mediaTail { s with scs := { s.scs with waitingDormant := some r, request := none } })) ∧
           (inForceOr s Settings.scrubAbort false = true →
             Answers c s r .done .none (mediaTail { s with
               ctc := { s.ctc with node := .dormant }
               mar := { s.mar with inFlight := none, timer := none }
               pins := { s.pins with mediaAborts := s.pins.mediaAborts + 1 }
               scs := { s.scs with mediaSleep := true, request := none, waitingDormant := none } })))) ∧
  (∀ tag s, Accepting s tag →
     ∀ c r, c = Instr.wake tag → r = (⟨tag, 0x10⟩ : Req) →
       if s.ctc.node = .awaitingStart ∨ s.ctc.node = .loading then Refuses c s r .notReady (.node s.ctc.node)
       else if s.ctc.node = .running then Refuses c s r .done .none
       else if s.ctc.node = .waking then Refuses c s r .busy .none
       else if s.ctc.node = .storeFault then Refuses c s r .storeFault .none
       else if s.pins.mediaReady = false then
         Takes c s r (mediaTail { s with
           ctc := { s.ctc with node := .waking }
           scs := { s.scs with mediaSleep := false, owed := decide (0 < s.scs.scrubbable), wake := some r } })
       else
         Answers c s r .done .none (mediaTail { s with
           ctc := { s.ctc with node := .running }
           scs := { s.scs with mediaSleep := false, owed := decide (0 < s.scs.scrubbable), wake := none } }))

/-- The service line (R188 to R191): each command answers from the blocks as they stand, in every node state, and changes
nothing but SLI. INSPECT STATUS shows each block's registers as they stand (`BlockShows`, `InspectionShows`). An answer about
an entry is CHANGING exactly in STORE FAULT, while a write of the index is outstanding, or while a walk visits it (R189); of a
FREE entry it shows the state alone, or the short key and the owed DROP of an owed-free one (R190 <3>, R193 <3>). With SVC_EN
low, or while an answer is being sent, a command is ignored. While the load walk runs, the indices below its next one are
reported (R190). The model's choices: CHANGING is clear in answers without a record, and INSPECT KEY searches the records as
SLI reports them (log 26), slots are reported as R189 says (log 40), and of two outstanding floor values the later is shown
(log 37). -/
def Obligations.ServiceCommandsInspect : Prop :=
  ∀ s, Powered s →
    (∀ c, isServiceCommand c = true → s.pins.svcEn = false ∨ s.sli.answer ≠ none → exec c s = .next s) ∧
    exec .serviceAnswerSent s = .next { s with sli := { s.sli with answer := none } } ∧
    (s.pins.svcEn = true → s.sli.answer = none →
      ∀ answered : Bool → Reply → SvcBody → State, (∀ ch o b, answered ch o b =
        { s with sli := { s.sli with answer := some ⟨ch, s.evu.flags.getLsbD 5, s.ctc.node, o, b⟩ } }) →
      ∀ limit, limit = (match s.rwk.walk with | some ⟨.load, i, _⟩ => i | _ => s.ctc.loaded) →
      ∀ changing : Nat → Bool, (∀ i, changing i = true ↔ s.ctc.node = .storeFault ∨ (∃ w ∈ s.ctc.writes, w.index = i) ∨
        ∃ w, s.rwk.walk = some w ∧ w.visiting = some i) →
      ∀ shown : Entry → Entry, (∀ e, shown e = if e.state ≠ .free then e
        else if e.owed = .dropFrame then { shortKey := e.shortKey, owed := .dropFrame } else {}) →
      (∀ b r, BlockShows s b → InspectionShows s r → exec .inspectStatus s = .next (answered false .done (.status b r))) ∧
      exec .inspectClock s = .next (answered (!s.rck.floorWrites.isEmpty) .done (.clock
        ⟨s.rck.rt, s.rck.rtValid, s.rck.bdt, s.rck.rf, s.rck.floorWrites.getLast?, lastKnown s, s.ctc.highWater,
          s.ctc.inForce.map fun c => (c.q, c.skew)⟩)) ∧
      (∀ index : BitVec 24, exec (.inspectEntry index) s = .next (
        if 131071 < index.toNat then answered false .badField .empty
        else if limit ≤ index.toNat then answered false .notReady .empty
        else answered (changing index.toNat) .done
          (.entry index.toNat (shown (catGet (if s.ctc.node = .storeFault then s.ctc.work else s.store.entries) index.toNat))))) ∧
      (∀ key, exec (.inspectKey key) s = .next (
        match ((if s.ctc.node = .storeFault then s.ctc.work else s.store.entries).find?
            fun p => decide (p.1 < limit) && decide (p.2.state ≠ .free) && decide (p.2.shortKey = key)) with
        | some p => answered (changing p.1) .done
            (.entry p.1 (shown (catGet (if s.ctc.node = .storeFault then s.ctc.work else s.store.entries) p.1)))
        | none => answered false (if limit < 131072 then .notReady else .unknownKey) .empty)) ∧
      (∀ slot : Byte, exec (.inspectHold slot) s = .next (
        if 64 ≤ slot.toNat then answered false .badField .empty
        else answered (decide (s.ctc.node = .storeFault) || s.hdu.writes.any fun w => decide (w.slot = slot.toNat)) .done
          (.slot (if s.ctc.node = .storeFault then slotAt s slot.toNat
            else match s.store.holds.getD slot.toNat none with
              | none => none
              | some h => some (match slotAt s slot.toNat with
                | some w => ⟨h, w.lifting, w.heard, w.sendOwed⟩
                | none => ⟨h, false, false, false⟩))))) ∧
      (∀ id : Byte, exec (.inspectPeer id) s = .next (
        if 16 ≤ id.toNat then answered false .badField .empty
        else answered false .done (.peer (s.pbc.peers.getD id.toNat {})
          ((s.pbc.peers.getD id.toNat {}).heardAt.map fun h => s.coreMs - h)))) ∧
      (∀ key, exec (.setWatch key) s = .next { s with sli := ⟨some key, [],
        some ⟨false, s.evu.flags.getLsbD 5, s.ctc.node, .done, .empty⟩⟩ }) ∧
      exec .clearWatch s = .next { s with sli := ⟨none, [],
        some ⟨false, s.evu.flags.getLsbD 5, s.ctc.node, .done, .empty⟩⟩ })

/-- Raw frames (R173, R188, 12.3, 12.4; that a good one runs as what it spells is the model's choice, log 10): a bad
check or a cut leaves the part as it was; a request of unknown kind, or with operands of a wrong length, is answered
BAD_FIELD at once under its tag; an unknown service command is answered BAD_FIELD on the service line. -/
def Obligations.RawFramesAreRead : Prop :=
  ∀ bytes s, Powered s →
    (readLinkFrame bytes = .discard → exec (.unknownRequestFrame bytes) s = .next s) ∧
    (∀ tag kind, readLinkFrame bytes = .badField tag kind →
      tag ≠ 0 ∧ Ends (.unknownRequestFrame bytes) s s [⟨⟨tag, kind⟩, false, .badField, .none⟩]) ∧
    (∀ i, readLinkFrame bytes = .request i → exec (.unknownRequestFrame bytes) s = exec i s ∧ (requestOfCommand i).isSome = true) ∧
    (readSvcFrame bytes = .discard → exec (.unknownServiceCommand bytes) s = .next s) ∧
    (readSvcFrame bytes = .badField → s.pins.svcEn = true → s.sli.answer = none →
      exec (.unknownServiceCommand bytes) s = .next { s with sli := { s.sli with
        answer := some ⟨false, s.evu.flags.getLsbD 5, s.ctc.node, .badField, .empty⟩ } }) ∧
    (∀ i, readSvcFrame bytes = .command i → exec (.unknownServiceCommand bytes) s = exec i s ∧ isServiceCommand i = true)

/-! ### Laws of the part that every step keeps -/

/-- Only a refresh visit makes an entry RELEASABLE, and only a RETAINED one whose expiry RF has reached, on which no
hold of the whole table matches, while no hold doubt stands, in a walk whose start epoch is still the hold epoch and
outside STORE FAULT (R5, R12 <3>, R63, R74). A reset, which reads the entries from the store, is apart. -/
def Obligations.OnlyRefreshVisitsRelease : Prop :=
  ∀ s t i, catWf s.ctc.work = true → step s = .next t →
    (entryAt s i).state ≠ .releasable → (entryAt t i).state = .releasable →
    (∃ slot rest, s.pending = .warmReset slot :: rest) ∨ (∃ slot kept rest, s.pending = .coldStart slot kept :: rest) ∨
      (∃ rest, s.pending = .refreshVisit :: rest) ∧ (entryAt s i).state = .retained ∧
        (entryAt t i).expiry ≤ s.rck.rf ∧ (entryAt s i).expiry ≤ s.rck.rf ∧
        expiryOf (entryAt s i).lodgeTime (periodInForce s (entryAt s i).cls) ≤ s.rck.rf ∧
        holdsOn s (entryAt s i).cust = 0 ∧ (∀ h, some h ∈ s.hdu.slots → holdMatches h.hold (entryAt s i).cust = false) ∧
        doubtStands s = false ∧ s.hdu.doubt = ⟨false, false, false⟩ ∧ s.ctc.node ≠ .storeFault ∧
        ∃ low, s.rwk.walk = some ⟨.refresh s.hdu.epoch, low, none⟩

/-- While an entry stays taken, its key, custodian, class, origin and lodge time stay, and its expiry never falls (R1,
R48). Resets, which read the entries from the store, and indices on the free-entry list are apart. -/
def Obligations.ExpiryNeverFalls : Prop :=
  ∀ s t i, catWf s.ctc.work = true → step s = .next t → i ∉ s.ctc.freeList →
    (∀ slot rest, s.pending ≠ .warmReset slot :: rest) → (∀ slot kept rest, s.pending ≠ .coldStart slot kept :: rest) →
    (entryAt s i).state ≠ .free → (entryAt t i).state ≠ .free →
    (entryAt s i).expiry ≤ (entryAt t i).expiry ∧ (entryAt t i).fullKey = (entryAt s i).fullKey ∧
      (entryAt t i).shortKey = (entryAt s i).shortKey ∧ (entryAt t i).cust = (entryAt s i).cust ∧
      (entryAt t i).cls = (entryAt s i).cls ∧ (entryAt t i).origin = (entryAt s i).origin ∧
      (entryAt t i).lodgeTime = (entryAt s i).lodgeTime

/-- The order of the clocks is kept by every step: RF is no later than BDT, and BDT no later than a valid RT (R32, R41
to R44), with what the model adds to make that inductive (`ClockInOrder`). RF never falls while core power stays on and
its reads do not fail: resets read it from the store, and a failed read of it or of the high-water takes it as 0 (R43,
R44, log 13). -/
def Obligations.ClocksStayInOrder : Prop :=
  (∀ s t, ClockInOrder s → step s = .next t → ClockInOrder t) ∧
  (∀ s t, ClockInOrder s → Powered s → step s = .next t →
     (∀ slot rest, s.pending ≠ .warmReset slot :: rest) → (∀ slot kept rest, s.pending ≠ .coldStart slot kept :: rest) →
     (∀ battery rest, s.pending ≠ .corePowerLoss battery :: rest) →
     (∀ rest, s.pending ≠ .storeReadFailed .floor :: rest) → (∀ rest, s.pending ≠ .storeReadFailed .highWater :: rest) →
     s.rck.rf ≤ t.rck.rf)

/-- Every step keeps the catalogue's canonical form, in the working copies and in the store; and it keeps the free-entry list
strictly rising, with indices of FREE entries that owe no DROP alone (R2, R6). -/
def Obligations.CatalogueStaysCanonical : Prop :=
  (∀ s t, CatalogueCanonical s → step s = .next t → CatalogueCanonical t) ∧
  ∀ s t, CatalogueCanonical s → FreeListInForm s → step s = .next t → FreeListInForm t

/-- Every step keeps the send count within 0 to 240, the receive count within 0 to 200, the send count at 240 in SILENT, and
the scrub balance within -8 to +8 (R109, R110, R159, R160). Every step keeps the queues and lists within their sizes: Send
Queue 16, Receive FIFO 24, request queue 32, Notice Queue 32, Watch Log 8; Appeal List 16, Candidate List 32, Claim List 4,
repair list 16, Lifted List 16, and the Appeal List names no index twice (R51, R95, R100, R126, R130, R133, R137, R174,
R183, R191). -/
def Obligations.CountsAndQueuesStayInRange : Prop :=
  ((∀ s t, CountsInRange s → step s = .next t → CountsInRange t) ∧ ∀ s t, BalanceInRange s → step s = .next t → BalanceInRange t) ∧
  ((∀ s t, QueuesInRange s → step s = .next t → QueuesInRange t) ∧ ∀ s t, ListsInRange s → step s = .next t → ListsInRange t)

/-- A node that is SILENT or in DUP_ID has no frame to send and no attempt in progress, whatever is commanded (R99,
R105, R113). -/
def Obligations.MutedNodesStayMute : Prop := ∀ s t, LineMute s → step s = .next t → LineMute t

/-- The media port carries one command at a time, and the media timer runs exactly while a command is in flight (R150,
R152, R154). The Peer Table keeps its 16 slots with SELF at the own id and nowhere else (R115). -/
def Obligations.PortAndPeersStayInForm : Prop :=
  (∀ s t, OneAtPort s → step s = .next t → OneAtPort t) ∧
  (∀ s t, PeersKept s → step s = .next t → PeersKept t)

/-- The laws of this section hold right after reset. -/
def Obligations.LawsHoldAfterReset : Prop :=
  CatalogueCanonical State.reset ∧ FreeListInForm State.reset ∧ CountsInRange State.reset ∧ BalanceInRange State.reset ∧ LineMute State.reset ∧
    QueuesInRange State.reset ∧ ListsInRange State.reset ∧ OneAtPort State.reset ∧
    PeersKept State.reset ∧ ClockInOrder State.reset

/-! ### Formats and computations -/

/-- A frame of at most 63 payload bytes, sent with its check and its fill bits, is read as the frame that was sent (R87
to R89). No eight bits of one level follow each other in what a sender sends from start bit to check, so a receiver
finds no fill error there, and N bits take at most (N − 1) ÷ 6 fill bits (R88); what it sends ends in at most six recessive
bits. -/
def Obligations.FramesSurviveTheLine : Prop :=
  (∀ f : RawFrame, f.payload.length ≤ 63 → readFrameBits (insertFill 0 true (plainBits f)) = .ok f) ∧
  (∀ bits : List Bool,
     (∀ before after b, insertFill 0 true bits ≠ before ++ List.replicate 8 b ++ after) ∧
     removeFill 0 true (insertFill 0 true bits) = some bits ∧
     (insertFill 0 true bits).length - bits.length ≤ (bits.length - 1) / 6) ∧
  ∀ f, recessiveTail f ≤ 6

/-- Every peer frame's payload has its kind's table length, the layout of Table 12-2, and is read as the frame it was built from
(R94, R102). A request link frame is read as the request its tag, kind and operands spell, field by field of Table 12-3, and
one whose kind or operand length no request has as BAD_FIELD; any other check discards it (R173, 12.3). The extent slots, the
short key of a full key and the custodian code of the operands are those of Table 12-3 and R193 <1>, <3>. The check is the CRC
of R89, over the bytes before it. A service frame is read as the command its kind and operand spell, field by field, and one of
another kind or operand length as BAD_FIELD; any other check discards it (R188, 12.4). -/
def Obligations.PayloadsAndLinkFrames : Prop :=
  (∀ f : PeerFrame, f.Sendable → tableLength (kindOf f) = some (payloadOf f).length ∧ readPayload (kindOf f) (payloadOf f) = some f) ∧
  -- Table 12-2
  (∀ n x, (toBytes n x).length = n ∧ ∀ i < n, ((toBytes n x).getD i 0).toNat = x / 256 ^ (n - 1 - i) % 256) ∧
  (∀ (m : Matter) (key : ShortKey) (pattern : BitVec 32) (patLen time cls rt : Nat) (w : Want) (invalid dormant fault : Bool),
     payloadOf (.hold m patLen pattern time) = toBytes 4 m.toNat ++ toBytes 1 patLen ++ toBytes 4 pattern.toNat ++ toBytes 5 time ∧
     payloadOf (.lift m time) = toBytes 4 m.toNat ++ toBytes 5 time ∧
     payloadOf (.drop key .damaged) = toBytes 8 key.toNat ++ [1] ∧
     payloadOf (.drop key .disposed) = toBytes 8 key.toNat ++ [2] ∧
     payloadOf (.claim key) = toBytes 8 key.toNat ∧
     payloadOf (.want w) = toBytes 8 w.key.toNat ++ toBytes 5 w.lodgeTime ++ toBytes 1 ((if w.held then 128 else 0) + w.cls) ++
       toBytes 4 w.size ++ toBytes 1 w.cust.len ++ toBytes 4 w.cust.code.toNat ++ toBytes 2 w.holders.toNat ∧
     payloadOf (.haveCopy key time cls) = toBytes 8 key.toNat ++ toBytes 5 time ++ toBytes 1 cls ∧
     payloadOf (.beacon rt invalid dormant fault) = toBytes 5 rt ++
       toBytes 1 ((if invalid then 1 else 0) + (if dormant then 2 else 0) + (if fault then 4 else 0))) ∧
  -- R89 and 12.3
  (checkOf [] = 0xFFFF ∧ ∀ bits b, checkOf (bits ++ [b]) =
     if (checkOf bits).getLsbD 15 = b then checkOf bits <<< 1 else (checkOf bits <<< 1) ^^^ 0x1021) ∧
  (∀ tag kind body covered, covered = toBytes 2 (2 + body.length) ++ [tag, kind] ++ body →
     linkFrame tag kind body = covered ++ toBytes 2 (checkOf (bytesBits covered)).toNat) ∧
  (∀ tag kind body, tag ≠ 0 → body.length ≤ 65533 →
     (∀ i, operandLength kind = some body.length → requestOf tag kind body = some i →
       readLinkFrame (linkFrame tag kind body) = .request i) ∧
     (operandLength kind ≠ some body.length → readLinkFrame (linkFrame tag kind body) = .badField tag kind) ∧
     (∀ c d : Byte, ∀ bytes, linkFrame tag kind body = bytes ++ [c, d] → ∀ c' d', (c', d') ≠ (c, d) →
       readLinkFrame (bytes ++ [c', d']) = .discard)) ∧
  -- Table 12-3
  (∀ kind n, operandLength kind = some n ↔ (kind, n) ∈ [((0x01 : Byte), 53), (0x02, 5), (0x03, 5), (0x04, 111), (0x05, 116),
     (0x06, 76), (0x07, 3), (0x08, 9), (0x09, 4), (0x0A, 9), (0x0B, 4), (0x0C, 17), (0x0D, 17), (0x0E, 17), (0x0F, 0), (0x10, 0),
     (0x11, 0), (0x12, 3), (0x13, 3)]) ∧
  (∀ (tag a b c : Byte) (time first : BitVec 40) (index mask : BitVec 24) (matter count code : BitVec 32) (key : FullKey)
     (short handle : BitVec 64) (record : BitVec 416) (slots : BitVec 576),
     requestOf tag 0x01 (a :: toBytes 52 record.toNat) = some (.start tag a record) ∧
     requestOf tag 0x02 (toBytes 5 time.toNat) = some (.setTime tag time) ∧
     requestOf tag 0x03 (toBytes 5 first.toNat) = some (.setSpace tag first) ∧
     requestOf tag 0x04 (toBytes 32 key.toNat ++ [a] ++ toBytes 4 code.toNat ++ [b, c] ++ toBytes 72 slots.toNat) =
       some (.lodge tag key a code b c slots) ∧
     requestOf tag 0x05 (toBytes 32 key.toNat ++ [a] ++ toBytes 4 code.toNat ++ [b] ++ toBytes 5 time.toNat ++ [c] ++
       toBytes 72 slots.toNat) = some (.adopt tag key a code b time c slots) ∧
     requestOf tag 0x06 (toBytes 3 index.toNat ++ [a] ++ toBytes 72 slots.toNat) = some (.refill tag index a slots) ∧
     requestOf tag 0x07 (toBytes 3 index.toNat) = some (.dispose tag index) ∧
     requestOf tag 0x08 (toBytes 4 matter.toNat ++ [a] ++ toBytes 4 code.toNat) = some (.placeHold tag matter a code) ∧
     requestOf tag 0x09 (toBytes 4 matter.toNat) = some (.liftHold tag matter) ∧
     requestOf tag 0x0A (a :: toBytes 8 short.toNat) = some (.lookup tag a short) ∧
     requestOf tag 0x0B (toBytes 3 index.toNat ++ [a]) = some (.listReleasable tag index a) ∧
     (∀ media, media = toBytes 5 first.toNat ++ toBytes 4 count.toNat ++ toBytes 8 handle.toNat →
       requestOf tag 0x0C media = some (.mediaRead tag first count handle) ∧
       requestOf tag 0x0D media = some (.mediaWrite tag first count handle) ∧
       requestOf tag 0x0E media = some (.mediaTrim tag first count handle)) ∧
     requestOf tag 0x0F [] = some (.dormant tag) ∧ requestOf tag 0x10 [] = some (.wake tag) ∧
     requestOf tag 0x11 [] = some (.readStatus tag) ∧
     requestOf tag 0x12 (toBytes 3 mask.toNat) = some (.clearEvents tag mask) ∧
     requestOf tag 0x13 (toBytes 3 mask.toNat) = some (.setEventEnables tag mask)) ∧
  (∀ (slots : BitVec 576) (es : List (BitVec 40 × BitVec 32)), es.length = 8 →
     toBytes 72 slots.toNat = es.flatMap (fun x => toBytes 5 x.1.toNat ++ toBytes 4 x.2.toNat) → ∀ n ≤ 8,
       usedSlots slots n = (es.take n).map fun x => ⟨x.1.toNat, x.2.toNat⟩) ∧
  (∀ (n : Byte) slots, extentsFit n slots = true ↔
     1 ≤ n.toNat ∧ n.toNat ≤ 8 ∧ ∀ x ∈ usedSlots slots n.toNat, 1 ≤ x.count ∧ x.count ≤ 16777216) ∧
  (∀ key : FullKey, (toBytes 32 key.toNat).take 8 = toBytes 8 (shortKeyOf key).toNat) ∧
  (∀ (code : BitVec 32) len, 1 ≤ len → len ≤ 4 → (custodianOf len code).len = len ∧
     ∀ k < 32, (custodianOf len code).code.getLsbD (31 - k) = (decide (k < 8 * len) && code.getLsbD (31 - k))) ∧
  -- 12.4
  (∀ kind body, body.length ≤ 254 →
     readSvcFrame (svcFrame kind body) = (match svcCommandOf kind body with | some i => .command i | none => .badField) ∧
     (∀ c d : Byte, ∀ bytes, svcFrame kind body = bytes ++ [c, d] → ∀ c' d', (c', d') ≠ (c, d) →
       readSvcFrame (bytes ++ [c', d']) = .discard)) ∧
  (svcCommandOf 0x01 [] = some .inspectStatus ∧ svcCommandOf 0x06 [] = some .inspectClock ∧
    svcCommandOf 0x08 [] = some .clearWatch ∧
    (∀ n < 2 ^ 24, svcCommandOf 0x02 (toBytes 3 n) = some (.inspectEntry (BitVec.ofNat 24 n))) ∧
    (∀ key : ShortKey, svcCommandOf 0x03 (toBytes 8 key.toNat) = some (.inspectKey key) ∧
      svcCommandOf 0x07 (toBytes 8 key.toNat) = some (.setWatch key)) ∧
    (∀ b : Byte, svcCommandOf 0x04 [b] = some (.inspectHold b) ∧ svcCommandOf 0x05 [b] = some (.inspectPeer b)) ∧
    ∀ kind body, (kind, body.length) ∉ [((0x01 : Byte), 0), (0x02, 3), (0x03, 8), (0x04, 1), (0x05, 1), (0x06, 0), (0x07, 8), (0x08, 0)] →
      svcCommandOf kind body = none)

/-- R45: the expiry is NEVER for an UNBOUNDED period; otherwise it is the smallest day boundary at or above the lodge
time plus the period, saturated at NEVER. -/
def Obligations.ExpiryIsTheNextDayBoundary : Prop :=
  ∀ lodge period, lodge ≤ 1099511627775 → period ≤ 36500 →
    expiryOf lodge none = 1099511627775 ∧
    (∃ b, 86400 ∣ b ∧ lodge + period * 86400 ≤ b ∧ (∀ x, 86400 ∣ x → lodge + period * 86400 ≤ x → b ≤ x) ∧
      (86400 ∣ lodge + period * 86400 → b = lodge + period * 86400) ∧
      expiryOf lodge (some period) = if 1099511627775 ≤ b then 1099511627775 else b) ∧
    (expiryOf lodge (some period) ≠ 1099511627775 →
      86400 ∣ expiryOf lodge (some period) ∧ expiryOf lodge (some period) < 1099511627775) ∧
    (86400 ∣ lodge → expiryOf lodge (some 0) = lodge)

/-- R53: a hold matches when the leading bits of pattern and code agree, as many as the lesser of the pattern length and
the bits of the code; a pattern of no bits matches every code, and nothing but pattern, length and code enters. The hold count
is the number of occupied slots of the working table whose hold so matches (R54). -/
def Obligations.HoldsMatchByLeadingBits : Prop :=
  (∀ (s : State) (c : Custodian), holdsOn s c = ((s.hdu.slots.filterMap id).filter fun h => holdMatches h.hold c).length ∧
    (holdsOn s c = 0 ↔ ∀ h, some h ∈ s.hdu.slots → holdMatches h.hold c = false)) ∧
  ∀ (h : HoldRec) (c : Custodian), 1 ≤ c.len → c.len ≤ 4 → h.patLen ≤ 32 →
    (holdMatches h c = true ↔
      ∀ k, k < min h.patLen (8 * c.len) → c.code.getLsbD (31 - k) = h.pattern.getLsbD (31 - k)) ∧
    (h.patLen = 0 → holdMatches h c = true) ∧
    ∀ m t u o, holdMatches { h with matter := m, placed := t, unknown := u, origin := o } c = holdMatches h c

/-- R124: the start, the stride and the order of a short key, which lists every node id once, and the placement
position. -/
def Obligations.PlacementOrderListsEveryNode : Prop :=
  ∀ key : ShortKey,
    placementStride key = 2 * (key.toNat / 16 % 8) + 1 ∧ placementStride key % 2 = 1 ∧
      1 ≤ placementStride key ∧ placementStride key ≤ 15 ∧
    (placementOrder key).length = 16 ∧ (placementOrder key).Nodup ∧ (∀ id, id ∈ placementOrder key) ∧
    (∀ i < 16, ((placementOrder key).getD i 0).toNat = (key.toNat % 16 + i * placementStride key) % 16) ∧
    ∀ id, placementPosition key id < 16 ∧ (placementOrder key).getD (placementPosition key id) 0 = id
end

