-- ==== Sys2Proof/Laws/State.lean ====
section
/-! SUPPORT. What the named updates of the state leave alone: one lemma for each block an update does not touch, true by
computation and used by `simp`. -/

namespace Sys2Proof.Machine

/-! ### `raise` -/

@[simp] theorem raise_pins (e : Event) (s : State) : (raise e s).pins = s.pins := rfl
@[simp] theorem raise_store (e : Event) (s : State) : (raise e s).store = s.store := rfl
@[simp] theorem raise_ctc (e : Event) (s : State) : (raise e s).ctc = s.ctc := rfl
@[simp] theorem raise_rck (e : Event) (s : State) : (raise e s).rck = s.rck := rfl
@[simp] theorem raise_hdu (e : Event) (s : State) : (raise e s).hdu = s.hdu := rfl
@[simp] theorem raise_rwk (e : Event) (s : State) : (raise e s).rwk = s.rwk := rfl
@[simp] theorem raise_pbc (e : Event) (s : State) : (raise e s).pbc = s.pbc := rfl
@[simp] theorem raise_cnu (e : Event) (s : State) : (raise e s).cnu = s.cnu := rfl
@[simp] theorem raise_exg (e : Event) (s : State) : (raise e s).exg = s.exg := rfl
@[simp] theorem raise_mar (e : Event) (s : State) : (raise e s).mar = s.mar := rfl
@[simp] theorem raise_scs (e : Event) (s : State) : (raise e s).scs = s.scs := rfl
@[simp] theorem raise_rli (e : Event) (s : State) : (raise e s).rli = s.rli := rfl
@[simp] theorem raise_sli (e : Event) (s : State) : (raise e s).sli = s.sli := rfl
@[simp] theorem raise_coreMs (e : Event) (s : State) : (raise e s).coreMs = s.coreMs := rfl
@[simp] theorem raise_free (e : Event) (s : State) : (raise e s).free = s.free := rfl
@[simp] theorem raise_pending (e : Event) (s : State) : (raise e s).pending = s.pending := rfl

/-! ### `pushAnswer` -/

@[simp] theorem pushAnswer_pins (a : Answer) (s : State) : (pushAnswer a s).pins = s.pins := rfl
@[simp] theorem pushAnswer_store (a : Answer) (s : State) : (pushAnswer a s).store = s.store := rfl
@[simp] theorem pushAnswer_ctc (a : Answer) (s : State) : (pushAnswer a s).ctc = s.ctc := rfl
@[simp] theorem pushAnswer_rck (a : Answer) (s : State) : (pushAnswer a s).rck = s.rck := rfl
@[simp] theorem pushAnswer_hdu (a : Answer) (s : State) : (pushAnswer a s).hdu = s.hdu := rfl
@[simp] theorem pushAnswer_rwk (a : Answer) (s : State) : (pushAnswer a s).rwk = s.rwk := rfl
@[simp] theorem pushAnswer_pbc (a : Answer) (s : State) : (pushAnswer a s).pbc = s.pbc := rfl
@[simp] theorem pushAnswer_cnu (a : Answer) (s : State) : (pushAnswer a s).cnu = s.cnu := rfl
@[simp] theorem pushAnswer_exg (a : Answer) (s : State) : (pushAnswer a s).exg = s.exg := rfl
@[simp] theorem pushAnswer_mar (a : Answer) (s : State) : (pushAnswer a s).mar = s.mar := rfl
@[simp] theorem pushAnswer_scs (a : Answer) (s : State) : (pushAnswer a s).scs = s.scs := rfl
@[simp] theorem pushAnswer_evu (a : Answer) (s : State) : (pushAnswer a s).evu = s.evu := rfl
@[simp] theorem pushAnswer_sli (a : Answer) (s : State) : (pushAnswer a s).sli = s.sli := rfl
@[simp] theorem pushAnswer_coreMs (a : Answer) (s : State) : (pushAnswer a s).coreMs = s.coreMs := rfl
@[simp] theorem pushAnswer_free (a : Answer) (s : State) : (pushAnswer a s).free = s.free := rfl
@[simp] theorem pushAnswer_pending (a : Answer) (s : State) : (pushAnswer a s).pending = s.pending := rfl

/-! ### `answerReq` -/

@[simp] theorem answerReq_pins (r : Req) (o : Reply) (res : Results) (s : State) : (answerReq r o res s).pins = s.pins := rfl
@[simp] theorem answerReq_store (r : Req) (o : Reply) (res : Results) (s : State) : (answerReq r o res s).store = s.store := rfl
@[simp] theorem answerReq_ctc (r : Req) (o : Reply) (res : Results) (s : State) : (answerReq r o res s).ctc = s.ctc := rfl
@[simp] theorem answerReq_rck (r : Req) (o : Reply) (res : Results) (s : State) : (answerReq r o res s).rck = s.rck := rfl
@[simp] theorem answerReq_hdu (r : Req) (o : Reply) (res : Results) (s : State) : (answerReq r o res s).hdu = s.hdu := rfl
@[simp] theorem answerReq_rwk (r : Req) (o : Reply) (res : Results) (s : State) : (answerReq r o res s).rwk = s.rwk := rfl
@[simp] theorem answerReq_pbc (r : Req) (o : Reply) (res : Results) (s : State) : (answerReq r o res s).pbc = s.pbc := rfl
@[simp] theorem answerReq_cnu (r : Req) (o : Reply) (res : Results) (s : State) : (answerReq r o res s).cnu = s.cnu := rfl
@[simp] theorem answerReq_exg (r : Req) (o : Reply) (res : Results) (s : State) : (answerReq r o res s).exg = s.exg := rfl
@[simp] theorem answerReq_mar (r : Req) (o : Reply) (res : Results) (s : State) : (answerReq r o res s).mar = s.mar := rfl
@[simp] theorem answerReq_scs (r : Req) (o : Reply) (res : Results) (s : State) : (answerReq r o res s).scs = s.scs := rfl
@[simp] theorem answerReq_evu (r : Req) (o : Reply) (res : Results) (s : State) : (answerReq r o res s).evu = s.evu := rfl
@[simp] theorem answerReq_sli (r : Req) (o : Reply) (res : Results) (s : State) : (answerReq r o res s).sli = s.sli := rfl
@[simp] theorem answerReq_coreMs (r : Req) (o : Reply) (res : Results) (s : State) : (answerReq r o res s).coreMs = s.coreMs := rfl
@[simp] theorem answerReq_free (r : Req) (o : Reply) (res : Results) (s : State) : (answerReq r o res s).free = s.free := rfl
@[simp] theorem answerReq_pending (r : Req) (o : Reply) (res : Results) (s : State) : (answerReq r o res s).pending = s.pending := rfl

/-! ### `setWork` -/

@[simp] theorem setWork_pins (i : Nat) (e : Entry) (s : State) : (setWork i e s).pins = s.pins := rfl
@[simp] theorem setWork_store (i : Nat) (e : Entry) (s : State) : (setWork i e s).store = s.store := rfl
@[simp] theorem setWork_rck (i : Nat) (e : Entry) (s : State) : (setWork i e s).rck = s.rck := rfl
@[simp] theorem setWork_hdu (i : Nat) (e : Entry) (s : State) : (setWork i e s).hdu = s.hdu := rfl
@[simp] theorem setWork_rwk (i : Nat) (e : Entry) (s : State) : (setWork i e s).rwk = s.rwk := rfl
@[simp] theorem setWork_pbc (i : Nat) (e : Entry) (s : State) : (setWork i e s).pbc = s.pbc := rfl
@[simp] theorem setWork_cnu (i : Nat) (e : Entry) (s : State) : (setWork i e s).cnu = s.cnu := rfl
@[simp] theorem setWork_exg (i : Nat) (e : Entry) (s : State) : (setWork i e s).exg = s.exg := rfl
@[simp] theorem setWork_mar (i : Nat) (e : Entry) (s : State) : (setWork i e s).mar = s.mar := rfl
@[simp] theorem setWork_scs (i : Nat) (e : Entry) (s : State) : (setWork i e s).scs = s.scs := rfl
@[simp] theorem setWork_rli (i : Nat) (e : Entry) (s : State) : (setWork i e s).rli = s.rli := rfl
@[simp] theorem setWork_evu (i : Nat) (e : Entry) (s : State) : (setWork i e s).evu = s.evu := rfl
@[simp] theorem setWork_sli (i : Nat) (e : Entry) (s : State) : (setWork i e s).sli = s.sli := rfl
@[simp] theorem setWork_coreMs (i : Nat) (e : Entry) (s : State) : (setWork i e s).coreMs = s.coreMs := rfl
@[simp] theorem setWork_free (i : Nat) (e : Entry) (s : State) : (setWork i e s).free = s.free := rfl
@[simp] theorem setWork_pending (i : Nat) (e : Entry) (s : State) : (setWork i e s).pending = s.pending := rfl

/-! ### `returnIndex` -/

@[simp] theorem returnIndex_pins (i : Nat) (s : State) : (returnIndex i s).pins = s.pins := by unfold returnIndex; split <;> rfl
@[simp] theorem returnIndex_store (i : Nat) (s : State) : (returnIndex i s).store = s.store := by unfold returnIndex; split <;> rfl
@[simp] theorem returnIndex_rck (i : Nat) (s : State) : (returnIndex i s).rck = s.rck := by unfold returnIndex; split <;> rfl
@[simp] theorem returnIndex_hdu (i : Nat) (s : State) : (returnIndex i s).hdu = s.hdu := by unfold returnIndex; split <;> rfl
@[simp] theorem returnIndex_rwk (i : Nat) (s : State) : (returnIndex i s).rwk = s.rwk := by unfold returnIndex; split <;> rfl
@[simp] theorem returnIndex_pbc (i : Nat) (s : State) : (returnIndex i s).pbc = s.pbc := by unfold returnIndex; split <;> rfl
@[simp] theorem returnIndex_cnu (i : Nat) (s : State) : (returnIndex i s).cnu = s.cnu := by unfold returnIndex; split <;> rfl
@[simp] theorem returnIndex_exg (i : Nat) (s : State) : (returnIndex i s).exg = s.exg := by unfold returnIndex; split <;> rfl
@[simp] theorem returnIndex_mar (i : Nat) (s : State) : (returnIndex i s).mar = s.mar := by unfold returnIndex; split <;> rfl
@[simp] theorem returnIndex_scs (i : Nat) (s : State) : (returnIndex i s).scs = s.scs := by unfold returnIndex; split <;> rfl
@[simp] theorem returnIndex_rli (i : Nat) (s : State) : (returnIndex i s).rli = s.rli := by unfold returnIndex; split <;> rfl
@[simp] theorem returnIndex_evu (i : Nat) (s : State) : (returnIndex i s).evu = s.evu := by unfold returnIndex; split <;> rfl
@[simp] theorem returnIndex_sli (i : Nat) (s : State) : (returnIndex i s).sli = s.sli := by unfold returnIndex; split <;> rfl
@[simp] theorem returnIndex_coreMs (i : Nat) (s : State) : (returnIndex i s).coreMs = s.coreMs := by unfold returnIndex; split <;> rfl
@[simp] theorem returnIndex_free (i : Nat) (s : State) : (returnIndex i s).free = s.free := by unfold returnIndex; split <;> rfl
@[simp] theorem returnIndex_pending (i : Nat) (s : State) : (returnIndex i s).pending = s.pending := by unfold returnIndex; split <;> rfl

/-! ### `advanceRt` -/

@[simp] theorem advanceRt_pins (s : State) : (advanceRt s).pins = s.pins := rfl
@[simp] theorem advanceRt_store (s : State) : (advanceRt s).store = s.store := rfl
@[simp] theorem advanceRt_ctc (s : State) : (advanceRt s).ctc = s.ctc := rfl
@[simp] theorem advanceRt_hdu (s : State) : (advanceRt s).hdu = s.hdu := rfl
@[simp] theorem advanceRt_rwk (s : State) : (advanceRt s).rwk = s.rwk := rfl
@[simp] theorem advanceRt_pbc (s : State) : (advanceRt s).pbc = s.pbc := rfl
@[simp] theorem advanceRt_cnu (s : State) : (advanceRt s).cnu = s.cnu := rfl
@[simp] theorem advanceRt_exg (s : State) : (advanceRt s).exg = s.exg := rfl
@[simp] theorem advanceRt_mar (s : State) : (advanceRt s).mar = s.mar := rfl
@[simp] theorem advanceRt_scs (s : State) : (advanceRt s).scs = s.scs := rfl
@[simp] theorem advanceRt_rli (s : State) : (advanceRt s).rli = s.rli := rfl
@[simp] theorem advanceRt_evu (s : State) : (advanceRt s).evu = s.evu := rfl
@[simp] theorem advanceRt_sli (s : State) : (advanceRt s).sli = s.sli := rfl
@[simp] theorem advanceRt_coreMs (s : State) : (advanceRt s).coreMs = s.coreMs := rfl
@[simp] theorem advanceRt_free (s : State) : (advanceRt s).free = s.free := rfl
@[simp] theorem advanceRt_pending (s : State) : (advanceRt s).pending = s.pending := rfl

/-! ### `enqueue` -/

@[simp] theorem enqueue_pins (q : SendItem) (s : State) : (enqueue q s).pins = s.pins := rfl
@[simp] theorem enqueue_store (q : SendItem) (s : State) : (enqueue q s).store = s.store := rfl
@[simp] theorem enqueue_ctc (q : SendItem) (s : State) : (enqueue q s).ctc = s.ctc := rfl
@[simp] theorem enqueue_rck (q : SendItem) (s : State) : (enqueue q s).rck = s.rck := rfl
@[simp] theorem enqueue_hdu (q : SendItem) (s : State) : (enqueue q s).hdu = s.hdu := rfl
@[simp] theorem enqueue_rwk (q : SendItem) (s : State) : (enqueue q s).rwk = s.rwk := rfl
@[simp] theorem enqueue_cnu (q : SendItem) (s : State) : (enqueue q s).cnu = s.cnu := rfl
@[simp] theorem enqueue_exg (q : SendItem) (s : State) : (enqueue q s).exg = s.exg := rfl
@[simp] theorem enqueue_mar (q : SendItem) (s : State) : (enqueue q s).mar = s.mar := rfl
@[simp] theorem enqueue_scs (q : SendItem) (s : State) : (enqueue q s).scs = s.scs := rfl
@[simp] theorem enqueue_rli (q : SendItem) (s : State) : (enqueue q s).rli = s.rli := rfl
@[simp] theorem enqueue_evu (q : SendItem) (s : State) : (enqueue q s).evu = s.evu := rfl
@[simp] theorem enqueue_sli (q : SendItem) (s : State) : (enqueue q s).sli = s.sli := rfl
@[simp] theorem enqueue_coreMs (q : SendItem) (s : State) : (enqueue q s).coreMs = s.coreMs := rfl
@[simp] theorem enqueue_free (q : SendItem) (s : State) : (enqueue q s).free = s.free := rfl
@[simp] theorem enqueue_pending (q : SendItem) (s : State) : (enqueue q s).pending = s.pending := rfl

/-! ### `supersede` -/

@[simp] theorem supersede_pins (i : Nat) (s : State) : (supersede i s).pins = s.pins := rfl
@[simp] theorem supersede_store (i : Nat) (s : State) : (supersede i s).store = s.store := rfl
@[simp] theorem supersede_ctc (i : Nat) (s : State) : (supersede i s).ctc = s.ctc := rfl
@[simp] theorem supersede_rck (i : Nat) (s : State) : (supersede i s).rck = s.rck := rfl
@[simp] theorem supersede_hdu (i : Nat) (s : State) : (supersede i s).hdu = s.hdu := rfl
@[simp] theorem supersede_rwk (i : Nat) (s : State) : (supersede i s).rwk = s.rwk := rfl
@[simp] theorem supersede_cnu (i : Nat) (s : State) : (supersede i s).cnu = s.cnu := rfl
@[simp] theorem supersede_exg (i : Nat) (s : State) : (supersede i s).exg = s.exg := rfl
@[simp] theorem supersede_mar (i : Nat) (s : State) : (supersede i s).mar = s.mar := rfl
@[simp] theorem supersede_scs (i : Nat) (s : State) : (supersede i s).scs = s.scs := rfl
@[simp] theorem supersede_rli (i : Nat) (s : State) : (supersede i s).rli = s.rli := rfl
@[simp] theorem supersede_evu (i : Nat) (s : State) : (supersede i s).evu = s.evu := rfl
@[simp] theorem supersede_sli (i : Nat) (s : State) : (supersede i s).sli = s.sli := rfl
@[simp] theorem supersede_coreMs (i : Nat) (s : State) : (supersede i s).coreMs = s.coreMs := rfl
@[simp] theorem supersede_free (i : Nat) (s : State) : (supersede i s).free = s.free := rfl
@[simp] theorem supersede_pending (i : Nat) (s : State) : (supersede i s).pending = s.pending := rfl

/-! ### `updateAppeal` -/

@[simp] theorem updateAppeal_pins (i : Nat) (f : Appeal → Appeal) (s : State) : (updateAppeal i f s).pins = s.pins := rfl
@[simp] theorem updateAppeal_store (i : Nat) (f : Appeal → Appeal) (s : State) : (updateAppeal i f s).store = s.store := rfl
@[simp] theorem updateAppeal_ctc (i : Nat) (f : Appeal → Appeal) (s : State) : (updateAppeal i f s).ctc = s.ctc := rfl
@[simp] theorem updateAppeal_rck (i : Nat) (f : Appeal → Appeal) (s : State) : (updateAppeal i f s).rck = s.rck := rfl
@[simp] theorem updateAppeal_hdu (i : Nat) (f : Appeal → Appeal) (s : State) : (updateAppeal i f s).hdu = s.hdu := rfl
@[simp] theorem updateAppeal_rwk (i : Nat) (f : Appeal → Appeal) (s : State) : (updateAppeal i f s).rwk = s.rwk := rfl
@[simp] theorem updateAppeal_pbc (i : Nat) (f : Appeal → Appeal) (s : State) : (updateAppeal i f s).pbc = s.pbc := rfl
@[simp] theorem updateAppeal_exg (i : Nat) (f : Appeal → Appeal) (s : State) : (updateAppeal i f s).exg = s.exg := rfl
@[simp] theorem updateAppeal_mar (i : Nat) (f : Appeal → Appeal) (s : State) : (updateAppeal i f s).mar = s.mar := rfl
@[simp] theorem updateAppeal_scs (i : Nat) (f : Appeal → Appeal) (s : State) : (updateAppeal i f s).scs = s.scs := rfl
@[simp] theorem updateAppeal_rli (i : Nat) (f : Appeal → Appeal) (s : State) : (updateAppeal i f s).rli = s.rli := rfl
@[simp] theorem updateAppeal_evu (i : Nat) (f : Appeal → Appeal) (s : State) : (updateAppeal i f s).evu = s.evu := rfl
@[simp] theorem updateAppeal_sli (i : Nat) (f : Appeal → Appeal) (s : State) : (updateAppeal i f s).sli = s.sli := rfl
@[simp] theorem updateAppeal_coreMs (i : Nat) (f : Appeal → Appeal) (s : State) : (updateAppeal i f s).coreMs = s.coreMs := rfl
@[simp] theorem updateAppeal_free (i : Nat) (f : Appeal → Appeal) (s : State) : (updateAppeal i f s).free = s.free := rfl
@[simp] theorem updateAppeal_pending (i : Nat) (f : Appeal → Appeal) (s : State) : (updateAppeal i f s).pending = s.pending := rfl

/-! ### `removeAppeal` -/

@[simp] theorem removeAppeal_pins (i : Nat) (s : State) : (removeAppeal i s).pins = s.pins := rfl
@[simp] theorem removeAppeal_store (i : Nat) (s : State) : (removeAppeal i s).store = s.store := rfl
@[simp] theorem removeAppeal_ctc (i : Nat) (s : State) : (removeAppeal i s).ctc = s.ctc := rfl
@[simp] theorem removeAppeal_rck (i : Nat) (s : State) : (removeAppeal i s).rck = s.rck := rfl
@[simp] theorem removeAppeal_hdu (i : Nat) (s : State) : (removeAppeal i s).hdu = s.hdu := rfl
@[simp] theorem removeAppeal_rwk (i : Nat) (s : State) : (removeAppeal i s).rwk = s.rwk := rfl
@[simp] theorem removeAppeal_pbc (i : Nat) (s : State) : (removeAppeal i s).pbc = s.pbc := rfl
@[simp] theorem removeAppeal_exg (i : Nat) (s : State) : (removeAppeal i s).exg = s.exg := rfl
@[simp] theorem removeAppeal_mar (i : Nat) (s : State) : (removeAppeal i s).mar = s.mar := rfl
@[simp] theorem removeAppeal_scs (i : Nat) (s : State) : (removeAppeal i s).scs = s.scs := rfl
@[simp] theorem removeAppeal_rli (i : Nat) (s : State) : (removeAppeal i s).rli = s.rli := rfl
@[simp] theorem removeAppeal_evu (i : Nat) (s : State) : (removeAppeal i s).evu = s.evu := rfl
@[simp] theorem removeAppeal_sli (i : Nat) (s : State) : (removeAppeal i s).sli = s.sli := rfl
@[simp] theorem removeAppeal_coreMs (i : Nat) (s : State) : (removeAppeal i s).coreMs = s.coreMs := rfl
@[simp] theorem removeAppeal_free (i : Nat) (s : State) : (removeAppeal i s).free = s.free := rfl
@[simp] theorem removeAppeal_pending (i : Nat) (s : State) : (removeAppeal i s).pending = s.pending := rfl

/-! ### `updateCandidate` -/

@[simp] theorem updateCandidate_pins (k : ShortKey) (f : Candidate → Candidate) (s : State) : (updateCandidate k f s).pins = s.pins := rfl
@[simp] theorem updateCandidate_store (k : ShortKey) (f : Candidate → Candidate) (s : State) : (updateCandidate k f s).store = s.store := rfl
@[simp] theorem updateCandidate_ctc (k : ShortKey) (f : Candidate → Candidate) (s : State) : (updateCandidate k f s).ctc = s.ctc := rfl
@[simp] theorem updateCandidate_rck (k : ShortKey) (f : Candidate → Candidate) (s : State) : (updateCandidate k f s).rck = s.rck := rfl
@[simp] theorem updateCandidate_hdu (k : ShortKey) (f : Candidate → Candidate) (s : State) : (updateCandidate k f s).hdu = s.hdu := rfl
@[simp] theorem updateCandidate_rwk (k : ShortKey) (f : Candidate → Candidate) (s : State) : (updateCandidate k f s).rwk = s.rwk := rfl
@[simp] theorem updateCandidate_pbc (k : ShortKey) (f : Candidate → Candidate) (s : State) : (updateCandidate k f s).pbc = s.pbc := rfl
@[simp] theorem updateCandidate_exg (k : ShortKey) (f : Candidate → Candidate) (s : State) : (updateCandidate k f s).exg = s.exg := rfl
@[simp] theorem updateCandidate_mar (k : ShortKey) (f : Candidate → Candidate) (s : State) : (updateCandidate k f s).mar = s.mar := rfl
@[simp] theorem updateCandidate_scs (k : ShortKey) (f : Candidate → Candidate) (s : State) : (updateCandidate k f s).scs = s.scs := rfl
@[simp] theorem updateCandidate_rli (k : ShortKey) (f : Candidate → Candidate) (s : State) : (updateCandidate k f s).rli = s.rli := rfl
@[simp] theorem updateCandidate_evu (k : ShortKey) (f : Candidate → Candidate) (s : State) : (updateCandidate k f s).evu = s.evu := rfl
@[simp] theorem updateCandidate_sli (k : ShortKey) (f : Candidate → Candidate) (s : State) : (updateCandidate k f s).sli = s.sli := rfl
@[simp] theorem updateCandidate_coreMs (k : ShortKey) (f : Candidate → Candidate) (s : State) : (updateCandidate k f s).coreMs = s.coreMs := rfl
@[simp] theorem updateCandidate_free (k : ShortKey) (f : Candidate → Candidate) (s : State) : (updateCandidate k f s).free = s.free := rfl
@[simp] theorem updateCandidate_pending (k : ShortKey) (f : Candidate → Candidate) (s : State) : (updateCandidate k f s).pending = s.pending := rfl

/-! ### `removeCandidate` -/

@[simp] theorem removeCandidate_pins (k : ShortKey) (s : State) : (removeCandidate k s).pins = s.pins := rfl
@[simp] theorem removeCandidate_store (k : ShortKey) (s : State) : (removeCandidate k s).store = s.store := rfl
@[simp] theorem removeCandidate_ctc (k : ShortKey) (s : State) : (removeCandidate k s).ctc = s.ctc := rfl
@[simp] theorem removeCandidate_rck (k : ShortKey) (s : State) : (removeCandidate k s).rck = s.rck := rfl
@[simp] theorem removeCandidate_hdu (k : ShortKey) (s : State) : (removeCandidate k s).hdu = s.hdu := rfl
@[simp] theorem removeCandidate_rwk (k : ShortKey) (s : State) : (removeCandidate k s).rwk = s.rwk := rfl
@[simp] theorem removeCandidate_pbc (k : ShortKey) (s : State) : (removeCandidate k s).pbc = s.pbc := rfl
@[simp] theorem removeCandidate_exg (k : ShortKey) (s : State) : (removeCandidate k s).exg = s.exg := rfl
@[simp] theorem removeCandidate_mar (k : ShortKey) (s : State) : (removeCandidate k s).mar = s.mar := rfl
@[simp] theorem removeCandidate_scs (k : ShortKey) (s : State) : (removeCandidate k s).scs = s.scs := rfl
@[simp] theorem removeCandidate_rli (k : ShortKey) (s : State) : (removeCandidate k s).rli = s.rli := rfl
@[simp] theorem removeCandidate_evu (k : ShortKey) (s : State) : (removeCandidate k s).evu = s.evu := rfl
@[simp] theorem removeCandidate_sli (k : ShortKey) (s : State) : (removeCandidate k s).sli = s.sli := rfl
@[simp] theorem removeCandidate_coreMs (k : ShortKey) (s : State) : (removeCandidate k s).coreMs = s.coreMs := rfl
@[simp] theorem removeCandidate_free (k : ShortKey) (s : State) : (removeCandidate k s).free = s.free := rfl
@[simp] theorem removeCandidate_pending (k : ShortKey) (s : State) : (removeCandidate k s).pending = s.pending := rfl

/-! ### `updateClaim` -/

@[simp] theorem updateClaim_pins (k : ShortKey) (f : Claim → Claim) (s : State) : (updateClaim k f s).pins = s.pins := rfl
@[simp] theorem updateClaim_store (k : ShortKey) (f : Claim → Claim) (s : State) : (updateClaim k f s).store = s.store := rfl
@[simp] theorem updateClaim_ctc (k : ShortKey) (f : Claim → Claim) (s : State) : (updateClaim k f s).ctc = s.ctc := rfl
@[simp] theorem updateClaim_rck (k : ShortKey) (f : Claim → Claim) (s : State) : (updateClaim k f s).rck = s.rck := rfl
@[simp] theorem updateClaim_hdu (k : ShortKey) (f : Claim → Claim) (s : State) : (updateClaim k f s).hdu = s.hdu := rfl
@[simp] theorem updateClaim_rwk (k : ShortKey) (f : Claim → Claim) (s : State) : (updateClaim k f s).rwk = s.rwk := rfl
@[simp] theorem updateClaim_pbc (k : ShortKey) (f : Claim → Claim) (s : State) : (updateClaim k f s).pbc = s.pbc := rfl
@[simp] theorem updateClaim_exg (k : ShortKey) (f : Claim → Claim) (s : State) : (updateClaim k f s).exg = s.exg := rfl
@[simp] theorem updateClaim_mar (k : ShortKey) (f : Claim → Claim) (s : State) : (updateClaim k f s).mar = s.mar := rfl
@[simp] theorem updateClaim_scs (k : ShortKey) (f : Claim → Claim) (s : State) : (updateClaim k f s).scs = s.scs := rfl
@[simp] theorem updateClaim_rli (k : ShortKey) (f : Claim → Claim) (s : State) : (updateClaim k f s).rli = s.rli := rfl
@[simp] theorem updateClaim_evu (k : ShortKey) (f : Claim → Claim) (s : State) : (updateClaim k f s).evu = s.evu := rfl
@[simp] theorem updateClaim_sli (k : ShortKey) (f : Claim → Claim) (s : State) : (updateClaim k f s).sli = s.sli := rfl
@[simp] theorem updateClaim_coreMs (k : ShortKey) (f : Claim → Claim) (s : State) : (updateClaim k f s).coreMs = s.coreMs := rfl
@[simp] theorem updateClaim_free (k : ShortKey) (f : Claim → Claim) (s : State) : (updateClaim k f s).free = s.free := rfl
@[simp] theorem updateClaim_pending (k : ShortKey) (f : Claim → Claim) (s : State) : (updateClaim k f s).pending = s.pending := rfl

/-! ### `removeClaim` -/

@[simp] theorem removeClaim_pins (k : ShortKey) (s : State) : (removeClaim k s).pins = s.pins := rfl
@[simp] theorem removeClaim_store (k : ShortKey) (s : State) : (removeClaim k s).store = s.store := rfl
@[simp] theorem removeClaim_ctc (k : ShortKey) (s : State) : (removeClaim k s).ctc = s.ctc := rfl
@[simp] theorem removeClaim_rck (k : ShortKey) (s : State) : (removeClaim k s).rck = s.rck := rfl
@[simp] theorem removeClaim_hdu (k : ShortKey) (s : State) : (removeClaim k s).hdu = s.hdu := rfl
@[simp] theorem removeClaim_rwk (k : ShortKey) (s : State) : (removeClaim k s).rwk = s.rwk := rfl
@[simp] theorem removeClaim_pbc (k : ShortKey) (s : State) : (removeClaim k s).pbc = s.pbc := rfl
@[simp] theorem removeClaim_exg (k : ShortKey) (s : State) : (removeClaim k s).exg = s.exg := rfl
@[simp] theorem removeClaim_mar (k : ShortKey) (s : State) : (removeClaim k s).mar = s.mar := rfl
@[simp] theorem removeClaim_scs (k : ShortKey) (s : State) : (removeClaim k s).scs = s.scs := rfl
@[simp] theorem removeClaim_rli (k : ShortKey) (s : State) : (removeClaim k s).rli = s.rli := rfl
@[simp] theorem removeClaim_evu (k : ShortKey) (s : State) : (removeClaim k s).evu = s.evu := rfl
@[simp] theorem removeClaim_sli (k : ShortKey) (s : State) : (removeClaim k s).sli = s.sli := rfl
@[simp] theorem removeClaim_coreMs (k : ShortKey) (s : State) : (removeClaim k s).coreMs = s.coreMs := rfl
@[simp] theorem removeClaim_free (k : ShortKey) (s : State) : (removeClaim k s).free = s.free := rfl
@[simp] theorem removeClaim_pending (k : ShortKey) (s : State) : (removeClaim k s).pending = s.pending := rfl

/-! ### `setSlot` -/

@[simp] theorem setSlot_pins (i : Nat) (h : Option HoldSlot) (s : State) : (setSlot i h s).pins = s.pins := rfl
@[simp] theorem setSlot_store (i : Nat) (h : Option HoldSlot) (s : State) : (setSlot i h s).store = s.store := rfl
@[simp] theorem setSlot_ctc (i : Nat) (h : Option HoldSlot) (s : State) : (setSlot i h s).ctc = s.ctc := rfl
@[simp] theorem setSlot_rck (i : Nat) (h : Option HoldSlot) (s : State) : (setSlot i h s).rck = s.rck := rfl
@[simp] theorem setSlot_rwk (i : Nat) (h : Option HoldSlot) (s : State) : (setSlot i h s).rwk = s.rwk := rfl
@[simp] theorem setSlot_pbc (i : Nat) (h : Option HoldSlot) (s : State) : (setSlot i h s).pbc = s.pbc := rfl
@[simp] theorem setSlot_cnu (i : Nat) (h : Option HoldSlot) (s : State) : (setSlot i h s).cnu = s.cnu := rfl
@[simp] theorem setSlot_exg (i : Nat) (h : Option HoldSlot) (s : State) : (setSlot i h s).exg = s.exg := rfl
@[simp] theorem setSlot_mar (i : Nat) (h : Option HoldSlot) (s : State) : (setSlot i h s).mar = s.mar := rfl
@[simp] theorem setSlot_scs (i : Nat) (h : Option HoldSlot) (s : State) : (setSlot i h s).scs = s.scs := rfl
@[simp] theorem setSlot_rli (i : Nat) (h : Option HoldSlot) (s : State) : (setSlot i h s).rli = s.rli := rfl
@[simp] theorem setSlot_evu (i : Nat) (h : Option HoldSlot) (s : State) : (setSlot i h s).evu = s.evu := rfl
@[simp] theorem setSlot_sli (i : Nat) (h : Option HoldSlot) (s : State) : (setSlot i h s).sli = s.sli := rfl
@[simp] theorem setSlot_coreMs (i : Nat) (h : Option HoldSlot) (s : State) : (setSlot i h s).coreMs = s.coreMs := rfl
@[simp] theorem setSlot_free (i : Nat) (h : Option HoldSlot) (s : State) : (setSlot i h s).free = s.free := rfl
@[simp] theorem setSlot_pending (i : Nat) (h : Option HoldSlot) (s : State) : (setSlot i h s).pending = s.pending := rfl

/-! ### `updateSlot` -/

@[simp] theorem updateSlot_pins (i : Nat) (f : HoldSlot → HoldSlot) (s : State) : (updateSlot i f s).pins = s.pins := rfl
@[simp] theorem updateSlot_store (i : Nat) (f : HoldSlot → HoldSlot) (s : State) : (updateSlot i f s).store = s.store := rfl
@[simp] theorem updateSlot_ctc (i : Nat) (f : HoldSlot → HoldSlot) (s : State) : (updateSlot i f s).ctc = s.ctc := rfl
@[simp] theorem updateSlot_rck (i : Nat) (f : HoldSlot → HoldSlot) (s : State) : (updateSlot i f s).rck = s.rck := rfl
@[simp] theorem updateSlot_rwk (i : Nat) (f : HoldSlot → HoldSlot) (s : State) : (updateSlot i f s).rwk = s.rwk := rfl
@[simp] theorem updateSlot_pbc (i : Nat) (f : HoldSlot → HoldSlot) (s : State) : (updateSlot i f s).pbc = s.pbc := rfl
@[simp] theorem updateSlot_cnu (i : Nat) (f : HoldSlot → HoldSlot) (s : State) : (updateSlot i f s).cnu = s.cnu := rfl
@[simp] theorem updateSlot_exg (i : Nat) (f : HoldSlot → HoldSlot) (s : State) : (updateSlot i f s).exg = s.exg := rfl
@[simp] theorem updateSlot_mar (i : Nat) (f : HoldSlot → HoldSlot) (s : State) : (updateSlot i f s).mar = s.mar := rfl
@[simp] theorem updateSlot_scs (i : Nat) (f : HoldSlot → HoldSlot) (s : State) : (updateSlot i f s).scs = s.scs := rfl
@[simp] theorem updateSlot_rli (i : Nat) (f : HoldSlot → HoldSlot) (s : State) : (updateSlot i f s).rli = s.rli := rfl
@[simp] theorem updateSlot_evu (i : Nat) (f : HoldSlot → HoldSlot) (s : State) : (updateSlot i f s).evu = s.evu := rfl
@[simp] theorem updateSlot_sli (i : Nat) (f : HoldSlot → HoldSlot) (s : State) : (updateSlot i f s).sli = s.sli := rfl
@[simp] theorem updateSlot_coreMs (i : Nat) (f : HoldSlot → HoldSlot) (s : State) : (updateSlot i f s).coreMs = s.coreMs := rfl
@[simp] theorem updateSlot_free (i : Nat) (f : HoldSlot → HoldSlot) (s : State) : (updateSlot i f s).free = s.free := rfl
@[simp] theorem updateSlot_pending (i : Nat) (f : HoldSlot → HoldSlot) (s : State) : (updateSlot i f s).pending = s.pending := rfl

/-! ### `updateLifted` -/

@[simp] theorem updateLifted_pins (m : Matter) (f : Lifted → Lifted) (s : State) : (updateLifted m f s).pins = s.pins := rfl
@[simp] theorem updateLifted_store (m : Matter) (f : Lifted → Lifted) (s : State) : (updateLifted m f s).store = s.store := rfl
@[simp] theorem updateLifted_ctc (m : Matter) (f : Lifted → Lifted) (s : State) : (updateLifted m f s).ctc = s.ctc := rfl
@[simp] theorem updateLifted_rck (m : Matter) (f : Lifted → Lifted) (s : State) : (updateLifted m f s).rck = s.rck := rfl
@[simp] theorem updateLifted_rwk (m : Matter) (f : Lifted → Lifted) (s : State) : (updateLifted m f s).rwk = s.rwk := rfl
@[simp] theorem updateLifted_pbc (m : Matter) (f : Lifted → Lifted) (s : State) : (updateLifted m f s).pbc = s.pbc := rfl
@[simp] theorem updateLifted_cnu (m : Matter) (f : Lifted → Lifted) (s : State) : (updateLifted m f s).cnu = s.cnu := rfl
@[simp] theorem updateLifted_exg (m : Matter) (f : Lifted → Lifted) (s : State) : (updateLifted m f s).exg = s.exg := rfl
@[simp] theorem updateLifted_mar (m : Matter) (f : Lifted → Lifted) (s : State) : (updateLifted m f s).mar = s.mar := rfl
@[simp] theorem updateLifted_scs (m : Matter) (f : Lifted → Lifted) (s : State) : (updateLifted m f s).scs = s.scs := rfl
@[simp] theorem updateLifted_rli (m : Matter) (f : Lifted → Lifted) (s : State) : (updateLifted m f s).rli = s.rli := rfl
@[simp] theorem updateLifted_evu (m : Matter) (f : Lifted → Lifted) (s : State) : (updateLifted m f s).evu = s.evu := rfl
@[simp] theorem updateLifted_sli (m : Matter) (f : Lifted → Lifted) (s : State) : (updateLifted m f s).sli = s.sli := rfl
@[simp] theorem updateLifted_coreMs (m : Matter) (f : Lifted → Lifted) (s : State) : (updateLifted m f s).coreMs = s.coreMs := rfl
@[simp] theorem updateLifted_free (m : Matter) (f : Lifted → Lifted) (s : State) : (updateLifted m f s).free = s.free := rfl
@[simp] theorem updateLifted_pending (m : Matter) (f : Lifted → Lifted) (s : State) : (updateLifted m f s).pending = s.pending := rfl

/-! ### `setPeer` -/

@[simp] theorem setPeer_pins (id : NodeId) (p : Peer) (s : State) : (setPeer id p s).pins = s.pins := rfl
@[simp] theorem setPeer_store (id : NodeId) (p : Peer) (s : State) : (setPeer id p s).store = s.store := rfl
@[simp] theorem setPeer_ctc (id : NodeId) (p : Peer) (s : State) : (setPeer id p s).ctc = s.ctc := rfl
@[simp] theorem setPeer_rck (id : NodeId) (p : Peer) (s : State) : (setPeer id p s).rck = s.rck := rfl
@[simp] theorem setPeer_hdu (id : NodeId) (p : Peer) (s : State) : (setPeer id p s).hdu = s.hdu := rfl
@[simp] theorem setPeer_rwk (id : NodeId) (p : Peer) (s : State) : (setPeer id p s).rwk = s.rwk := rfl
@[simp] theorem setPeer_cnu (id : NodeId) (p : Peer) (s : State) : (setPeer id p s).cnu = s.cnu := rfl
@[simp] theorem setPeer_exg (id : NodeId) (p : Peer) (s : State) : (setPeer id p s).exg = s.exg := rfl
@[simp] theorem setPeer_mar (id : NodeId) (p : Peer) (s : State) : (setPeer id p s).mar = s.mar := rfl
@[simp] theorem setPeer_scs (id : NodeId) (p : Peer) (s : State) : (setPeer id p s).scs = s.scs := rfl
@[simp] theorem setPeer_rli (id : NodeId) (p : Peer) (s : State) : (setPeer id p s).rli = s.rli := rfl
@[simp] theorem setPeer_evu (id : NodeId) (p : Peer) (s : State) : (setPeer id p s).evu = s.evu := rfl
@[simp] theorem setPeer_sli (id : NodeId) (p : Peer) (s : State) : (setPeer id p s).sli = s.sli := rfl
@[simp] theorem setPeer_coreMs (id : NodeId) (p : Peer) (s : State) : (setPeer id p s).coreMs = s.coreMs := rfl
@[simp] theorem setPeer_free (id : NodeId) (p : Peer) (s : State) : (setPeer id p s).free = s.free := rfl
@[simp] theorem setPeer_pending (id : NodeId) (p : Peer) (s : State) : (setPeer id p s).pending = s.pending := rfl

/-! ### `endAttempt` -/

@[simp] theorem endAttempt_pins (s : State) : (endAttempt s).pins = s.pins := rfl
@[simp] theorem endAttempt_store (s : State) : (endAttempt s).store = s.store := rfl
@[simp] theorem endAttempt_ctc (s : State) : (endAttempt s).ctc = s.ctc := rfl
@[simp] theorem endAttempt_rck (s : State) : (endAttempt s).rck = s.rck := rfl
@[simp] theorem endAttempt_hdu (s : State) : (endAttempt s).hdu = s.hdu := rfl
@[simp] theorem endAttempt_rwk (s : State) : (endAttempt s).rwk = s.rwk := rfl
@[simp] theorem endAttempt_cnu (s : State) : (endAttempt s).cnu = s.cnu := rfl
@[simp] theorem endAttempt_exg (s : State) : (endAttempt s).exg = s.exg := rfl
@[simp] theorem endAttempt_mar (s : State) : (endAttempt s).mar = s.mar := rfl
@[simp] theorem endAttempt_scs (s : State) : (endAttempt s).scs = s.scs := rfl
@[simp] theorem endAttempt_rli (s : State) : (endAttempt s).rli = s.rli := rfl
@[simp] theorem endAttempt_evu (s : State) : (endAttempt s).evu = s.evu := rfl
@[simp] theorem endAttempt_sli (s : State) : (endAttempt s).sli = s.sli := rfl
@[simp] theorem endAttempt_coreMs (s : State) : (endAttempt s).coreMs = s.coreMs := rfl
@[simp] theorem endAttempt_free (s : State) : (endAttempt s).free = s.free := rfl
@[simp] theorem endAttempt_pending (s : State) : (endAttempt s).pending = s.pending := rfl

/-! ### `afterAttempt` -/

@[simp] theorem afterAttempt_pins (s : State) : (afterAttempt s).pins = s.pins := rfl
@[simp] theorem afterAttempt_store (s : State) : (afterAttempt s).store = s.store := rfl
@[simp] theorem afterAttempt_ctc (s : State) : (afterAttempt s).ctc = s.ctc := rfl
@[simp] theorem afterAttempt_rck (s : State) : (afterAttempt s).rck = s.rck := rfl
@[simp] theorem afterAttempt_hdu (s : State) : (afterAttempt s).hdu = s.hdu := rfl
@[simp] theorem afterAttempt_rwk (s : State) : (afterAttempt s).rwk = s.rwk := rfl
@[simp] theorem afterAttempt_cnu (s : State) : (afterAttempt s).cnu = s.cnu := rfl
@[simp] theorem afterAttempt_exg (s : State) : (afterAttempt s).exg = s.exg := rfl
@[simp] theorem afterAttempt_mar (s : State) : (afterAttempt s).mar = s.mar := rfl
@[simp] theorem afterAttempt_scs (s : State) : (afterAttempt s).scs = s.scs := rfl
@[simp] theorem afterAttempt_rli (s : State) : (afterAttempt s).rli = s.rli := rfl
@[simp] theorem afterAttempt_evu (s : State) : (afterAttempt s).evu = s.evu := rfl
@[simp] theorem afterAttempt_sli (s : State) : (afterAttempt s).sli = s.sli := rfl
@[simp] theorem afterAttempt_coreMs (s : State) : (afterAttempt s).coreMs = s.coreMs := rfl
@[simp] theorem afterAttempt_free (s : State) : (afterAttempt s).free = s.free := rfl
@[simp] theorem afterAttempt_pending (s : State) : (afterAttempt s).pending = s.pending := rfl

/-! ### `beginErrorSeq` -/

@[simp] theorem beginErrorSeq_pins (b : Bool) (s : State) : (beginErrorSeq b s).pins = s.pins := rfl
@[simp] theorem beginErrorSeq_store (b : Bool) (s : State) : (beginErrorSeq b s).store = s.store := rfl
@[simp] theorem beginErrorSeq_ctc (b : Bool) (s : State) : (beginErrorSeq b s).ctc = s.ctc := rfl
@[simp] theorem beginErrorSeq_rck (b : Bool) (s : State) : (beginErrorSeq b s).rck = s.rck := rfl
@[simp] theorem beginErrorSeq_hdu (b : Bool) (s : State) : (beginErrorSeq b s).hdu = s.hdu := rfl
@[simp] theorem beginErrorSeq_rwk (b : Bool) (s : State) : (beginErrorSeq b s).rwk = s.rwk := rfl
@[simp] theorem beginErrorSeq_cnu (b : Bool) (s : State) : (beginErrorSeq b s).cnu = s.cnu := rfl
@[simp] theorem beginErrorSeq_exg (b : Bool) (s : State) : (beginErrorSeq b s).exg = s.exg := rfl
@[simp] theorem beginErrorSeq_mar (b : Bool) (s : State) : (beginErrorSeq b s).mar = s.mar := rfl
@[simp] theorem beginErrorSeq_scs (b : Bool) (s : State) : (beginErrorSeq b s).scs = s.scs := rfl
@[simp] theorem beginErrorSeq_rli (b : Bool) (s : State) : (beginErrorSeq b s).rli = s.rli := rfl
@[simp] theorem beginErrorSeq_evu (b : Bool) (s : State) : (beginErrorSeq b s).evu = s.evu := rfl
@[simp] theorem beginErrorSeq_sli (b : Bool) (s : State) : (beginErrorSeq b s).sli = s.sli := rfl
@[simp] theorem beginErrorSeq_coreMs (b : Bool) (s : State) : (beginErrorSeq b s).coreMs = s.coreMs := rfl
@[simp] theorem beginErrorSeq_free (b : Bool) (s : State) : (beginErrorSeq b s).free = s.free := rfl
@[simp] theorem beginErrorSeq_pending (b : Bool) (s : State) : (beginErrorSeq b s).pending = s.pending := rfl

/-! ### `popFifo` -/

@[simp] theorem popFifo_pins (s : State) : (popFifo s).pins = s.pins := rfl
@[simp] theorem popFifo_store (s : State) : (popFifo s).store = s.store := rfl
@[simp] theorem popFifo_ctc (s : State) : (popFifo s).ctc = s.ctc := rfl
@[simp] theorem popFifo_rck (s : State) : (popFifo s).rck = s.rck := rfl
@[simp] theorem popFifo_hdu (s : State) : (popFifo s).hdu = s.hdu := rfl
@[simp] theorem popFifo_rwk (s : State) : (popFifo s).rwk = s.rwk := rfl
@[simp] theorem popFifo_cnu (s : State) : (popFifo s).cnu = s.cnu := rfl
@[simp] theorem popFifo_exg (s : State) : (popFifo s).exg = s.exg := rfl
@[simp] theorem popFifo_mar (s : State) : (popFifo s).mar = s.mar := rfl
@[simp] theorem popFifo_scs (s : State) : (popFifo s).scs = s.scs := rfl
@[simp] theorem popFifo_rli (s : State) : (popFifo s).rli = s.rli := rfl
@[simp] theorem popFifo_evu (s : State) : (popFifo s).evu = s.evu := rfl
@[simp] theorem popFifo_sli (s : State) : (popFifo s).sli = s.sli := rfl
@[simp] theorem popFifo_coreMs (s : State) : (popFifo s).coreMs = s.coreMs := rfl
@[simp] theorem popFifo_free (s : State) : (popFifo s).free = s.free := rfl
@[simp] theorem popFifo_pending (s : State) : (popFifo s).pending = s.pending := rfl

/-! ### `placeRuns` -/

@[simp] theorem placeRuns_pins (i : Nat) (role : Role) (es : List Extent) (s : State) : (placeRuns i role es s).pins = s.pins := rfl
@[simp] theorem placeRuns_store (i : Nat) (role : Role) (es : List Extent) (s : State) : (placeRuns i role es s).store = s.store := rfl
@[simp] theorem placeRuns_ctc (i : Nat) (role : Role) (es : List Extent) (s : State) : (placeRuns i role es s).ctc = s.ctc := rfl
@[simp] theorem placeRuns_rck (i : Nat) (role : Role) (es : List Extent) (s : State) : (placeRuns i role es s).rck = s.rck := rfl
@[simp] theorem placeRuns_hdu (i : Nat) (role : Role) (es : List Extent) (s : State) : (placeRuns i role es s).hdu = s.hdu := rfl
@[simp] theorem placeRuns_rwk (i : Nat) (role : Role) (es : List Extent) (s : State) : (placeRuns i role es s).rwk = s.rwk := rfl
@[simp] theorem placeRuns_pbc (i : Nat) (role : Role) (es : List Extent) (s : State) : (placeRuns i role es s).pbc = s.pbc := rfl
@[simp] theorem placeRuns_cnu (i : Nat) (role : Role) (es : List Extent) (s : State) : (placeRuns i role es s).cnu = s.cnu := rfl
@[simp] theorem placeRuns_mar (i : Nat) (role : Role) (es : List Extent) (s : State) : (placeRuns i role es s).mar = s.mar := rfl
@[simp] theorem placeRuns_scs (i : Nat) (role : Role) (es : List Extent) (s : State) : (placeRuns i role es s).scs = s.scs := rfl
@[simp] theorem placeRuns_rli (i : Nat) (role : Role) (es : List Extent) (s : State) : (placeRuns i role es s).rli = s.rli := rfl
@[simp] theorem placeRuns_evu (i : Nat) (role : Role) (es : List Extent) (s : State) : (placeRuns i role es s).evu = s.evu := rfl
@[simp] theorem placeRuns_sli (i : Nat) (role : Role) (es : List Extent) (s : State) : (placeRuns i role es s).sli = s.sli := rfl
@[simp] theorem placeRuns_coreMs (i : Nat) (role : Role) (es : List Extent) (s : State) : (placeRuns i role es s).coreMs = s.coreMs := rfl
@[simp] theorem placeRuns_free (i : Nat) (role : Role) (es : List Extent) (s : State) : (placeRuns i role es s).free = s.free := rfl
@[simp] theorem placeRuns_pending (i : Nat) (role : Role) (es : List Extent) (s : State) : (placeRuns i role es s).pending = s.pending := rfl

/-! ### `removeRuns` -/

@[simp] theorem removeRuns_pins (i : Nat) (s : State) : (removeRuns i s).pins = s.pins := rfl
@[simp] theorem removeRuns_store (i : Nat) (s : State) : (removeRuns i s).store = s.store := rfl
@[simp] theorem removeRuns_ctc (i : Nat) (s : State) : (removeRuns i s).ctc = s.ctc := rfl
@[simp] theorem removeRuns_rck (i : Nat) (s : State) : (removeRuns i s).rck = s.rck := rfl
@[simp] theorem removeRuns_hdu (i : Nat) (s : State) : (removeRuns i s).hdu = s.hdu := rfl
@[simp] theorem removeRuns_rwk (i : Nat) (s : State) : (removeRuns i s).rwk = s.rwk := rfl
@[simp] theorem removeRuns_pbc (i : Nat) (s : State) : (removeRuns i s).pbc = s.pbc := rfl
@[simp] theorem removeRuns_cnu (i : Nat) (s : State) : (removeRuns i s).cnu = s.cnu := rfl
@[simp] theorem removeRuns_mar (i : Nat) (s : State) : (removeRuns i s).mar = s.mar := rfl
@[simp] theorem removeRuns_scs (i : Nat) (s : State) : (removeRuns i s).scs = s.scs := rfl
@[simp] theorem removeRuns_rli (i : Nat) (s : State) : (removeRuns i s).rli = s.rli := rfl
@[simp] theorem removeRuns_evu (i : Nat) (s : State) : (removeRuns i s).evu = s.evu := rfl
@[simp] theorem removeRuns_sli (i : Nat) (s : State) : (removeRuns i s).sli = s.sli := rfl
@[simp] theorem removeRuns_coreMs (i : Nat) (s : State) : (removeRuns i s).coreMs = s.coreMs := rfl
@[simp] theorem removeRuns_free (i : Nat) (s : State) : (removeRuns i s).free = s.free := rfl
@[simp] theorem removeRuns_pending (i : Nat) (s : State) : (removeRuns i s).pending = s.pending := rfl

/-! ### `removeExtents` -/

@[simp] theorem removeExtents_pins (i : Nat) (role : Role) (es : List Extent) (s : State) : (removeExtents i role es s).pins = s.pins := rfl
@[simp] theorem removeExtents_store (i : Nat) (role : Role) (es : List Extent) (s : State) : (removeExtents i role es s).store = s.store := rfl
@[simp] theorem removeExtents_ctc (i : Nat) (role : Role) (es : List Extent) (s : State) : (removeExtents i role es s).ctc = s.ctc := rfl
@[simp] theorem removeExtents_rck (i : Nat) (role : Role) (es : List Extent) (s : State) : (removeExtents i role es s).rck = s.rck := rfl
@[simp] theorem removeExtents_hdu (i : Nat) (role : Role) (es : List Extent) (s : State) : (removeExtents i role es s).hdu = s.hdu := rfl
@[simp] theorem removeExtents_rwk (i : Nat) (role : Role) (es : List Extent) (s : State) : (removeExtents i role es s).rwk = s.rwk := rfl
@[simp] theorem removeExtents_pbc (i : Nat) (role : Role) (es : List Extent) (s : State) : (removeExtents i role es s).pbc = s.pbc := rfl
@[simp] theorem removeExtents_cnu (i : Nat) (role : Role) (es : List Extent) (s : State) : (removeExtents i role es s).cnu = s.cnu := rfl
@[simp] theorem removeExtents_mar (i : Nat) (role : Role) (es : List Extent) (s : State) : (removeExtents i role es s).mar = s.mar := rfl
@[simp] theorem removeExtents_scs (i : Nat) (role : Role) (es : List Extent) (s : State) : (removeExtents i role es s).scs = s.scs := rfl
@[simp] theorem removeExtents_rli (i : Nat) (role : Role) (es : List Extent) (s : State) : (removeExtents i role es s).rli = s.rli := rfl
@[simp] theorem removeExtents_evu (i : Nat) (role : Role) (es : List Extent) (s : State) : (removeExtents i role es s).evu = s.evu := rfl
@[simp] theorem removeExtents_sli (i : Nat) (role : Role) (es : List Extent) (s : State) : (removeExtents i role es s).sli = s.sli := rfl
@[simp] theorem removeExtents_coreMs (i : Nat) (role : Role) (es : List Extent) (s : State) : (removeExtents i role es s).coreMs = s.coreMs := rfl
@[simp] theorem removeExtents_free (i : Nat) (role : Role) (es : List Extent) (s : State) : (removeExtents i role es s).free = s.free := rfl
@[simp] theorem removeExtents_pending (i : Nat) (role : Role) (es : List Extent) (s : State) : (removeExtents i role es s).pending = s.pending := rfl

/-! ### `promoteRefill` -/

@[simp] theorem promoteRefill_pins (i : Nat) (old new : List Extent) (s : State) : (promoteRefill i old new s).pins = s.pins := rfl
@[simp] theorem promoteRefill_store (i : Nat) (old new : List Extent) (s : State) : (promoteRefill i old new s).store = s.store := rfl
@[simp] theorem promoteRefill_ctc (i : Nat) (old new : List Extent) (s : State) : (promoteRefill i old new s).ctc = s.ctc := rfl
@[simp] theorem promoteRefill_rck (i : Nat) (old new : List Extent) (s : State) : (promoteRefill i old new s).rck = s.rck := rfl
@[simp] theorem promoteRefill_hdu (i : Nat) (old new : List Extent) (s : State) : (promoteRefill i old new s).hdu = s.hdu := rfl
@[simp] theorem promoteRefill_rwk (i : Nat) (old new : List Extent) (s : State) : (promoteRefill i old new s).rwk = s.rwk := rfl
@[simp] theorem promoteRefill_pbc (i : Nat) (old new : List Extent) (s : State) : (promoteRefill i old new s).pbc = s.pbc := rfl
@[simp] theorem promoteRefill_cnu (i : Nat) (old new : List Extent) (s : State) : (promoteRefill i old new s).cnu = s.cnu := rfl
@[simp] theorem promoteRefill_mar (i : Nat) (old new : List Extent) (s : State) : (promoteRefill i old new s).mar = s.mar := rfl
@[simp] theorem promoteRefill_scs (i : Nat) (old new : List Extent) (s : State) : (promoteRefill i old new s).scs = s.scs := rfl
@[simp] theorem promoteRefill_rli (i : Nat) (old new : List Extent) (s : State) : (promoteRefill i old new s).rli = s.rli := rfl
@[simp] theorem promoteRefill_evu (i : Nat) (old new : List Extent) (s : State) : (promoteRefill i old new s).evu = s.evu := rfl
@[simp] theorem promoteRefill_sli (i : Nat) (old new : List Extent) (s : State) : (promoteRefill i old new s).sli = s.sli := rfl
@[simp] theorem promoteRefill_coreMs (i : Nat) (old new : List Extent) (s : State) : (promoteRefill i old new s).coreMs = s.coreMs := rfl
@[simp] theorem promoteRefill_free (i : Nat) (old new : List Extent) (s : State) : (promoteRefill i old new s).free = s.free := rfl
@[simp] theorem promoteRefill_pending (i : Nat) (old new : List Extent) (s : State) : (promoteRefill i old new s).pending = s.pending := rfl

/-! ### `release` -/

@[simp] theorem release_pins (c : MediaCmd) (s : State) : (release c s).pins = s.pins := rfl
@[simp] theorem release_store (c : MediaCmd) (s : State) : (release c s).store = s.store := rfl
@[simp] theorem release_ctc (c : MediaCmd) (s : State) : (release c s).ctc = s.ctc := rfl
@[simp] theorem release_rck (c : MediaCmd) (s : State) : (release c s).rck = s.rck := rfl
@[simp] theorem release_hdu (c : MediaCmd) (s : State) : (release c s).hdu = s.hdu := rfl
@[simp] theorem release_rwk (c : MediaCmd) (s : State) : (release c s).rwk = s.rwk := rfl
@[simp] theorem release_pbc (c : MediaCmd) (s : State) : (release c s).pbc = s.pbc := rfl
@[simp] theorem release_cnu (c : MediaCmd) (s : State) : (release c s).cnu = s.cnu := rfl
@[simp] theorem release_exg (c : MediaCmd) (s : State) : (release c s).exg = s.exg := rfl
@[simp] theorem release_scs (c : MediaCmd) (s : State) : (release c s).scs = s.scs := rfl
@[simp] theorem release_rli (c : MediaCmd) (s : State) : (release c s).rli = s.rli := rfl
@[simp] theorem release_evu (c : MediaCmd) (s : State) : (release c s).evu = s.evu := rfl
@[simp] theorem release_sli (c : MediaCmd) (s : State) : (release c s).sli = s.sli := rfl
@[simp] theorem release_coreMs (c : MediaCmd) (s : State) : (release c s).coreMs = s.coreMs := rfl
@[simp] theorem release_free (c : MediaCmd) (s : State) : (release c s).free = s.free := rfl
@[simp] theorem release_pending (c : MediaCmd) (s : State) : (release c s).pending = s.pending := rfl

/-! ### `withdrawErases` -/

@[simp] theorem withdrawErases_pins (i : Nat) (s : State) : (withdrawErases i s).pins = s.pins := rfl
@[simp] theorem withdrawErases_store (i : Nat) (s : State) : (withdrawErases i s).store = s.store := rfl
@[simp] theorem withdrawErases_ctc (i : Nat) (s : State) : (withdrawErases i s).ctc = s.ctc := rfl
@[simp] theorem withdrawErases_rck (i : Nat) (s : State) : (withdrawErases i s).rck = s.rck := rfl
@[simp] theorem withdrawErases_hdu (i : Nat) (s : State) : (withdrawErases i s).hdu = s.hdu := rfl
@[simp] theorem withdrawErases_rwk (i : Nat) (s : State) : (withdrawErases i s).rwk = s.rwk := rfl
@[simp] theorem withdrawErases_pbc (i : Nat) (s : State) : (withdrawErases i s).pbc = s.pbc := rfl
@[simp] theorem withdrawErases_cnu (i : Nat) (s : State) : (withdrawErases i s).cnu = s.cnu := rfl
@[simp] theorem withdrawErases_exg (i : Nat) (s : State) : (withdrawErases i s).exg = s.exg := rfl
@[simp] theorem withdrawErases_scs (i : Nat) (s : State) : (withdrawErases i s).scs = s.scs := rfl
@[simp] theorem withdrawErases_rli (i : Nat) (s : State) : (withdrawErases i s).rli = s.rli := rfl
@[simp] theorem withdrawErases_evu (i : Nat) (s : State) : (withdrawErases i s).evu = s.evu := rfl
@[simp] theorem withdrawErases_sli (i : Nat) (s : State) : (withdrawErases i s).sli = s.sli := rfl
@[simp] theorem withdrawErases_coreMs (i : Nat) (s : State) : (withdrawErases i s).coreMs = s.coreMs := rfl
@[simp] theorem withdrawErases_free (i : Nat) (s : State) : (withdrawErases i s).free = s.free := rfl
@[simp] theorem withdrawErases_pending (i : Nat) (s : State) : (withdrawErases i s).pending = s.pending := rfl

/-! ### `queueErases` -/

@[simp] theorem queueErases_pins (i : Nat) (es : List Extent) (order : Nat) (s : State) : (queueErases i es order s).pins = s.pins := rfl
@[simp] theorem queueErases_store (i : Nat) (es : List Extent) (order : Nat) (s : State) : (queueErases i es order s).store = s.store := rfl
@[simp] theorem queueErases_ctc (i : Nat) (es : List Extent) (order : Nat) (s : State) : (queueErases i es order s).ctc = s.ctc := rfl
@[simp] theorem queueErases_rck (i : Nat) (es : List Extent) (order : Nat) (s : State) : (queueErases i es order s).rck = s.rck := rfl
@[simp] theorem queueErases_hdu (i : Nat) (es : List Extent) (order : Nat) (s : State) : (queueErases i es order s).hdu = s.hdu := rfl
@[simp] theorem queueErases_rwk (i : Nat) (es : List Extent) (order : Nat) (s : State) : (queueErases i es order s).rwk = s.rwk := rfl
@[simp] theorem queueErases_pbc (i : Nat) (es : List Extent) (order : Nat) (s : State) : (queueErases i es order s).pbc = s.pbc := rfl
@[simp] theorem queueErases_cnu (i : Nat) (es : List Extent) (order : Nat) (s : State) : (queueErases i es order s).cnu = s.cnu := rfl
@[simp] theorem queueErases_exg (i : Nat) (es : List Extent) (order : Nat) (s : State) : (queueErases i es order s).exg = s.exg := rfl
@[simp] theorem queueErases_scs (i : Nat) (es : List Extent) (order : Nat) (s : State) : (queueErases i es order s).scs = s.scs := rfl
@[simp] theorem queueErases_rli (i : Nat) (es : List Extent) (order : Nat) (s : State) : (queueErases i es order s).rli = s.rli := rfl
@[simp] theorem queueErases_evu (i : Nat) (es : List Extent) (order : Nat) (s : State) : (queueErases i es order s).evu = s.evu := rfl
@[simp] theorem queueErases_sli (i : Nat) (es : List Extent) (order : Nat) (s : State) : (queueErases i es order s).sli = s.sli := rfl
@[simp] theorem queueErases_coreMs (i : Nat) (es : List Extent) (order : Nat) (s : State) : (queueErases i es order s).coreMs = s.coreMs := rfl
@[simp] theorem queueErases_free (i : Nat) (es : List Extent) (order : Nat) (s : State) : (queueErases i es order s).free = s.free := rfl
@[simp] theorem queueErases_pending (i : Nat) (es : List Extent) (order : Nat) (s : State) : (queueErases i es order s).pending = s.pending := rfl

/-! ### `takeOrder` -/

@[simp] theorem takeOrder_pins (s : State) : (takeOrder s).pins = s.pins := rfl
@[simp] theorem takeOrder_store (s : State) : (takeOrder s).store = s.store := rfl
@[simp] theorem takeOrder_ctc (s : State) : (takeOrder s).ctc = s.ctc := rfl
@[simp] theorem takeOrder_rck (s : State) : (takeOrder s).rck = s.rck := rfl
@[simp] theorem takeOrder_hdu (s : State) : (takeOrder s).hdu = s.hdu := rfl
@[simp] theorem takeOrder_rwk (s : State) : (takeOrder s).rwk = s.rwk := rfl
@[simp] theorem takeOrder_pbc (s : State) : (takeOrder s).pbc = s.pbc := rfl
@[simp] theorem takeOrder_cnu (s : State) : (takeOrder s).cnu = s.cnu := rfl
@[simp] theorem takeOrder_exg (s : State) : (takeOrder s).exg = s.exg := rfl
@[simp] theorem takeOrder_scs (s : State) : (takeOrder s).scs = s.scs := rfl
@[simp] theorem takeOrder_rli (s : State) : (takeOrder s).rli = s.rli := rfl
@[simp] theorem takeOrder_evu (s : State) : (takeOrder s).evu = s.evu := rfl
@[simp] theorem takeOrder_sli (s : State) : (takeOrder s).sli = s.sli := rfl
@[simp] theorem takeOrder_coreMs (s : State) : (takeOrder s).coreMs = s.coreMs := rfl
@[simp] theorem takeOrder_free (s : State) : (takeOrder s).free = s.free := rfl
@[simp] theorem takeOrder_pending (s : State) : (takeOrder s).pending = s.pending := rfl
@[simp] theorem takeOrder_mar (s : State) : (takeOrder s).mar = { s.mar with disposeSeq := s.mar.disposeSeq + 1 } := rfl

/-! ### `countRecessive` -/

@[simp] theorem countRecessive_pins (n : Nat) (s : State) : (countRecessive n s).pins = s.pins := rfl
@[simp] theorem countRecessive_store (n : Nat) (s : State) : (countRecessive n s).store = s.store := rfl
@[simp] theorem countRecessive_ctc (n : Nat) (s : State) : (countRecessive n s).ctc = s.ctc := rfl
@[simp] theorem countRecessive_rck (n : Nat) (s : State) : (countRecessive n s).rck = s.rck := rfl
@[simp] theorem countRecessive_hdu (n : Nat) (s : State) : (countRecessive n s).hdu = s.hdu := rfl
@[simp] theorem countRecessive_rwk (n : Nat) (s : State) : (countRecessive n s).rwk = s.rwk := rfl
@[simp] theorem countRecessive_cnu (n : Nat) (s : State) : (countRecessive n s).cnu = s.cnu := rfl
@[simp] theorem countRecessive_exg (n : Nat) (s : State) : (countRecessive n s).exg = s.exg := rfl
@[simp] theorem countRecessive_mar (n : Nat) (s : State) : (countRecessive n s).mar = s.mar := rfl
@[simp] theorem countRecessive_scs (n : Nat) (s : State) : (countRecessive n s).scs = s.scs := rfl
@[simp] theorem countRecessive_rli (n : Nat) (s : State) : (countRecessive n s).rli = s.rli := rfl
@[simp] theorem countRecessive_evu (n : Nat) (s : State) : (countRecessive n s).evu = s.evu := rfl
@[simp] theorem countRecessive_sli (n : Nat) (s : State) : (countRecessive n s).sli = s.sli := rfl
@[simp] theorem countRecessive_coreMs (n : Nat) (s : State) : (countRecessive n s).coreMs = s.coreMs := rfl
@[simp] theorem countRecessive_free (n : Nat) (s : State) : (countRecessive n s).free = s.free := rfl
@[simp] theorem countRecessive_pending (n : Nat) (s : State) : (countRecessive n s).pending = s.pending := rfl

/-! ### `queueVerify` -/

@[simp] theorem queueVerify_pins (i : Nat) (e : Entry) (b : Bool) (n : Nat) (r : Option Req) (s : State) : (queueVerify i e b n r s).pins = s.pins := rfl
@[simp] theorem queueVerify_store (i : Nat) (e : Entry) (b : Bool) (n : Nat) (r : Option Req) (s : State) : (queueVerify i e b n r s).store = s.store := rfl
@[simp] theorem queueVerify_ctc (i : Nat) (e : Entry) (b : Bool) (n : Nat) (r : Option Req) (s : State) : (queueVerify i e b n r s).ctc = s.ctc := rfl
@[simp] theorem queueVerify_rck (i : Nat) (e : Entry) (b : Bool) (n : Nat) (r : Option Req) (s : State) : (queueVerify i e b n r s).rck = s.rck := rfl
@[simp] theorem queueVerify_hdu (i : Nat) (e : Entry) (b : Bool) (n : Nat) (r : Option Req) (s : State) : (queueVerify i e b n r s).hdu = s.hdu := rfl
@[simp] theorem queueVerify_rwk (i : Nat) (e : Entry) (b : Bool) (n : Nat) (r : Option Req) (s : State) : (queueVerify i e b n r s).rwk = s.rwk := rfl
@[simp] theorem queueVerify_pbc (i : Nat) (e : Entry) (b : Bool) (n : Nat) (r : Option Req) (s : State) : (queueVerify i e b n r s).pbc = s.pbc := rfl
@[simp] theorem queueVerify_cnu (i : Nat) (e : Entry) (b : Bool) (n : Nat) (r : Option Req) (s : State) : (queueVerify i e b n r s).cnu = s.cnu := rfl
@[simp] theorem queueVerify_exg (i : Nat) (e : Entry) (b : Bool) (n : Nat) (r : Option Req) (s : State) : (queueVerify i e b n r s).exg = s.exg := rfl
@[simp] theorem queueVerify_scs (i : Nat) (e : Entry) (b : Bool) (n : Nat) (r : Option Req) (s : State) : (queueVerify i e b n r s).scs = s.scs := rfl
@[simp] theorem queueVerify_rli (i : Nat) (e : Entry) (b : Bool) (n : Nat) (r : Option Req) (s : State) : (queueVerify i e b n r s).rli = s.rli := rfl
@[simp] theorem queueVerify_evu (i : Nat) (e : Entry) (b : Bool) (n : Nat) (r : Option Req) (s : State) : (queueVerify i e b n r s).evu = s.evu := rfl
@[simp] theorem queueVerify_sli (i : Nat) (e : Entry) (b : Bool) (n : Nat) (r : Option Req) (s : State) : (queueVerify i e b n r s).sli = s.sli := rfl
@[simp] theorem queueVerify_coreMs (i : Nat) (e : Entry) (b : Bool) (n : Nat) (r : Option Req) (s : State) : (queueVerify i e b n r s).coreMs = s.coreMs := rfl
@[simp] theorem queueVerify_free (i : Nat) (e : Entry) (b : Bool) (n : Nat) (r : Option Req) (s : State) : (queueVerify i e b n r s).free = s.free := rfl
@[simp] theorem queueVerify_pending (i : Nat) (e : Entry) (b : Bool) (n : Nat) (r : Option Req) (s : State) : (queueVerify i e b n r s).pending = s.pending := rfl

/-! ### `pulseAbort` -/

@[simp] theorem pulseAbort_store (s : State) : (pulseAbort s).store = s.store := rfl
@[simp] theorem pulseAbort_ctc (s : State) : (pulseAbort s).ctc = s.ctc := rfl
@[simp] theorem pulseAbort_rck (s : State) : (pulseAbort s).rck = s.rck := rfl
@[simp] theorem pulseAbort_hdu (s : State) : (pulseAbort s).hdu = s.hdu := rfl
@[simp] theorem pulseAbort_rwk (s : State) : (pulseAbort s).rwk = s.rwk := rfl
@[simp] theorem pulseAbort_pbc (s : State) : (pulseAbort s).pbc = s.pbc := rfl
@[simp] theorem pulseAbort_cnu (s : State) : (pulseAbort s).cnu = s.cnu := rfl
@[simp] theorem pulseAbort_exg (s : State) : (pulseAbort s).exg = s.exg := rfl
@[simp] theorem pulseAbort_mar (s : State) : (pulseAbort s).mar = s.mar := rfl
@[simp] theorem pulseAbort_scs (s : State) : (pulseAbort s).scs = s.scs := rfl
@[simp] theorem pulseAbort_rli (s : State) : (pulseAbort s).rli = s.rli := rfl
@[simp] theorem pulseAbort_evu (s : State) : (pulseAbort s).evu = s.evu := rfl
@[simp] theorem pulseAbort_sli (s : State) : (pulseAbort s).sli = s.sli := rfl
@[simp] theorem pulseAbort_coreMs (s : State) : (pulseAbort s).coreMs = s.coreMs := rfl
@[simp] theorem pulseAbort_free (s : State) : (pulseAbort s).free = s.free := rfl
@[simp] theorem pulseAbort_pending (s : State) : (pulseAbort s).pending = s.pending := rfl

/-! ### `clearErases` -/

@[simp] theorem clearErases_pins (i : Nat) (s : State) : (clearErases i s).pins = s.pins := rfl
@[simp] theorem clearErases_store (i : Nat) (s : State) : (clearErases i s).store = s.store := rfl
@[simp] theorem clearErases_rck (i : Nat) (s : State) : (clearErases i s).rck = s.rck := rfl
@[simp] theorem clearErases_hdu (i : Nat) (s : State) : (clearErases i s).hdu = s.hdu := rfl
@[simp] theorem clearErases_rwk (i : Nat) (s : State) : (clearErases i s).rwk = s.rwk := rfl
@[simp] theorem clearErases_pbc (i : Nat) (s : State) : (clearErases i s).pbc = s.pbc := rfl
@[simp] theorem clearErases_cnu (i : Nat) (s : State) : (clearErases i s).cnu = s.cnu := rfl
@[simp] theorem clearErases_exg (i : Nat) (s : State) : (clearErases i s).exg = s.exg := rfl
@[simp] theorem clearErases_mar (i : Nat) (s : State) : (clearErases i s).mar = s.mar := rfl
@[simp] theorem clearErases_scs (i : Nat) (s : State) : (clearErases i s).scs = s.scs := rfl
@[simp] theorem clearErases_rli (i : Nat) (s : State) : (clearErases i s).rli = s.rli := rfl
@[simp] theorem clearErases_evu (i : Nat) (s : State) : (clearErases i s).evu = s.evu := rfl
@[simp] theorem clearErases_sli (i : Nat) (s : State) : (clearErases i s).sli = s.sli := rfl
@[simp] theorem clearErases_coreMs (i : Nat) (s : State) : (clearErases i s).coreMs = s.coreMs := rfl
@[simp] theorem clearErases_free (i : Nat) (s : State) : (clearErases i s).free = s.free := rfl
@[simp] theorem clearErases_pending (i : Nat) (s : State) : (clearErases i s).pending = s.pending := rfl

/-! ### `countErase` -/

@[simp] theorem countErase_pins (i : Nat) (s : State) : (countErase i s).pins = s.pins := rfl
@[simp] theorem countErase_store (i : Nat) (s : State) : (countErase i s).store = s.store := rfl
@[simp] theorem countErase_rck (i : Nat) (s : State) : (countErase i s).rck = s.rck := rfl
@[simp] theorem countErase_hdu (i : Nat) (s : State) : (countErase i s).hdu = s.hdu := rfl
@[simp] theorem countErase_rwk (i : Nat) (s : State) : (countErase i s).rwk = s.rwk := rfl
@[simp] theorem countErase_pbc (i : Nat) (s : State) : (countErase i s).pbc = s.pbc := rfl
@[simp] theorem countErase_cnu (i : Nat) (s : State) : (countErase i s).cnu = s.cnu := rfl
@[simp] theorem countErase_exg (i : Nat) (s : State) : (countErase i s).exg = s.exg := rfl
@[simp] theorem countErase_mar (i : Nat) (s : State) : (countErase i s).mar = s.mar := rfl
@[simp] theorem countErase_scs (i : Nat) (s : State) : (countErase i s).scs = s.scs := rfl
@[simp] theorem countErase_rli (i : Nat) (s : State) : (countErase i s).rli = s.rli := rfl
@[simp] theorem countErase_evu (i : Nat) (s : State) : (countErase i s).evu = s.evu := rfl
@[simp] theorem countErase_sli (i : Nat) (s : State) : (countErase i s).sli = s.sli := rfl
@[simp] theorem countErase_coreMs (i : Nat) (s : State) : (countErase i s).coreMs = s.coreMs := rfl
@[simp] theorem countErase_free (i : Nat) (s : State) : (countErase i s).free = s.free := rfl
@[simp] theorem countErase_pending (i : Nat) (s : State) : (countErase i s).pending = s.pending := rfl

/-! ### `storeEntry` -/

@[simp] theorem storeEntry_pins (w : EntryWrite) (s : State) : (storeEntry w s).pins = s.pins := rfl
@[simp] theorem storeEntry_ctc (w : EntryWrite) (s : State) : (storeEntry w s).ctc = s.ctc := rfl
@[simp] theorem storeEntry_rck (w : EntryWrite) (s : State) : (storeEntry w s).rck = s.rck := rfl
@[simp] theorem storeEntry_hdu (w : EntryWrite) (s : State) : (storeEntry w s).hdu = s.hdu := rfl
@[simp] theorem storeEntry_rwk (w : EntryWrite) (s : State) : (storeEntry w s).rwk = s.rwk := rfl
@[simp] theorem storeEntry_pbc (w : EntryWrite) (s : State) : (storeEntry w s).pbc = s.pbc := rfl
@[simp] theorem storeEntry_cnu (w : EntryWrite) (s : State) : (storeEntry w s).cnu = s.cnu := rfl
@[simp] theorem storeEntry_exg (w : EntryWrite) (s : State) : (storeEntry w s).exg = s.exg := rfl
@[simp] theorem storeEntry_mar (w : EntryWrite) (s : State) : (storeEntry w s).mar = s.mar := rfl
@[simp] theorem storeEntry_scs (w : EntryWrite) (s : State) : (storeEntry w s).scs = s.scs := rfl
@[simp] theorem storeEntry_rli (w : EntryWrite) (s : State) : (storeEntry w s).rli = s.rli := rfl
@[simp] theorem storeEntry_evu (w : EntryWrite) (s : State) : (storeEntry w s).evu = s.evu := rfl
@[simp] theorem storeEntry_sli (w : EntryWrite) (s : State) : (storeEntry w s).sli = s.sli := rfl
@[simp] theorem storeEntry_coreMs (w : EntryWrite) (s : State) : (storeEntry w s).coreMs = s.coreMs := rfl
@[simp] theorem storeEntry_free (w : EntryWrite) (s : State) : (storeEntry w s).free = s.free := rfl
@[simp] theorem storeEntry_pending (w : EntryWrite) (s : State) : (storeEntry w s).pending = s.pending := rfl

/-! ### `raiseHoldLate` -/

@[simp] theorem raiseHoldLate_pins (k : ShortKey) (s : State) : (raiseHoldLate k s).pins = s.pins := rfl
@[simp] theorem raiseHoldLate_store (k : ShortKey) (s : State) : (raiseHoldLate k s).store = s.store := rfl
@[simp] theorem raiseHoldLate_rck (k : ShortKey) (s : State) : (raiseHoldLate k s).rck = s.rck := rfl
@[simp] theorem raiseHoldLate_hdu (k : ShortKey) (s : State) : (raiseHoldLate k s).hdu = s.hdu := rfl
@[simp] theorem raiseHoldLate_rwk (k : ShortKey) (s : State) : (raiseHoldLate k s).rwk = s.rwk := rfl
@[simp] theorem raiseHoldLate_pbc (k : ShortKey) (s : State) : (raiseHoldLate k s).pbc = s.pbc := rfl
@[simp] theorem raiseHoldLate_cnu (k : ShortKey) (s : State) : (raiseHoldLate k s).cnu = s.cnu := rfl
@[simp] theorem raiseHoldLate_exg (k : ShortKey) (s : State) : (raiseHoldLate k s).exg = s.exg := rfl
@[simp] theorem raiseHoldLate_mar (k : ShortKey) (s : State) : (raiseHoldLate k s).mar = s.mar := rfl
@[simp] theorem raiseHoldLate_scs (k : ShortKey) (s : State) : (raiseHoldLate k s).scs = s.scs := rfl
@[simp] theorem raiseHoldLate_rli (k : ShortKey) (s : State) : (raiseHoldLate k s).rli = s.rli := rfl
@[simp] theorem raiseHoldLate_sli (k : ShortKey) (s : State) : (raiseHoldLate k s).sli = s.sli := rfl
@[simp] theorem raiseHoldLate_coreMs (k : ShortKey) (s : State) : (raiseHoldLate k s).coreMs = s.coreMs := rfl
@[simp] theorem raiseHoldLate_free (k : ShortKey) (s : State) : (raiseHoldLate k s).free = s.free := rfl
@[simp] theorem raiseHoldLate_pending (k : ShortKey) (s : State) : (raiseHoldLate k s).pending = s.pending := rfl

/-! ### `enterRunning` -/

@[simp] theorem enterRunning_pins (s : State) : (enterRunning s).pins = s.pins := rfl
@[simp] theorem enterRunning_store (s : State) : (enterRunning s).store = s.store := rfl
@[simp] theorem enterRunning_rck (s : State) : (enterRunning s).rck = s.rck := rfl
@[simp] theorem enterRunning_hdu (s : State) : (enterRunning s).hdu = s.hdu := rfl
@[simp] theorem enterRunning_pbc (s : State) : (enterRunning s).pbc = s.pbc := rfl
@[simp] theorem enterRunning_cnu (s : State) : (enterRunning s).cnu = s.cnu := rfl
@[simp] theorem enterRunning_exg (s : State) : (enterRunning s).exg = s.exg := rfl
@[simp] theorem enterRunning_mar (s : State) : (enterRunning s).mar = s.mar := rfl
@[simp] theorem enterRunning_scs (s : State) : (enterRunning s).scs = s.scs := rfl
@[simp] theorem enterRunning_rli (s : State) : (enterRunning s).rli = s.rli := rfl
@[simp] theorem enterRunning_evu (s : State) : (enterRunning s).evu = s.evu := rfl
@[simp] theorem enterRunning_sli (s : State) : (enterRunning s).sli = s.sli := rfl
@[simp] theorem enterRunning_coreMs (s : State) : (enterRunning s).coreMs = s.coreMs := rfl
@[simp] theorem enterRunning_free (s : State) : (enterRunning s).free = s.free := rfl
@[simp] theorem enterRunning_pending (s : State) : (enterRunning s).pending = s.pending := rfl

/-! ### `startRefresh` -/

@[simp] theorem startRefresh_pins (s : State) : (startRefresh s).pins = s.pins := rfl
@[simp] theorem startRefresh_store (s : State) : (startRefresh s).store = s.store := rfl
@[simp] theorem startRefresh_ctc (s : State) : (startRefresh s).ctc = s.ctc := rfl
@[simp] theorem startRefresh_rck (s : State) : (startRefresh s).rck = s.rck := rfl
@[simp] theorem startRefresh_hdu (s : State) : (startRefresh s).hdu = s.hdu := rfl
@[simp] theorem startRefresh_pbc (s : State) : (startRefresh s).pbc = s.pbc := rfl
@[simp] theorem startRefresh_cnu (s : State) : (startRefresh s).cnu = s.cnu := rfl
@[simp] theorem startRefresh_exg (s : State) : (startRefresh s).exg = s.exg := rfl
@[simp] theorem startRefresh_mar (s : State) : (startRefresh s).mar = s.mar := rfl
@[simp] theorem startRefresh_scs (s : State) : (startRefresh s).scs = s.scs := rfl
@[simp] theorem startRefresh_rli (s : State) : (startRefresh s).rli = s.rli := rfl
@[simp] theorem startRefresh_evu (s : State) : (startRefresh s).evu = s.evu := rfl
@[simp] theorem startRefresh_sli (s : State) : (startRefresh s).sli = s.sli := rfl
@[simp] theorem startRefresh_coreMs (s : State) : (startRefresh s).coreMs = s.coreMs := rfl
@[simp] theorem startRefresh_free (s : State) : (startRefresh s).free = s.free := rfl
@[simp] theorem startRefresh_pending (s : State) : (startRefresh s).pending = s.pending := rfl

/-! ### `setDoubt` -/

@[simp] theorem setDoubt_pins (d : Doubt) (s : State) : (setDoubt d s).pins = s.pins := rfl
@[simp] theorem setDoubt_store (d : Doubt) (s : State) : (setDoubt d s).store = s.store := rfl
@[simp] theorem setDoubt_ctc (d : Doubt) (s : State) : (setDoubt d s).ctc = s.ctc := rfl
@[simp] theorem setDoubt_rck (d : Doubt) (s : State) : (setDoubt d s).rck = s.rck := rfl
@[simp] theorem setDoubt_rwk (d : Doubt) (s : State) : (setDoubt d s).rwk = s.rwk := rfl
@[simp] theorem setDoubt_pbc (d : Doubt) (s : State) : (setDoubt d s).pbc = s.pbc := rfl
@[simp] theorem setDoubt_cnu (d : Doubt) (s : State) : (setDoubt d s).cnu = s.cnu := rfl
@[simp] theorem setDoubt_exg (d : Doubt) (s : State) : (setDoubt d s).exg = s.exg := rfl
@[simp] theorem setDoubt_mar (d : Doubt) (s : State) : (setDoubt d s).mar = s.mar := rfl
@[simp] theorem setDoubt_scs (d : Doubt) (s : State) : (setDoubt d s).scs = s.scs := rfl
@[simp] theorem setDoubt_rli (d : Doubt) (s : State) : (setDoubt d s).rli = s.rli := rfl
@[simp] theorem setDoubt_sli (d : Doubt) (s : State) : (setDoubt d s).sli = s.sli := rfl
@[simp] theorem setDoubt_coreMs (d : Doubt) (s : State) : (setDoubt d s).coreMs = s.coreMs := rfl
@[simp] theorem setDoubt_free (d : Doubt) (s : State) : (setDoubt d s).free = s.free := rfl
@[simp] theorem setDoubt_pending (d : Doubt) (s : State) : (setDoubt d s).pending = s.pending := rfl

/-! ### `setEnables` -/

@[simp] theorem setEnables_pins (mask : EventMask) (s : State) : (setEnables mask s).pins = s.pins := rfl
@[simp] theorem setEnables_store (mask : EventMask) (s : State) : (setEnables mask s).store = s.store := rfl
@[simp] theorem setEnables_ctc (mask : EventMask) (s : State) : (setEnables mask s).ctc = s.ctc := rfl
@[simp] theorem setEnables_rck (mask : EventMask) (s : State) : (setEnables mask s).rck = s.rck := rfl
@[simp] theorem setEnables_hdu (mask : EventMask) (s : State) : (setEnables mask s).hdu = s.hdu := rfl
@[simp] theorem setEnables_rwk (mask : EventMask) (s : State) : (setEnables mask s).rwk = s.rwk := rfl
@[simp] theorem setEnables_pbc (mask : EventMask) (s : State) : (setEnables mask s).pbc = s.pbc := rfl
@[simp] theorem setEnables_cnu (mask : EventMask) (s : State) : (setEnables mask s).cnu = s.cnu := rfl
@[simp] theorem setEnables_exg (mask : EventMask) (s : State) : (setEnables mask s).exg = s.exg := rfl
@[simp] theorem setEnables_mar (mask : EventMask) (s : State) : (setEnables mask s).mar = s.mar := rfl
@[simp] theorem setEnables_scs (mask : EventMask) (s : State) : (setEnables mask s).scs = s.scs := rfl
@[simp] theorem setEnables_rli (mask : EventMask) (s : State) : (setEnables mask s).rli = s.rli := rfl
@[simp] theorem setEnables_sli (mask : EventMask) (s : State) : (setEnables mask s).sli = s.sli := rfl
@[simp] theorem setEnables_coreMs (mask : EventMask) (s : State) : (setEnables mask s).coreMs = s.coreMs := rfl
@[simp] theorem setEnables_free (mask : EventMask) (s : State) : (setEnables mask s).free = s.free := rfl
@[simp] theorem setEnables_pending (mask : EventMask) (s : State) : (setEnables mask s).pending = s.pending := rfl

/-! ### `takeWatch` -/

@[simp] theorem takeWatch_pins (k : Option ShortKey) (s : State) : (takeWatch k s).pins = s.pins := rfl
@[simp] theorem takeWatch_store (k : Option ShortKey) (s : State) : (takeWatch k s).store = s.store := rfl
@[simp] theorem takeWatch_ctc (k : Option ShortKey) (s : State) : (takeWatch k s).ctc = s.ctc := rfl
@[simp] theorem takeWatch_rck (k : Option ShortKey) (s : State) : (takeWatch k s).rck = s.rck := rfl
@[simp] theorem takeWatch_hdu (k : Option ShortKey) (s : State) : (takeWatch k s).hdu = s.hdu := rfl
@[simp] theorem takeWatch_rwk (k : Option ShortKey) (s : State) : (takeWatch k s).rwk = s.rwk := rfl
@[simp] theorem takeWatch_pbc (k : Option ShortKey) (s : State) : (takeWatch k s).pbc = s.pbc := rfl
@[simp] theorem takeWatch_cnu (k : Option ShortKey) (s : State) : (takeWatch k s).cnu = s.cnu := rfl
@[simp] theorem takeWatch_exg (k : Option ShortKey) (s : State) : (takeWatch k s).exg = s.exg := rfl
@[simp] theorem takeWatch_mar (k : Option ShortKey) (s : State) : (takeWatch k s).mar = s.mar := rfl
@[simp] theorem takeWatch_scs (k : Option ShortKey) (s : State) : (takeWatch k s).scs = s.scs := rfl
@[simp] theorem takeWatch_rli (k : Option ShortKey) (s : State) : (takeWatch k s).rli = s.rli := rfl
@[simp] theorem takeWatch_evu (k : Option ShortKey) (s : State) : (takeWatch k s).evu = s.evu := rfl
@[simp] theorem takeWatch_coreMs (k : Option ShortKey) (s : State) : (takeWatch k s).coreMs = s.coreMs := rfl
@[simp] theorem takeWatch_free (k : Option ShortKey) (s : State) : (takeWatch k s).free = s.free := rfl
@[simp] theorem takeWatch_pending (k : Option ShortKey) (s : State) : (takeWatch k s).pending = s.pending := rfl

/-! ### `svcAnswer` -/

@[simp] theorem svcAnswer_pins (b : Bool) (o : Reply) (body : SvcBody) (s : State) : (svcAnswer b o body s).pins = s.pins := rfl
@[simp] theorem svcAnswer_store (b : Bool) (o : Reply) (body : SvcBody) (s : State) : (svcAnswer b o body s).store = s.store := rfl
@[simp] theorem svcAnswer_ctc (b : Bool) (o : Reply) (body : SvcBody) (s : State) : (svcAnswer b o body s).ctc = s.ctc := rfl
@[simp] theorem svcAnswer_rck (b : Bool) (o : Reply) (body : SvcBody) (s : State) : (svcAnswer b o body s).rck = s.rck := rfl
@[simp] theorem svcAnswer_hdu (b : Bool) (o : Reply) (body : SvcBody) (s : State) : (svcAnswer b o body s).hdu = s.hdu := rfl
@[simp] theorem svcAnswer_rwk (b : Bool) (o : Reply) (body : SvcBody) (s : State) : (svcAnswer b o body s).rwk = s.rwk := rfl
@[simp] theorem svcAnswer_pbc (b : Bool) (o : Reply) (body : SvcBody) (s : State) : (svcAnswer b o body s).pbc = s.pbc := rfl
@[simp] theorem svcAnswer_cnu (b : Bool) (o : Reply) (body : SvcBody) (s : State) : (svcAnswer b o body s).cnu = s.cnu := rfl
@[simp] theorem svcAnswer_exg (b : Bool) (o : Reply) (body : SvcBody) (s : State) : (svcAnswer b o body s).exg = s.exg := rfl
@[simp] theorem svcAnswer_mar (b : Bool) (o : Reply) (body : SvcBody) (s : State) : (svcAnswer b o body s).mar = s.mar := rfl
@[simp] theorem svcAnswer_scs (b : Bool) (o : Reply) (body : SvcBody) (s : State) : (svcAnswer b o body s).scs = s.scs := rfl
@[simp] theorem svcAnswer_rli (b : Bool) (o : Reply) (body : SvcBody) (s : State) : (svcAnswer b o body s).rli = s.rli := rfl
@[simp] theorem svcAnswer_evu (b : Bool) (o : Reply) (body : SvcBody) (s : State) : (svcAnswer b o body s).evu = s.evu := rfl
@[simp] theorem svcAnswer_coreMs (b : Bool) (o : Reply) (body : SvcBody) (s : State) : (svcAnswer b o body s).coreMs = s.coreMs := rfl
@[simp] theorem svcAnswer_free (b : Bool) (o : Reply) (body : SvcBody) (s : State) : (svcAnswer b o body s).free = s.free := rfl
@[simp] theorem svcAnswer_pending (b : Bool) (o : Reply) (body : SvcBody) (s : State) : (svcAnswer b o body s).pending = s.pending := rfl

/-! ### `takeSpace` -/

@[simp] theorem takeSpace_pins (r : Req) (n : Nat) (s : State) : (takeSpace r n s).pins = s.pins := rfl
@[simp] theorem takeSpace_store (r : Req) (n : Nat) (s : State) : (takeSpace r n s).store = s.store := rfl
@[simp] theorem takeSpace_ctc (r : Req) (n : Nat) (s : State) : (takeSpace r n s).ctc = s.ctc := rfl
@[simp] theorem takeSpace_rck (r : Req) (n : Nat) (s : State) : (takeSpace r n s).rck = s.rck := rfl
@[simp] theorem takeSpace_hdu (r : Req) (n : Nat) (s : State) : (takeSpace r n s).hdu = s.hdu := rfl
@[simp] theorem takeSpace_rwk (r : Req) (n : Nat) (s : State) : (takeSpace r n s).rwk = s.rwk := rfl
@[simp] theorem takeSpace_pbc (r : Req) (n : Nat) (s : State) : (takeSpace r n s).pbc = s.pbc := rfl
@[simp] theorem takeSpace_exg (r : Req) (n : Nat) (s : State) : (takeSpace r n s).exg = s.exg := rfl
@[simp] theorem takeSpace_mar (r : Req) (n : Nat) (s : State) : (takeSpace r n s).mar = s.mar := rfl
@[simp] theorem takeSpace_scs (r : Req) (n : Nat) (s : State) : (takeSpace r n s).scs = s.scs := rfl
@[simp] theorem takeSpace_evu (r : Req) (n : Nat) (s : State) : (takeSpace r n s).evu = s.evu := rfl
@[simp] theorem takeSpace_sli (r : Req) (n : Nat) (s : State) : (takeSpace r n s).sli = s.sli := rfl
@[simp] theorem takeSpace_coreMs (r : Req) (n : Nat) (s : State) : (takeSpace r n s).coreMs = s.coreMs := rfl
@[simp] theorem takeSpace_free (r : Req) (n : Nat) (s : State) : (takeSpace r n s).free = s.free := rfl
@[simp] theorem takeSpace_pending (r : Req) (n : Nat) (s : State) : (takeSpace r n s).pending = s.pending := rfl

/-! ### `ageRound` -/

@[simp] theorem ageRound_pins (s : State) : (ageRound s).pins = s.pins := rfl
@[simp] theorem ageRound_store (s : State) : (ageRound s).store = s.store := rfl
@[simp] theorem ageRound_ctc (s : State) : (ageRound s).ctc = s.ctc := rfl
@[simp] theorem ageRound_rck (s : State) : (ageRound s).rck = s.rck := rfl
@[simp] theorem ageRound_rwk (s : State) : (ageRound s).rwk = s.rwk := rfl
@[simp] theorem ageRound_pbc (s : State) : (ageRound s).pbc = s.pbc := rfl
@[simp] theorem ageRound_cnu (s : State) : (ageRound s).cnu = s.cnu := rfl
@[simp] theorem ageRound_exg (s : State) : (ageRound s).exg = s.exg := rfl
@[simp] theorem ageRound_mar (s : State) : (ageRound s).mar = s.mar := rfl
@[simp] theorem ageRound_scs (s : State) : (ageRound s).scs = s.scs := rfl
@[simp] theorem ageRound_rli (s : State) : (ageRound s).rli = s.rli := rfl
@[simp] theorem ageRound_evu (s : State) : (ageRound s).evu = s.evu := rfl
@[simp] theorem ageRound_sli (s : State) : (ageRound s).sli = s.sli := rfl
@[simp] theorem ageRound_coreMs (s : State) : (ageRound s).coreMs = s.coreMs := rfl
@[simp] theorem ageRound_free (s : State) : (ageRound s).free = s.free := rfl
@[simp] theorem ageRound_pending (s : State) : (ageRound s).pending = s.pending := rfl

/-! ### `readDone` -/

@[simp] theorem readDone_pins (s : State) : (readDone s).pins = s.pins := rfl
@[simp] theorem readDone_store (s : State) : (readDone s).store = s.store := rfl
@[simp] theorem readDone_rck (s : State) : (readDone s).rck = s.rck := rfl
@[simp] theorem readDone_hdu (s : State) : (readDone s).hdu = s.hdu := rfl
@[simp] theorem readDone_rwk (s : State) : (readDone s).rwk = s.rwk := rfl
@[simp] theorem readDone_pbc (s : State) : (readDone s).pbc = s.pbc := rfl
@[simp] theorem readDone_cnu (s : State) : (readDone s).cnu = s.cnu := rfl
@[simp] theorem readDone_exg (s : State) : (readDone s).exg = s.exg := rfl
@[simp] theorem readDone_mar (s : State) : (readDone s).mar = s.mar := rfl
@[simp] theorem readDone_scs (s : State) : (readDone s).scs = s.scs := rfl
@[simp] theorem readDone_rli (s : State) : (readDone s).rli = s.rli := rfl
@[simp] theorem readDone_evu (s : State) : (readDone s).evu = s.evu := rfl
@[simp] theorem readDone_sli (s : State) : (readDone s).sli = s.sli := rfl
@[simp] theorem readDone_coreMs (s : State) : (readDone s).coreMs = s.coreMs := rfl
@[simp] theorem readDone_free (s : State) : (readDone s).free = s.free := rfl
@[simp] theorem readDone_pending (s : State) : (readDone s).pending = s.pending := rfl

/-! ### `candidateUnwanted` -/

@[simp] theorem candidateUnwanted_pins (key : ShortKey) (s : State) : (candidateUnwanted key s).pins = s.pins := rfl
@[simp] theorem candidateUnwanted_store (key : ShortKey) (s : State) : (candidateUnwanted key s).store = s.store := rfl
@[simp] theorem candidateUnwanted_ctc (key : ShortKey) (s : State) : (candidateUnwanted key s).ctc = s.ctc := rfl
@[simp] theorem candidateUnwanted_rck (key : ShortKey) (s : State) : (candidateUnwanted key s).rck = s.rck := rfl
@[simp] theorem candidateUnwanted_hdu (key : ShortKey) (s : State) : (candidateUnwanted key s).hdu = s.hdu := rfl
@[simp] theorem candidateUnwanted_rwk (key : ShortKey) (s : State) : (candidateUnwanted key s).rwk = s.rwk := rfl
@[simp] theorem candidateUnwanted_pbc (key : ShortKey) (s : State) : (candidateUnwanted key s).pbc = s.pbc := rfl
@[simp] theorem candidateUnwanted_exg (key : ShortKey) (s : State) : (candidateUnwanted key s).exg = s.exg := rfl
@[simp] theorem candidateUnwanted_mar (key : ShortKey) (s : State) : (candidateUnwanted key s).mar = s.mar := rfl
@[simp] theorem candidateUnwanted_scs (key : ShortKey) (s : State) : (candidateUnwanted key s).scs = s.scs := rfl
@[simp] theorem candidateUnwanted_rli (key : ShortKey) (s : State) : (candidateUnwanted key s).rli = s.rli := rfl
@[simp] theorem candidateUnwanted_evu (key : ShortKey) (s : State) : (candidateUnwanted key s).evu = s.evu := rfl
@[simp] theorem candidateUnwanted_sli (key : ShortKey) (s : State) : (candidateUnwanted key s).sli = s.sli := rfl
@[simp] theorem candidateUnwanted_coreMs (key : ShortKey) (s : State) : (candidateUnwanted key s).coreMs = s.coreMs := rfl
@[simp] theorem candidateUnwanted_free (key : ShortKey) (s : State) : (candidateUnwanted key s).free = s.free := rfl
@[simp] theorem candidateUnwanted_pending (key : ShortKey) (s : State) : (candidateUnwanted key s).pending = s.pending := rfl

/-! ### `restartBeacon` -/

@[simp] theorem restartBeacon_pins (s : State) : (restartBeacon s).pins = s.pins := rfl
@[simp] theorem restartBeacon_store (s : State) : (restartBeacon s).store = s.store := rfl
@[simp] theorem restartBeacon_ctc (s : State) : (restartBeacon s).ctc = s.ctc := rfl
@[simp] theorem restartBeacon_rck (s : State) : (restartBeacon s).rck = s.rck := rfl
@[simp] theorem restartBeacon_hdu (s : State) : (restartBeacon s).hdu = s.hdu := rfl
@[simp] theorem restartBeacon_rwk (s : State) : (restartBeacon s).rwk = s.rwk := rfl
@[simp] theorem restartBeacon_cnu (s : State) : (restartBeacon s).cnu = s.cnu := rfl
@[simp] theorem restartBeacon_exg (s : State) : (restartBeacon s).exg = s.exg := rfl
@[simp] theorem restartBeacon_mar (s : State) : (restartBeacon s).mar = s.mar := rfl
@[simp] theorem restartBeacon_scs (s : State) : (restartBeacon s).scs = s.scs := rfl
@[simp] theorem restartBeacon_rli (s : State) : (restartBeacon s).rli = s.rli := rfl
@[simp] theorem restartBeacon_evu (s : State) : (restartBeacon s).evu = s.evu := rfl
@[simp] theorem restartBeacon_sli (s : State) : (restartBeacon s).sli = s.sli := rfl
@[simp] theorem restartBeacon_coreMs (s : State) : (restartBeacon s).coreMs = s.coreMs := rfl
@[simp] theorem restartBeacon_free (s : State) : (restartBeacon s).free = s.free := rfl
@[simp] theorem restartBeacon_pending (s : State) : (restartBeacon s).pending = s.pending := rfl

/-! ### `becomeVoiced` -/

@[simp] theorem becomeVoiced_pins (s : State) : (becomeVoiced s).pins = s.pins := rfl
@[simp] theorem becomeVoiced_store (s : State) : (becomeVoiced s).store = s.store := rfl
@[simp] theorem becomeVoiced_ctc (s : State) : (becomeVoiced s).ctc = s.ctc := rfl
@[simp] theorem becomeVoiced_rck (s : State) : (becomeVoiced s).rck = s.rck := rfl
@[simp] theorem becomeVoiced_hdu (s : State) : (becomeVoiced s).hdu = s.hdu := rfl
@[simp] theorem becomeVoiced_rwk (s : State) : (becomeVoiced s).rwk = s.rwk := rfl
@[simp] theorem becomeVoiced_cnu (s : State) : (becomeVoiced s).cnu = s.cnu := rfl
@[simp] theorem becomeVoiced_exg (s : State) : (becomeVoiced s).exg = s.exg := rfl
@[simp] theorem becomeVoiced_mar (s : State) : (becomeVoiced s).mar = s.mar := rfl
@[simp] theorem becomeVoiced_scs (s : State) : (becomeVoiced s).scs = s.scs := rfl
@[simp] theorem becomeVoiced_rli (s : State) : (becomeVoiced s).rli = s.rli := rfl
@[simp] theorem becomeVoiced_sli (s : State) : (becomeVoiced s).sli = s.sli := rfl
@[simp] theorem becomeVoiced_coreMs (s : State) : (becomeVoiced s).coreMs = s.coreMs := rfl
@[simp] theorem becomeVoiced_free (s : State) : (becomeVoiced s).free = s.free := rfl
@[simp] theorem becomeVoiced_pending (s : State) : (becomeVoiced s).pending = s.pending := rfl

/-! ### What they set -/

@[simp] theorem raise_enables (e : Event) (s : State) : (raise e s).evu.enables = s.evu.enables := rfl
@[simp] theorem raise_flags (e : Event) (s : State) : (raise e s).evu.flags = s.evu.flags ||| e.mask := rfl
@[simp] theorem pushAnswer_answers (a : Answer) (s : State) :
    (pushAnswer a s).rli.answers = s.rli.answers ++ [⟨s.rli.moment, a⟩] := rfl
@[simp] theorem pushAnswer_tx (a : Answer) (s : State) : (pushAnswer a s).rli.tx = s.rli.tx := rfl
@[simp] theorem pushAnswer_requests (a : Answer) (s : State) : (pushAnswer a s).rli.requests = s.rli.requests := rfl
@[simp] theorem pushAnswer_notices (a : Answer) (s : State) : (pushAnswer a s).rli.notices = s.rli.notices := rfl
@[simp] theorem setWork_work (i : Nat) (e : Entry) (s : State) : (setWork i e s).ctc.work = catSet s.ctc.work i e := rfl
@[simp] theorem setWork_node (i : Nat) (e : Entry) (s : State) : (setWork i e s).ctc.node = s.ctc.node := rfl
@[simp] theorem setWork_writes (i : Nat) (e : Entry) (s : State) : (setWork i e s).ctc.writes = s.ctc.writes := rfl
@[simp] theorem readDone_ctc (s : State) : (readDone s).ctc = { s.ctc with unread := [] } := rfl
@[simp] theorem candidateUnwanted_candidates (key : ShortKey) (s : State) : (candidateUnwanted key s).cnu.candidates =
    s.cnu.candidates.filter fun c => decide (c.key ≠ key) || !isDue s (some (unwantedTime s c)) := rfl
@[simp] theorem restartBeacon_sendQueue (s : State) : (restartBeacon s).pbc.sendQueue = s.pbc.sendQueue := rfl
@[simp] theorem enqueue_sendQueue (q : SendItem) (s : State) : (enqueue q s).pbc.sendQueue = insertSend q s.pbc.sendQueue := rfl
@[simp] theorem release_inFlight (c : MediaCmd) (s : State) :
    (release c s).mar.inFlight = some ⟨s.mar.issueTag + 1, c⟩ := rfl
@[simp] theorem release_gated (c : MediaCmd) (s : State) : (release c s).mar.gated = s.mar.gated := rfl
@[simp] theorem release_erases (c : MediaCmd) (s : State) : (release c s).mar.erases = s.mar.erases := rfl

end Sys2Proof.Machine
end

