-- ==== Sys2Proof/Laws/Catalogue.lean ====
section
/-! SUPPORT. The sparse catalogue: its one write keeps the canonical form, a read after a write of the same index gives
the record written, and a write leaves every other index alone. -/

namespace Sys2Proof.Machine

/-- Every index listed in a canonical catalogue's tail is above its head's. -/
theorem catWf_cons (i : Nat) (e : Entry) (c : Cat) :
    catWf ((i, e) :: c) = true ↔ e ≠ freeEntry ∧ (∀ p ∈ c, i < p.1) ∧ catWf c = true := by
  simp [catWf, and_assoc]

theorem mem_catSet {c : Cat} {i : Nat} {e : Entry} {p : Nat × Entry} (h : p ∈ catSet c i e) : p = (i, e) ∨ p ∈ c := by
  induction c with
  | nil =>
    unfold catSet at h
    split_ifs at h <;> simp_all
  | cons q rest ih =>
    obtain ⟨j, f⟩ := q
    unfold catSet at h
    split_ifs at h <;> simp only [List.mem_cons] at h ⊢ <;> tauto

/-- A write keeps the canonical form. -/
theorem catWf_catSet {c : Cat} (i : Nat) (e : Entry) (h : catWf c = true) : catWf (catSet c i e) = true := by
  induction c with
  | nil =>
    unfold catSet
    split_ifs with he
    · rfl
    · simp [catWf, he]
  | cons q rest ih =>
    obtain ⟨j, f⟩ := q
    obtain ⟨hf, hlt, hr⟩ := (catWf_cons j f rest).1 h
    unfold catSet
    split_ifs with h1 he h2 he'
    · exact h
    · refine (catWf_cons _ _ _).2 ⟨he, ?_, h⟩
      intro p hp
      rcases List.mem_cons.1 hp with rfl | hp
      · exact h1
      · exact lt_trans h1 (hlt p hp)
    · exact hr
    · subst h2
      exact (catWf_cons _ _ _).2 ⟨he', hlt, hr⟩
    · refine (catWf_cons _ _ _).2 ⟨hf, ?_, ih hr⟩
      intro p hp
      rcases mem_catSet hp with rfl | hp
      · exact lt_of_le_of_ne (not_lt.1 h1) (Ne.symm h2)
      · exact hlt p hp

theorem catGet_above {c : Cat} {i : Nat} (h : ∀ p ∈ c, i < p.1) : catGet c i = freeEntry := by
  induction c with
  | nil => rfl
  | cons q rest ih =>
    have hq : i < q.1 := h q (by simp)
    simp [catGet, Nat.ne_of_gt hq, ih fun p hp => h p (by simp [hp])]

/-- A read of the index written gives the record written. -/
theorem catGet_catSet_self {c : Cat} (i : Nat) (e : Entry) (h : catWf c = true) : catGet (catSet c i e) i = e := by
  induction c with
  | nil =>
    unfold catSet
    split_ifs with he
    · simp [catGet, he]
    · simp [catGet]
  | cons q rest ih =>
    obtain ⟨j, f⟩ := q
    obtain ⟨-, hlt, hr⟩ := (catWf_cons j f rest).1 h
    unfold catSet
    split_ifs with h1 he h2 he'
    · have := catGet_above (c := rest) (i := i) fun p hp => lt_trans h1 (hlt p hp)
      simp [catGet, this, Nat.ne_of_gt h1, he]
    · simp [catGet]
    · subst h2
      rw [catGet_above hlt, he']
    · simp [catGet]
    · simp [catGet, Ne.symm h2, ih hr]

/-- A write leaves every other index as it was. -/
theorem catGet_catSet_ne {c : Cat} {i k : Nat} (e : Entry) (hk : k ≠ i) : catGet (catSet c i e) k = catGet c k := by
  induction c with
  | nil =>
    unfold catSet
    split_ifs <;> simp [catGet, Ne.symm hk]
  | cons q rest ih =>
    obtain ⟨j, f⟩ := q
    unfold catSet
    split_ifs with h1 he h2 he'
    · rfl
    · simp [catGet, Ne.symm hk]
    · subst h2
      simp [catGet, Ne.symm hk]
    · subst h2
      simp [catGet, Ne.symm hk]
    · simp [catGet, ih]

/-- A record is passed over exactly where its failed read stands in STORE FAULT (R11, log 48). -/
theorem skips_iff (s : State) (i : Nat) : skips s i = true ↔ Unreadable s i := by
  simp [skips, Unreadable]

/-- What an action that needs one record does: it passes over an unreadable one, and the failed reads are gone with that;
otherwise it acts. -/
theorem withRecord_eq (i : Nat) (act : State → State) (s : State) :
    withRecord i act s = if Unreadable s i then withAllRead s else act s := by
  by_cases h : Unreadable s i
  · rw [withRecord, if_pos ((skips_iff s i).mpr h), if_pos h]; rfl
  · rw [withRecord, if_neg (fun k => h ((skips_iff s i).mp k)), if_neg h]

/-! ### What the service line shows (R189, R190) -/

/-- When an answer about an entry bears CHANGING. -/
theorem entryChanging_iff (s : State) (i : Nat) : entryChanging s i = true ↔
    s.ctc.node = .storeFault ∨ (∃ w ∈ s.ctc.writes, w.index = i) ∨ ∃ w, s.rwk.walk = some w ∧ w.visiting = some i := by
  cases h : s.rwk.walk <;> simp [entryChanging, isChanging, h, or_assoc]

/-- The record that an answer carries. -/
theorem shownEntry_eq (e : Entry) : shownEntry e = if e.state ≠ .free then e
    else if e.owed = .dropFrame then { shortKey := e.shortKey, owed := .dropFrame } else {} := by
  simp only [shownEntry, ne_eq, ite_not]; rfl

end Sys2Proof.Machine
end

