-- ==== Sys2Proof/Laws/Line.lean ====
section
/-! SUPPORT. The bits of the line that a SILENT node reads (R114): what its operations can do, said once. -/

namespace Sys2Proof.Machine

/-- The recessive bits that came before the flags of other nodes, where such came, by the free values at `n`. -/
def gapLead (n : Nat) : Option Nat := if Config.gapDominant n then some (Config.gapLead n) else none

/-- The bits between two events of the line move the recovery counts alone. -/
theorem countGap_pbc (s : State) : (countGap s).pbc = { s.pbc with
    runCount := (gapCounts (gapLead s.free) (Config.gapBits s.free) s).1
    recoveryCount := (gapCounts (gapLead s.free) (Config.gapBits s.free) s).2 } := by
  cases h : Config.gapDominant s.free <;> simp [countGap, countToDominant, countRecessive, gapCounts, gapLead, afterRecessive, h]

/-- Recessive bits take nothing from a recovery count. -/
theorem afterRecessive_keeps (n : Nat) {c : Nat × Nat} (h : c.2 ≤ 64) : c.2 ≤ (afterRecessive n c).2 :=
  Nat.le_min.mpr ⟨h, Nat.le_add_right _ _⟩

/-- A recovery count of 64 stays through the bits between two events of the line. -/
theorem countGap_full {s : State} (h : s.pbc.recoveryCount = 64) : (countGap s).pbc.recoveryCount = 64 := by
  have lo (n : Nat) {c : Nat × Nat} (hc : c.2 = 64) : (afterRecessive n c).2 = 64 :=
    Nat.le_antisymm (Nat.min_le_left _ _) (hc ▸ afterRecessive_keeps n (Nat.le_of_eq hc))
  rw [countGap_pbc]
  show (gapCounts _ _ s).2 = 64
  unfold gapCounts
  cases gapLead s.free with
  | none => exact lo _ h
  | some lead => exact lo _ (lo lead h)

/-- They are counted once, and nothing else of the part changes. -/
theorem countGap_eq (s : State) : countGap s = { s with pbc := (countGap s).pbc, free := s.free + 1 } := by
  cases h : Config.gapDominant s.free <;> simp [countGap, countToDominant, countRecessive, h]

/-- What the bits before an event of the line make of a node: nothing unless it is SILENT, the return from SILENT where its
recovery count has come to 64, and the counts otherwise. -/
theorem readGap_eq (s : State) : readGap s =
    if s.pbc.confinement = .silent then
      if 64 ≤ (countGap s).pbc.recoveryCount then leaveSilent (countGap s) else countGap s
    else s := rfl

/-- What the bits of an error sequence up to its first dominant run make of a SILENT node: the run count is 0, and the
recovery count takes the recessive bits before that run and may come to 64. -/
theorem readDominantRun_eq (s u : State) (h : u = { s with
      pbc := { s.pbc with
        runCount := 0
        recoveryCount := (afterRecessive (Config.gapLead s.free % 17) (s.pbc.runCount, s.pbc.recoveryCount)).2 }
      free := s.free + 1 }) :
    readDominantRun s = if 64 ≤ u.pbc.recoveryCount then leaveSilent u else u := by
  subst h; rfl

theorem becomeVoiced_pbc (s : State) : (becomeVoiced s).pbc = { s.pbc with
    confinement := .voiced, sendCount := 0, recvCount := 0, caution := false, awaitingEleven := false, errorSeq := none } := rfl

end Sys2Proof.Machine
end

