-- ==== Sys2Proof/Laws/Link.lean ====
section
/-! SUPPORT. The request link: what its operations can do, said once. -/

namespace Sys2Proof.Machine

theorem beginTx_same (w : Nat × TxFrame) (s : State) : SameButLink (beginTx w s) s := by
  unfold beginTx SameButLink
  split <;> rfl

/-- The transmitter changes the link alone, and the count of free values. -/
theorem startTx_same (s : State) : SameButLink (startTx s) s := by
  unfold startTx
  split
  · rfl
  · split
    · rfl
    · exact beginTx_same _ _
    · unfold beginTx SameButLink
      split <;> rfl

/-- The link's part at the end of a command changes the link alone. -/
theorem linkEnd_same (s : State) : SameButLink (linkEnd s) s := by
  have h := startTx_same (closeMoment s)
  unfold SameButLink at h ⊢
  unfold linkEnd
  have h2 : ({ startTx (closeMoment s) with rli := s.rli, free := s.free } : State) =
      { ({ startTx (closeMoment s) with rli := (closeMoment s).rli, free := (closeMoment s).free } : State) with
        rli := s.rli, free := s.free } := rfl
  rw [h2, h]
  unfold closeMoment
  split <;> rfl

/-- Posting a notice changes the link alone. -/
theorem postNotice_same (n : Notice) (s : State) : SameButLink (postNotice n s) s := by
  unfold postNotice SameButLink
  split <;> rfl

/-- The queue of requests is not touched by the link's part at the end of a command. -/
theorem linkEnd_requests (s : State) : (linkEnd s).rli.requests = s.rli.requests := by
  have h1 : (closeMoment s).rli.requests = s.rli.requests := by
    unfold closeMoment
    split <;> rfl
  have h2 (u : State) : (startTx u).rli.requests = u.rli.requests := by
    unfold startTx beginTx
    repeat' split
    all_goals rfl
  exact (h2 _).trans h1

/-- A request is handed to its owner from the end of the queue, when it is accepted. -/
theorem request_accepted {tag kind : Byte} {s : State} {owner : Req → State → State} (h : Accepting s tag) :
    request tag kind true s owner = .next (linkEnd (owner ⟨tag, kind⟩ (enterQueue ⟨tag, kind⟩ s))) := by
  obtain ⟨hp, ht, hl, ho⟩ := h
  have hl' : ¬ 32 ≤ s.rli.requests.length := by omega
  have hp' : s.pins.power = .on := hp
  unfold request powered arrive
  rw [if_pos hp']
  simp only [Bool.not_true, Bool.false_eq_true, if_false, if_neg ht, if_neg hl', ho]

theorem closeMoment_rli (s : State) :
    (closeMoment s).rli.requests = s.rli.requests ∧ (closeMoment s).rli.notices = s.rli.notices ∧
      (closeMoment s).rli.starting = s.rli.starting ∧ (closeMoment s).rli.tx = s.rli.tx ∧
      (closeMoment s).rli.answers = s.rli.answers := by
  unfold closeMoment
  split <;> exact ⟨rfl, rfl, rfl, rfl, rfl⟩

theorem beginTx_rli (w : Nat × TxFrame) (s : State) :
    (beginTx w s).rli.requests = s.rli.requests ∧ (beginTx w s).rli.notices = s.rli.notices ∧
      (beginTx w s).rli.starting = s.rli.starting := by
  unfold beginTx
  split <;> exact ⟨rfl, rfl, rfl⟩

/-- A waiting frame that the transmitter begins leaves every answer on its way. -/
theorem beginTx_given {w : Nat × TxFrame} {s : State} (hw : w ∈ waitingFrames s) (ht : s.rli.tx = none) (a : Answer) :
    Given (beginTx w s) a ↔ Given s a := by
  obtain ⟨n, f⟩ := w
  cases f with
  | notice x => simp [Given, beginTx, ht]
  | answer b =>
    have hb : ReadyAnswer.mk n b ∈ s.rli.answers := by
      unfold waitingFrames at hw
      rcases List.mem_append.1 hw with h | h
      · obtain ⟨x, hx, he⟩ := List.mem_map.1 h
        obtain ⟨k, y⟩ := x
        simp only [Prod.mk.injEq, TxFrame.answer.injEq] at he
        obtain ⟨rfl, rfl⟩ := he
        exact hx
      · split at h <;> simp_all
    constructor
    · rintro (⟨k, hk⟩ | h)
      · exact .inl ⟨k, List.mem_of_mem_erase hk⟩
      · simp only [beginTx, Option.some.injEq, TxFrame.answer.injEq] at h
        exact .inl ⟨n, h ▸ hb⟩
    · rintro (⟨k, hk⟩ | h)
      · by_cases hab : a = b
        · exact .inr (by simp [beginTx, hab])
        · refine .inl ⟨k, ?_⟩
          have hne : ReadyAnswer.mk k a ≠ ReadyAnswer.mk n b := by simp [hab]
          exact (List.mem_erase_of_ne hne).2 hk
      · simp [ht] at h

/-- An idle transmitter begins a waiting frame; a frame being sent goes on. Nothing else of the link changes. -/
theorem startTx_link (s : State) :
    (startTx s).rli.requests = s.rli.requests ∧ (startTx s).rli.notices = s.rli.notices ∧
      (startTx s).rli.starting = s.rli.starting ∧ (∀ f, s.rli.tx = some f → (startTx s).rli.tx = some f) ∧
      ∀ a, Given (startTx s) a ↔ Given s a := by
  unfold startTx
  split
  · exact ⟨rfl, rfl, rfl, fun _ h => h, fun _ => Iff.rfl⟩
  · rename_i ht
    have ht' : s.rli.tx = none := by simpa using ht
    have hf : ∀ f, s.rli.tx = some f → ∀ u : State, u.rli.tx = some f := by simp [ht']
    have hm : ∀ w ∈ earliestFrames s, w ∈ waitingFrames s := fun w hw => (List.mem_filter.1 hw).1
    split
    · exact ⟨rfl, rfl, rfl, fun _ h => h, fun _ => Iff.rfl⟩
    · rename_i w he
      obtain ⟨h1, h2, h3⟩ := beginTx_rli w s
      exact ⟨h1, h2, h3, fun f h => hf f h _, beginTx_given (hm w (by simp [he])) ht'⟩
    · rename_i w ws _ he
      generalize hx : (w :: ws).getD (Config.firstToSend s.free % (ws.length + 1)) w = x
      have hxm : x ∈ w :: ws := by
        have hl : Config.firstToSend s.free % (ws.length + 1) < (w :: ws).length := Nat.mod_lt _ (by simp)
        rw [← hx, List.getD_eq_getElem _ _ hl]
        exact List.getElem_mem hl
      obtain ⟨h1, h2, h3⟩ := beginTx_rli x { s with free := s.free + 1 }
      exact ⟨h1, h2, h3, fun f h => hf f h _,
        beginTx_given (s := { s with free := s.free + 1 }) (hm x (by rw [he]; exact hxm)) ht'⟩

/-- The link's part at the end of a command: an idle transmitter may begin a waiting frame, and nothing else changes. -/
theorem linkEnd_link (s : State) :
    (linkEnd s).rli.requests = s.rli.requests ∧ (linkEnd s).rli.notices = s.rli.notices ∧
      (linkEnd s).rli.starting = s.rli.starting ∧ (∀ f, s.rli.tx = some f → (linkEnd s).rli.tx = some f) ∧
      ∀ a, Given (linkEnd s) a ↔ Given s a := by
  obtain ⟨h1, h2, h3, h4, h5⟩ := startTx_link (closeMoment s)
  obtain ⟨g1, g2, g3, g4, g5⟩ := closeMoment_rli s
  refine ⟨h1.trans g1, h2.trans g2, h3.trans g3, fun f h => h4 f (g4.trans h), fun a => (h5 a).trans ?_⟩
  simp only [Given, g4, g5]

/-- A command that ends with the link's part ends as `Ends` says, where its own part did. -/
theorem ends_linkEnd {c : Instr} {s u e : State} {new : List Answer} (hx : exec c s = .next (linkEnd u))
    (hs : SameButLink u e) (hr : u.rli.requests = e.rli.requests) (hn : u.rli.notices = e.rli.notices)
    (hst : u.rli.starting = e.rli.starting) (ht : u.rli.tx = s.rli.tx)
    (hg : ∀ a, Given u a ↔ Given s a ∨ a ∈ new) : Ends c s e new := by
  obtain ⟨h1, h2, h3, h4, h5⟩ := linkEnd_link u
  refine ⟨_, hx, ?_, h1.trans hr, h2.trans hn, h3.trans hst, fun f h => h4 f (ht.trans h), fun a => (h5 a).trans (hg a)⟩
  have h := linkEnd_same u
  unfold SameButLink at h hs ⊢
  have h2 : ({ linkEnd u with rli := e.rli, free := e.free } : State) =
      { ({ linkEnd u with rli := u.rli, free := u.free } : State) with rli := e.rli, free := e.free } := rfl
  rw [h2, h, hs]

/-- An answer that becomes ready joins those on their way. -/
theorem pushAnswer_given (b : Answer) (s : State) (a : Answer) : Given (pushAnswer b s) a ↔ Given s a ∨ a = b := by
  simp only [Given, pushAnswer, List.mem_append, List.mem_singleton, ReadyAnswer.mk.injEq]
  constructor
  · rintro (⟨n, h | ⟨-, h⟩⟩ | h)
    · exact .inl (.inl ⟨n, h⟩)
    · exact .inr h
    · exact .inl (.inr h)
  · rintro ((⟨n, h⟩ | h) | h)
    · exact .inl ⟨n, .inl h⟩
    · exact .inr h
    · exact .inl ⟨_, .inr ⟨rfl, h⟩⟩

end Sys2Proof.Machine
end

