-- ==== Sys2Proof/Laws/Media.lean ====
section
/-! SUPPORT. The media tail, which ends every command that may have changed work, the port or the scrub conditions: it
neither reads nor changes the link, and it changes the walk, CTC, MAR and SCS alone. -/

namespace Sys2Proof.Machine

/-- The request link replaced. -/
def onLink (l : Rli) (s : State) : State := { s with rli := l }

theorem ite_onLink (c : Prop) [Decidable c] (l : Rli) (a b : State) :
    (if c then onLink l a else onLink l b) = onLink l (if c then a else b) := by split <;> rfl

theorem startRefresh_onLink (l : Rli) (s : State) : startRefresh (onLink l s) = onLink l (startRefresh s) := rfl

theorem endWalk_onLink (l : Rli) (s : State) : endWalk (onLink l s) = onLink l (endWalk s) := by
  unfold endWalk
  rw [← ite_onLink]
  rfl

theorem maybeRunning_onLink (l : Rli) (s : State) : maybeRunning (onLink l s) = onLink l (maybeRunning s) := by
  unfold maybeRunning
  rw [← ite_onLink]
  rfl

theorem endLoadWalk_onLink (l : Rli) (s : State) : endLoadWalk (onLink l s) = onLink l (endLoadWalk s) := by
  unfold endLoadWalk
  rw [← maybeRunning_onLink, ← endWalk_onLink]
  rfl

theorem walkProgress_onLink (l : Rli) (s : State) : walkProgress (onLink l s) = onLink l (walkProgress s) := by
  unfold walkProgress
  have h1 : (onLink l s).rwk = s.rwk := rfl
  have h2 (n) : nextOccupied (onLink l s) n = nextOccupied s n := rfl
  rw [h1]
  split
  · split
    · rfl
    · split
      · rw [← ite_onLink, endLoadWalk_onLink]
      · rw [h2, ← ite_onLink, endWalk_onLink]
  · rfl

theorem offerScrub_onLink (l : Rli) (s : State) : offerScrub (onLink l s) = onLink l (offerScrub s) := by
  unfold offerScrub
  simp only [← ite_onLink]
  rfl

theorem release_onLink (c : MediaCmd) (l : Rli) (s : State) : release c (onLink l s) = onLink l (release c s) := rfl

theorem raise_onLink (e : Event) (l : Rli) (s : State) : raise e (onLink l s) = onLink l (raise e s) := rfl

theorem recordHit_onLink (h : Option Hit) (l : Rli) (s : State) : recordHit h (onLink l s) = onLink l (recordHit h s) := by
  unfold recordHit
  split
  · rfl
  · rw [← ite_onLink]
    rfl

theorem queueWrite_onLink (w : EntryWrite) (l : Rli) (s : State) : queueWrite w (onLink l s) = onLink l (queueWrite w s) := by
  unfold queueWrite
  rw [← ite_onLink, recordHit_onLink]
  rfl

theorem noteScrubbable_onLink (i : Nat) (a b : EntryState) (l : Rli) (s : State) :
    noteScrubbable i a b (onLink l s) = onLink l (noteScrubbable i a b s) := by
  unfold noteScrubbable
  simp only [← ite_onLink]
  rfl

theorem changeEntry_onLink (i : Nat) (e : Entry) (c : HitCauses) (fs : List Effect) (l : Rli) (s : State) :
    changeEntry i e c fs (onLink l s) = onLink l (changeEntry i e c fs s) := by
  unfold changeEntry
  dsimp only
  rw [← queueWrite_onLink, ← noteScrubbable_onLink]
  rfl

theorem grantErase_onLink (w : EraseWork) (rest : List EraseWork) (l : Rli) (s : State) :
    grantErase w rest (onLink l s) = onLink l (grantErase w rest s) := by
  unfold grantErase
  dsimp only
  rw [← ite_onLink, ← changeEntry_onLink, ← release_onLink]
  rfl

theorem grantLateScrub_onLink (l : Rli) (s : State) : grantLateScrub (onLink l s) = onLink l (grantLateScrub s) := by
  unfold grantLateScrub
  have h1 : (onLink l s).scs = s.scs := rfl
  rw [h1]
  split
  · rw [← ite_onLink]; rfl
  · rfl

theorem grantFromErase_onLink (l : Rli) (s : State) : grantFromErase (onLink l s) = onLink l (grantFromErase s) := by
  unfold grantFromErase
  have h1 : (onLink l s).mar = s.mar := rfl
  rw [h1]
  split
  · rw [← ite_onLink, grantErase_onLink, grantLateScrub_onLink]; rfl
  · exact grantLateScrub_onLink l s

theorem grantFromHost_onLink (l : Rli) (s : State) : grantFromHost (onLink l s) = onLink l (grantFromHost s) := by
  unfold grantFromHost
  have h1 : (onLink l s).mar = s.mar := rfl
  rw [h1]
  split
  · rfl
  · exact grantFromErase_onLink l s

theorem grantFromVerify_onLink (l : Rli) (s : State) : grantFromVerify (onLink l s) = onLink l (grantFromVerify s) := by
  unfold grantFromVerify
  have h1 : (onLink l s).mar.verifies.find? (verifyEligible (onLink l s)) = s.mar.verifies.find? (verifyEligible s) := rfl
  rw [h1]
  split
  · rfl
  · exact grantFromHost_onLink l s

theorem grantPort_onLink (l : Rli) (s : State) : grantPort (onLink l s) = onLink l (grantPort s) := by
  unfold grantPort
  have h1 : (onLink l s).scs = s.scs := rfl
  have h2 : portFree (onLink l s) = portFree s := rfl
  rw [h1, h2, grantFromVerify_onLink]
  split
  · split
    · rw [← ite_onLink]; rfl
    · rfl
  · rfl

/-- The media tail does not read the link, nor change it. -/
theorem mediaTail_onLink (l : Rli) (s : State) : mediaTail (onLink l s) = onLink l (mediaTail s) := by
  unfold mediaTail
  rw [walkProgress_onLink, offerScrub_onLink, grantPort_onLink]

/-- Two states agree in everything but RWK, CTC, MAR and SCS. -/
def MediaOnly (t s : State) : Prop := { t with rwk := s.rwk, ctc := s.ctc, mar := s.mar, scs := s.scs } = s

theorem MediaOnly.trans {u t s : State} (h : MediaOnly u t) (g : MediaOnly t s) : MediaOnly u s := by
  unfold MediaOnly at h g ⊢
  have h2 : ({ u with rwk := s.rwk, ctc := s.ctc, mar := s.mar, scs := s.scs } : State) =
      { ({ u with rwk := t.rwk, ctc := t.ctc, mar := t.mar, scs := t.scs } : State) with
        rwk := s.rwk, ctc := s.ctc, mar := s.mar, scs := s.scs } := rfl
  rw [h2, h, g]

theorem endWalk_only (s : State) : MediaOnly (endWalk s) s := by
  unfold endWalk
  split <;> rfl

theorem maybeRunning_only (s : State) : MediaOnly (maybeRunning s) s := by
  unfold maybeRunning
  split <;> rfl

theorem endLoadWalk_only (s : State) : MediaOnly (endLoadWalk s) s :=
  (maybeRunning_only _).trans ((endWalk_only _).trans rfl)

theorem walkProgress_only (s : State) : MediaOnly (walkProgress s) s := by
  unfold walkProgress
  split
  · split
    · rfl
    · split
      · split
        · rfl
        · exact endLoadWalk_only s
      · split
        · rfl
        · exact endWalk_only s
  · rfl

theorem offerScrub_only (s : State) : MediaOnly (offerScrub s) s := by
  unfold offerScrub
  split
  · split <;> rfl
  · rfl

theorem noteScrubbable_only (i : Nat) (a b : EntryState) (s : State) : MediaOnly (noteScrubbable i a b s) s := by
  unfold noteScrubbable
  split
  · rfl
  · split <;> rfl

/-- A change of an entry that no watch hit follows changes CTC and SCS alone. -/
theorem changeEntry_only (i : Nat) (e : Entry) (fs : List Effect) (s : State) : MediaOnly (changeEntry i e {} fs s) s := by
  unfold changeEntry queueWrite
  have h := (noteScrubbable_only i (entryAt s i).state e.state (setWork i e s)).trans (s := s) rfl
  dsimp only
  split
  · exact h
  · exact MediaOnly.trans (t := noteScrubbable i (entryAt s i).state e.state (setWork i e s)) rfl h

theorem grantErase_only (w : EraseWork) (rest : List EraseWork) (s : State) : MediaOnly (grantErase w rest s) s := by
  unfold grantErase
  dsimp only
  split
  · rfl
  · exact (changeEntry_only _ _ _ _).trans rfl

theorem grantLateScrub_only (s : State) : MediaOnly (grantLateScrub s) s := by
  unfold grantLateScrub
  split
  · split <;> rfl
  · rfl

theorem grantPort_only (s : State) : MediaOnly (grantPort s) s := by
  have h4 : MediaOnly (grantFromErase s) s := by
    unfold grantFromErase
    split
    · split
      · exact grantErase_only _ _ s
      · exact grantLateScrub_only s
    · exact grantLateScrub_only s
  have h3 : MediaOnly (grantFromHost s) s := by
    unfold grantFromHost
    split
    · rfl
    · exact h4
  have h2 : MediaOnly (grantFromVerify s) s := by
    unfold grantFromVerify
    split
    · rfl
    · exact h3
  unfold grantPort
  split
  · split
    · split
      · rfl
      · exact h2
    · exact h2
  · rfl

/-- The media tail changes the walk, CTC, MAR and SCS alone. -/
theorem mediaTail_only (s : State) : MediaOnly (mediaTail s) s :=
  (grantPort_only _).trans ((offerScrub_only _).trans (walkProgress_only s))

/-! ### The disposition queue and the map -/

/-- ERASEs enter behind those of every acceptance before their own and before those of every later one (R149). -/
theorem insertErases_append (new : List EraseWork) {order : Nat} {before after : List EraseWork}
    (hb : ∀ w ∈ before, w.order ≤ order) (ha : ∀ w ∈ after, order < w.order) :
    insertErases new order (before ++ after) = before ++ new ++ after := by
  induction before with
  | nil =>
    cases after with
    | nil => simp [insertErases]
    | cons w ws => simp [insertErases, ha w]
  | cons w ws ih =>
    have hw : ¬ order < w.order := by have := hb w (by simp); omega
    simp [insertErases, hw, ih fun x hx => hb x (by simp [hx])]

/-- The disposition queue holds what it held and the ERASEs that entered. -/
theorem mem_insertErases (new : List EraseWork) (order : Nat) (queue : List EraseWork) (x : EraseWork) :
    x ∈ insertErases new order queue ↔ x ∈ new ∨ x ∈ queue := by
  induction queue with
  | nil => simp [insertErases]
  | cons w ws ih =>
    unfold insertErases
    split
    · simp
    · simp [ih]
      tauto

/-- The passing of an accepted index changes the walk alone, and only the next index of a refresh walk (R83 <6>). -/
theorem passAccepted_eq (i : Nat) (s : State) : passAccepted i s =
    { s with rwk := { s.rwk with walk := match s.rwk.walk with
      | some ⟨.refresh epoch, low, none⟩ => some ⟨.refresh epoch, if low = i then i + 1 else low, none⟩
      | w => w } } := by
  have same {w : Option Walk} (h : s.rwk.walk = w) : s = { s with rwk := { s.rwk with walk := w } } := by subst h; rfl
  unfold passAccepted
  rcases h : s.rwk.walk with _ | ⟨kind, low, visiting⟩
  · exact same h
  · rcases kind with _ | epoch
    · exact same h
    · rcases visiting with _ | j
      · by_cases hl : low = i
        · simp [hl]
        · simpa [hl] using same h
      · exact same h

end Sys2Proof.Machine
end

