-- ==== Sys2Proof/WellFormed.lean ====
section
/-! DEFINITION. Which terms of `Instr` are commands at all. The operand types leave little to check: a request's operands
have the widths of Table 12-3, an internal index has 17 bits and a slot 6. What remains is the length of the three raw
operands, each bounded by its length field. -/

namespace Sys2Proof

/-- The length field of a peer frame has 6 bits (R87). -/
def maxPayload : Nat := 63

/-- A request link frame: two length bytes, at most 65,535 bytes they count, two check bytes (12.3). -/
def maxLinkFrame : Nat := 65539

/-- A service command: one length byte, at most 255 bytes it counts, two check bytes (12.4). -/
def maxServiceFrame : Nat := 258

/-- A command is well formed when a frame on its line can carry it. -/
def Instr.wellFormed : Instr → Bool
  | .frameReceived _ _ payload => decide (payload.length ≤ maxPayload)
  | .unknownRequestFrame bytes => decide (bytes.length ≤ maxLinkFrame)
  | .unknownServiceCommand bytes => decide (bytes.length ≤ maxServiceFrame)
  | _ => true

end Sys2Proof
end

