-- ==== Sys2Proof/Tests/Slice0.lean ====
section
/-! SUPPORT. Tests of the model: the well-formedness smoke, the spec's worked cases, one step of a command on a small
state, and a witness for the hypotheses of every statement that has some. Expected values come from spec/, named at each. -/

namespace Sys2Proof.Tests

open Sys2Proof Sys2Proof.Machine

-- One theorem after another: side by side they would each hold a thread of the compiler.
set_option Elab.async false

/-! ### Well-formedness smoke -/

/-- R87: the length field has 6 bits. -/
theorem test_wellFormed_frame :
    (Instr.frameReceived 0 0 (List.replicate 63 0)).wellFormed = true ∧
      (Instr.frameReceived 0 0 (List.replicate 64 0)).wellFormed = false := by decide

/-- The checks of the raw operands by their length. -/
theorem wellFormed_raw (n : Nat) :
    (Instr.unknownServiceCommand (List.replicate n 0)).wellFormed = decide (n ≤ 258) ∧
      (Instr.unknownRequestFrame (List.replicate n 0)).wellFormed = decide (n ≤ 65539) := by
  simp [Instr.wellFormed, maxServiceFrame, maxLinkFrame]

/-- 12.4: one length byte. -/
theorem test_wellFormed_service :
    (Instr.unknownServiceCommand (List.replicate 258 0)).wellFormed = true ∧
      (Instr.unknownServiceCommand (List.replicate 259 0)).wellFormed = false := by
  rw [(wellFormed_raw 258).1, (wellFormed_raw 259).1]; decide

/-- 12.3: two length bytes. -/
theorem test_wellFormed_link :
    (Instr.unknownRequestFrame (List.replicate 65539 0)).wellFormed = true ∧
      (Instr.unknownRequestFrame (List.replicate 65540 0)).wellFormed = false := by
  rw [(wellFormed_raw 65539).2, (wellFormed_raw 65540).2]; decide

/-! ### Small states -/

/-- A configuration with the values of 2.8 and 7.10 where they give any. -/
def cfg : Settings :=
  { k := 3, q := 2, periods := List.replicate 16 (some 2557), beacon := 10, skew := 3600, holdRound := 300
    appealStep := 100, recruitStep := 100, claimLifetime := 600, scrubTick := 60, mediaTimeout := 30, bitRate := 1
    scrubAbort := false }

/-- An entry of one extent of two blocks, of the custodian 4C (length 1). -/
def entry (st : EntryState) (key first : Nat) : Entry :=
  { state := st, fullKey := BitVec.ofNat 256 (key * 2 ^ 192), shortKey := BitVec.ofNat 64 key, cust := ⟨1, 0x4C000000⟩
    lodgeTime := 5, expiry := 86400, extents := [⟨first, 2⟩] }

/-- A RUNNING node with five entries, MEDIA_READY high and 100 blocks of media. -/
def running : State :=
  let cat := [(0, entry .retained 10 0), (1, entry .releasable 11 10), (2, entry .disposing 12 20),
    (3, entry .damaged 13 30), (4, entry .lodging 14 40)]
  { State.reset with
    pins := { mediaReady := true, presentedSize := 100, svcEn := true }
    store := { header := true, settings := cfg, entries := cat }
    ctc := { node := .running, work := cat, freeList := [5, 6], loaded := 131072, settingsRead := some cfg, inForce := some cfg }
    rck := { rt := 200000, rtValid := true, bdt := 100000, rf := 86400 }
    hdu := { doubt := {}, roundTimer := some 1000 }
    rwk := { settle := .ended, loadEnded := true }
    pbc := { awaitingEleven := false, sendOpen := true, beaconTimer := some 1000 }
    cnu := { openSpace := 50 }
    exg := { runs := [⟨0, 2, 0, .entry⟩, ⟨10, 2, 1, .entry⟩, ⟨20, 2, 2, .entry⟩, ⟨30, 2, 3, .entry⟩, ⟨40, 2, 4, .entry⟩]
             reportedSize := 100, sizeTaken := true }
    scs := { tickTimer := some 1000, scrubbable := 2 } }

/-- `running` in another node state. -/
def inNode (n : NodeState) : State := { running with ctc := { running.ctc with node := n } }

/-- A node in AWAITING START on a store with settings. -/
def awaiting : State :=
  { State.reset with
    store := { header := true, settings := cfg }
    ctc := { settingsRead := some cfg } }

/-- A WANT of size `n` for a parcel of key 77. -/
def wantOf (n : Nat) : Want := ⟨77, 190000, 0, false, n, ⟨1, 0x4C000000⟩, 0x000E⟩

/-- A candidate for key 77 whose timer runs. -/
def candidate : Candidate :=
  { key := 77, lodgeTime := 190000, cls := 0, held := false, cust := ⟨1, 0x4C000000⟩, size := 1, holders := 0x000E
    lastWant := 0, rank := 1, timer := some 100 }

/-- A claim for key 77. -/
def claim : Claim :=
  { key := 77, lodgeTime := 190000, cls := 0, cust := ⟨1, 0x4C000000⟩, size := 1, holders := 0x000E, claimTime := 0
    deadline := 600000 }

/-- Peers 1 to 15 PRESENT. -/
def peersPresent : List Peer := { presence := .self } :: List.replicate 15 { presence := .present, heardAt := some 0 }

/-- The state a command leaves. -/
def after (c : Instr) (s : State) : State :=
  match exec c s with
  | .next t => t
  | _ => s

/-- The reply an idle transmitter begins at once. -/
def replyTo (c : Instr) (s : State) : Option Reply :=
  match (after c s).rli.tx with
  | some (.answer a) => some a.reply
  | _ => none

/-! ### Worked cases of the manual -/

/-- The table of 2.8. -/
theorem test_expiry :
    [(1000000, some 2557), (1000000, some 3653), (864000, some 0), (864000, some 1), (864001, some 0), (1000000, none),
        (1099511600000, some 0), (1099511626000, some 0), (1099500000000, some 36500)].map (fun x => expiryOf x.1 x.2) =
      [221961600, 316656000, 864000, 950400, 950400, 1099511627775, 1099511625600, 1099511627775, 1099511627775] := by
  decide

/-- The table of 3.2. -/
theorem test_matching :
    [(2, 0x4C810000, 20, 0x4C81F000), (1, 0x4C000000, 20, 0x4C81F000), (3, 0x4C81F300, 20, 0x4C81F000),
        (3, 0x4C820700, 20, 0x4C81F000), (2, 0x4D810000, 20, 0x4C81F000), (2, 0x4C810000, 4, 0x40000000),
        (2, 0x4C810000, 32, 0x4C810000), (2, 0x4C810000, 0, 0)].map
        (fun x : Nat × BitVec 32 × Nat × BitVec 32 => holdMatches ⟨1, x.2.2.1, x.2.2.2, 0, false, 0⟩ ⟨x.1, x.2.1⟩) =
      [true, true, true, false, false, true, true, true] := by
  decide

/-- 7.2: the placement order of the short key 00000000000F4243. -/
theorem test_placement :
    (placementOrder 0x00000000000F4243).map BitVec.toNat = [3, 12, 5, 14, 7, 0, 9, 2, 11, 4, 13, 6, 15, 8, 1, 10] := by
  decide

/-- 5.10: of the values 83, 4 and 9 the line carries 4. -/
theorem test_arbitration :
    losesArbitration 83 4 = true ∧ losesArbitration 9 4 = true ∧ losesArbitration 4 9 = false := by decide

/-- R88: seven equal bits are followed by a fill bit of the other level, which begins the next run. -/
theorem test_fill :
    insertFill 0 true (List.replicate 7 true) = List.replicate 7 true ++ [false] ∧
      insertFill 0 true (List.replicate 7 true ++ List.replicate 6 false) =
        List.replicate 7 true ++ [false] ++ List.replicate 6 false ++ [true] := by decide

/-! ### One step of a command -/

/-- The replies by node state: R17 <1>, R36 <1>, R179, R55 <1>, R167 <1>, R171, R182. -/
theorem test_replies_by_node :
    [NodeState.awaitingStart, .loading, .dormant, .waking, .storeFault].map
        (fun n => [Instr.dispose 1 1, .setTime 1 9, .setSpace 1 9, .placeHold 1 7 0 0, .dormant 1, .wake 1, .readStatus 1].map
          fun c => replyTo c (inNode n)) =
      [[some .notReady, some .notReady, some .notReady, some .notReady, some .notReady, some .notReady, some .done],
       [some .notReady, some .notReady, some .notReady, some .notReady, some .notReady, some .notReady, some .done],
       [some .notNow, some .notNow, some .done, none, some .notNow, some .done, some .done],
       [some .notNow, some .notNow, some .done, none, some .notNow, some .busy, some .done],
       [some .storeFault, some .storeFault, some .done, some .storeFault, some .storeFault, some .storeFault, some .done]] := by
  decide +kernel

/-- The extents of a request, from the first block and count of its first slot. -/
def slots (first count : Nat) : BitVec 576 := BitVec.ofNat 576 (first * 2 ^ 32 + count) <<< 504

/-- A LODGE of one extent. -/
def lodge (key : Nat) (custLen cls : Byte) (first count : Nat) : Instr :=
  .lodge 1 (BitVec.ofNat 256 key) custLen 0x4C810000 cls 1 (slots first count)

/-- The refusals of R17 in the states of 1.14: KNOWN, KEY_CLASH, OVERLAP, OUT_OF_RANGE, BAD_FIELD and the others. -/
theorem test_lodge_refusals :
    [replyTo (lodge (10 * 2 ^ 192) 2 4 60 10) running, replyTo (lodge (10 * 2 ^ 192 + 1) 2 4 60 10) running,
        replyTo (lodge (99 * 2 ^ 192) 2 4 41 1) running, replyTo (lodge (99 * 2 ^ 192) 2 4 99 2) running,
        replyTo (lodge (99 * 2 ^ 192) 5 4 60 10) running, replyTo (lodge (99 * 2 ^ 192) 2 16 60 10) running,
        replyTo (lodge (99 * 2 ^ 192) 2 4 60 10) { running with ctc := { running.ctc with freeList := [] } },
        replyTo (lodge (99 * 2 ^ 192) 2 4 60 10) { running with rck := { running.rck with rtValid := false } },
        replyTo (lodge (99 * 2 ^ 192) 2 4 60 10) { running with pins := { running.pins with guardAsserted := true } },
        replyTo (lodge (99 * 2 ^ 192) 2 4 60 10) running] =
      [some .known, some .keyClash, some .overlap, some .outOfRange, some .badField, some .badField, some .catalogueFull,
        some .clockInvalid, some .guarded, none] := by decide +kernel

/-- R18: the lodged entry, its runs, the free-entry list and the high-water. -/
theorem test_lodge_taken :
    let t := after (lodge (99 * 2 ^ 192) 2 4 60 40) running
    (entryAt t 5).state = .lodging ∧ (entryAt t 5).shortKey = 99 ∧ (entryAt t 5).lodgeTime = 200000 ∧
      (entryAt t 5).expiry = 221184000 ∧ t.ctc.freeList = [6] ∧ t.ctc.highWater = 200000 ∧
      (⟨60, 40, 5, .entry⟩ : Run) ∈ t.exg.runs := by decide +kernel

/-- R25, R26: a DISPOSE under a hold and without one. -/
theorem test_dispose :
    (entryAt (after (.dispose 1 1) running) 1).state = .disposing ∧
      (entryAt (after (.dispose 1 1)
        { running with hdu := { running.hdu with slots := [some ⟨⟨7, 0, 0, 1, false, 3⟩, false, false, false⟩] } }) 1).state =
        .retained := by decide +kernel

/-- R43: the completion of a floor write raises RF and starts a walk. -/
theorem test_floor :
    let t := after .floorWriteComplete { running with rck := { running.rck with floorWrites := [172800] } }
    t.rck.rf = 172800 ∧ t.rwk.walk = some ⟨.refresh 0, 0, none⟩ := by decide +kernel

/-- R74: a refresh visit releases the entry whose expiry RF has reached, and not while hold doubt stands. -/
theorem test_release :
    let s := { running with
      rwk := { running.rwk with walk := some ⟨.refresh 0, 0, none⟩ }
      ctc := { running.ctc with inForce := some { cfg with periods := List.replicate 16 (some 0) } } }
    (entryAt (after .refreshVisit s) 0).state = .releasable ∧
      (entryAt (after .refreshVisit { s with hdu := { s.hdu with doubt := { loss := true } } }) 0).state = .retained := by
  decide +kernel

/-- R109, R111: send errors of 6 bring RESTRAINED at 120, and the own flag is then recessive. -/
theorem test_restrained :
    let t := after (.sendError .bit) { running with pbc := { running.pbc with sendCount := 114, attempt := some (.claim 4) } }
    t.pbc.sendCount = 120 ∧ t.pbc.confinement = .restrained ∧ t.pbc.errorSeq = some ⟨true, false, false⟩ := by decide +kernel

/-- R101: the 25th frame is lost, with RX_OVERFLOW and hold doubt. -/
theorem test_overflow :
    let t := after (.frameReceived 3 5 (payloadOf (.claim 4)))
      { running with pbc := { running.pbc with rxFifo := List.replicate 24 ⟨1, .claim 4⟩ } }
    t.pbc.rxFifo.length = 24 ∧ t.hdu.doubt.loss = true ∧ t.evu.flags.getLsbD 10 = true := by decide +kernel

/-- R160: a tick at +8 raises SCRUB_LAG. -/
theorem test_scrub_lag :
    (after .scrubTick { running with scs := { running.scs with balance := 8 } }).evu.flags.getLsbD 1 = true ∧
      (after .scrubTick { running with scs := { running.scs with balance := 8 } }).scs.balance = 8 := by decide +kernel

/-- 95: the front of the queue runs, and an empty queue idles. -/
theorem test_step :
    (∃ t, step { running with pending := [.guardAsserted, .svcEnFall] } = .next t ∧ t.pending = [.svcEnFall] ∧
      t.pins.guardAsserted = true) ∧
    (∃ t, step { running with pbc := { running.pbc with beaconTimer := some 1 } } = .next t ∧ t.coreMs = 1 ∧
      t.pending = [.beaconTimerExpiry]) := by
  refine ⟨⟨_, rfl, ?_⟩, ⟨_, rfl, ?_⟩⟩ <;> decide +kernel

/-! ### Witnesses: states and operands that meet the hypotheses of each statement, clause by clause -/

/-- `running` with one block replaced. -/
def withMar (m : Mar) : State := { running with mar := m }
def withScs (m : Scs) : State := { running with scs := m }
def withPbc (m : Pbc) : State := { running with pbc := m }
def withHdu (m : Hdu) : State := { running with hdu := m }
def withCnu (m : Cnu) : State := { running with cnu := m }
def withRwk (m : Rwk) : State := { running with rwk := m }
def withRck (m : Rck) : State := { running with rck := m }
def withRli (m : Rli) : State := { running with rli := m }
def withPower (p : Power) : State := { running with pins := { running.pins with power := p } }

/-- `running` with changes outstanding in CTC. -/
def withWrites (ws : List EntryWrite) : State := { running with ctc := { running.ctc with writes := ws } }

/-- `running` with one command in flight under tag 7. -/
def carrying (c : MediaCmd) : State := withMar { inFlight := some ⟨7, c⟩, timer := some 900 }

theorem witness_EveryStepAnswersAndIdlesAMillisecond :
    running.pending = [] ∧ Powered running ∧ ¬ Powered (withPower .offLost) ∧
      (withPbc { running.pbc with confinement := .silent, recoveryCount := 63, runCount := 15 }).pbc.confinement = .silent ∧
      (withScs { running.scs with cursorWrites := [4] }).scs.cursorWrites = [4] := by decide

theorem witness_UnpoweredPartIsInert :
    (∀ p ∈ [Power.offKept, .offLost], ¬ Powered (withPower p)) ∧
      ∀ c ∈ [Instr.rtAdvance, .guardAsserted, .guardReleased, .mediaReadyRise 5, .mediaReadyFall, .svcEnRise, .svcEnFall,
          .readStatus 1],
        (∀ slot kept, c ≠ .coldStart slot kept) ∧ ∀ battery, c ≠ .corePowerLoss battery := by
  refine ⟨by decide, fun c hc => ?_⟩
  simp only [List.mem_cons, List.not_mem_nil, or_false] at hc
  rcases hc with rfl | rfl | rfl | rfl | rfl | rfl | rfl | rfl <;> exact ⟨nofun, nofun⟩

theorem witness_ResetLeavesResetValues :
    Powered running ∧ (withPower .offKept).pins.power ≠ .offLost ∧ (withPower .offLost).pins.power = .offLost := by decide

theorem witness_CutWritesLeaveWholeRecords :
    CatalogueCanonical (withWrites [{ index := 1, entry := {} }]) ∧
      ((∃ slot, Instr.warmReset 3 = .warmReset slot) ∧ (∃ record, Instr.storeWriteFailed .floor = .storeWriteFailed record)) :=
  ⟨by decide +kernel, ⟨3, rfl⟩, ⟨.floor, rfl⟩⟩

theorem witness_PinsAndPowerLoss :
    Powered running ∧ (withPower .offKept).pins.power = .offKept ∧ (withPower .offLost).pins.power = .offLost := by decide

theorem witness_GuardReleaseAndMediaReadyRise :
    Powered running ∧
      ((inNode .loading).ctc.node = .loading ∧ (inNode .loading).rwk.loadEnded = true) ∧ (inNode .waking).ctc.node = .waking := by
  decide

/-- Work of each rank at a free port: a forced scrub, an eligible VERIFY, a host command, an ERASE of an entry whose erase
begun is clear, and an early scrub down to a balance of -7. -/
theorem witness_PortIsGrantedByRank :
    (let s := withScs { running.scs with request := some 0, balance := 8 }
     s.mar.inFlight = none ∧ s.mar.grantedErase = none ∧ s.pins.mediaReady = true ∧ s.ctc.node = .running ∧
       s.scs.request = some 0 ∧ s.scs.balance = 8) ∧
    (let s := withMar { verifies := [⟨4, false, [⟨40, 2⟩], 0, 3, none⟩], gated := [⟨⟨1, 0x0D⟩, .write, 50, 2, 0, 2⟩] }
     s.mar.verifies ≠ [] ∧ ∀ v ∈ s.mar.verifies, ∀ c ∈ s.mar.gated, c.op ≠ .read → c.seq < v.before → ∀ x ∈ v.extents,
       x.first + x.count ≤ c.first ∨ c.first + c.count ≤ x.first) ∧
    (let s := withMar { gated := [⟨⟨1, 0x0C⟩, .read, 50, 2, 0, 2⟩] }
     s.mar.verifies = [] ∧ s.mar.gated ≠ []) ∧
    (let s := withMar { erases := [⟨2, ⟨20, 2⟩, 0⟩] }
     s.mar.gated = [] ∧ s.mar.erases = [⟨2, ⟨20, 2⟩, 0⟩] ∧ s.pins.guardAsserted = false ∧ s.ctc.node ≠ .storeFault ∧
       (entryAt s 2).eraseBegun = false) ∧
    (let s := withScs { running.scs with request := some 0, balance := -7 }
     s.mar.erases = [] ∧ s.scs.request = some 0 ∧ -8 < s.scs.balance) := by decide

theorem witness_GuardHoldsBackErases :
    ∃ t, step { carrying (.erase ⟨2, ⟨20, 2⟩, 0⟩) with
          pins := { running.pins with guardAsserted := true }, pending := [.mediaReadyFall] } = .next t ∧
      t.pins.guardAsserted = true ∧ t.mar.inFlight = some ⟨7, .erase ⟨2, ⟨20, 2⟩, 0⟩⟩ :=
  ⟨_, rfl, by decide⟩

/-- A WRITE of the block next to a protected run comes into the queue while another command is in flight, in RUNNING and in a
STORE FAULT whose load walk has still to visit entries 2 to 4. -/
theorem witness_GateAdmitsNoProtectedBlock :
    (∃ t, step { carrying (.erase ⟨2, ⟨20, 2⟩, 0⟩) with pending := [.mediaWrite 9 2 1 0] } = .next t ∧
      ∃ x ∈ t.mar.gated, x.op ≠ .read) ∧
    (let s := { carrying (.erase ⟨2, ⟨20, 2⟩, 0⟩) with ctc := { running.ctc with node := .storeFault, loaded := 2 } }
     (∃ p ∈ s.ctc.work, s.ctc.loaded ≤ p.1 ∧ p.2.state ≠ .free ∧ p.2.extents ≠ []) ∧
       ∃ t, step { s with pending := [.mediaWrite 9 2 1 0] } = .next t ∧ ∃ x ∈ t.mar.gated, x.op ≠ .read) :=
  ⟨⟨_, rfl, by decide +kernel⟩, by decide +kernel, _, rfl, by decide +kernel⟩

/-- A request of an idle link under a fresh tag is handed to its owner in every node state. -/
theorem witness_accepting :
    ∀ n ∈ [NodeState.awaitingStart, .loading, .running, .dormant, .waking, .storeFault], ∀ tag ∈ [(1 : Byte), 255],
      Accepting (inNode n) tag := by decide

/-- The clauses of the gate in RUNNING: counts of 0, 1, 16,777,216 and one more, the last block and one beyond, the guard,
and the blocks beside and in a protected run; a WRITE in a STORE FAULT that stopped the load walk and in one that did not, of
the blocks of no entry, and of entry 1's before and after the visit that places its run. -/
theorem witness_MediaCommandsPassTheGate :
    Accepting running 9 ∧
      [replyTo (.mediaRead 9 0 0 0) running, replyTo (.mediaRead 9 0 16777217 0) running,
        replyTo (.mediaRead 9 0 16777216 0) running, replyTo (.mediaRead 9 99 1 0) running, replyTo (.mediaRead 9 99 2 0) running,
        replyTo (.mediaTrim 9 50 1 0) { running with pins := { running.pins with guardAsserted := true } },
        replyTo (.mediaWrite 9 1 1 0) running, replyTo (.mediaWrite 9 2 1 0) running, replyTo (.mediaRead 9 1 1 0) running,
        replyTo (.mediaWrite 9 2 1 0) { running with ctc := { running.ctc with node := .storeFault, loadStopped := true } },
        replyTo (.mediaWrite 9 2 1 0) { inNode .storeFault with rwk := { loadEnded := false } },
        replyTo (.mediaWrite 9 11 1 0)
          { running with ctc := { running.ctc with node := .storeFault, loaded := 1 }, exg := { running.exg with runs := [] } },
        replyTo (.mediaWrite 9 11 1 0)
          { running with ctc := { running.ctc with node := .storeFault, loaded := 2 }, exg := { running.exg with runs := [] } }] =
      [some .badField, some .badField, some .outOfRange, none, some .outOfRange, some .guarded, some .writeProtected, none,
        none, some .storeFault, none, some .writeProtected, none] := by decide +kernel

/-- The media timer one millisecond before its end, at it and after it, and not running. -/
theorem witness_mediaTimer :
    (∀ ms ∈ [899, 900, 901],
      let s := { carrying (.erase ⟨2, ⟨20, 2⟩, 0⟩) with coreMs := ms }
      s.mar.inFlight ≠ none ∧ (MediaTimerOver s ↔ ms ≠ 899) ∧
        ((after .mediaTimerExpiry s).mar.inFlight = none ↔ ms ≠ 899)) ∧
    ¬ MediaTimerOver running := by decide +kernel

theorem witness_HostCommandsAndErasesEnd :
    (let s := carrying (.host ⟨⟨9, 0x0C⟩, .read, 0, 1, 0, 0⟩)
     Powered s ∧ s.mar.inFlight = some ⟨7, .host ⟨⟨9, 0x0C⟩, .read, 0, 1, 0, 0⟩⟩) ∧
    (∀ f, running.mar.inFlight = some f → f.tag ≠ 7) ∧
    (let s := carrying (.erase ⟨2, ⟨20, 2⟩, 0⟩)
     Powered s ∧ s.mar.inFlight = some ⟨7, .erase ⟨2, ⟨20, 2⟩, 0⟩⟩ ∧ s.ctc.node ≠ .storeFault ∧ (entryAt s 2).state = .disposing ∧
       erasesDone s 2 + 1 = (entryAt s 2).extents.length) ∧
    (let s := carrying (.erase ⟨2, ⟨20, 2⟩, 0⟩)
     let u := { s with ctc := { s.ctc with
       work := catSet s.ctc.work 2 { entry .disposing 12 20 with extents := [⟨20, 2⟩, ⟨22, 1⟩] } } }
     (entryAt u 2).state = .disposing ∧ erasesDone u 2 + 1 ≠ (entryAt u 2).extents.length) := by
  refine ⟨by decide, nofun, by decide, by decide⟩

/-- A VERIFY of a request and one the load walk resumed, of a LODGING entry and of one that is so no longer; and a VERIFY of
a refill that stands and of one that does not. -/
theorem witness_VerifiesEnd :
    (∀ req ∈ [none, some ⟨9, 4⟩],
      let v : VerifyWork := ⟨4, false, [⟨40, 2⟩], 0, 0, req⟩
      let s := carrying (.verify v)
      Powered s ∧ s.mar.inFlight = some ⟨7, .verify v⟩ ∧ (entryAt s 4).state = .lodging ∧ s.ctc.node ≠ .storeFault ∧
        (inNode .storeFault).ctc.node = .storeFault ∧ (entryAt (carrying (.verify { v with index := 0 })) 0).state ≠ .lodging) ∧
    (let v : VerifyWork := ⟨3, true, [⟨60, 2⟩], 0, 0, some ⟨9, 6⟩⟩
     let s := carrying (.verify v)
     let u := { s with ctc := { s.ctc with work := catSet s.ctc.work 3 { entry .damaged 13 30 with refill := some [⟨60, 2⟩] } } }
     u.mar.inFlight = some ⟨7, .verify v⟩ ∧ (entryAt u 3).refill = some [⟨60, 2⟩] ∧ (entryAt u 3).state = .damaged ∧
       u.ctc.node ≠ .storeFault ∧ (entryAt s 3).refill = none) := by decide

/-- A scrub of the first and of the last index of the catalogue, of an entry that is scrubbable and of one that is not, with
RT valid and invalid, and with a DORMANT request that waits; a node that may scrub, with the request of a scrubbable entry
and without one, and a node that may not. -/
theorem witness_ScrubsEnd :
    (∀ i ∈ [0, 131071],
      let s := { carrying (.scrub i [⟨0, 2⟩] 0) with
        ctc := { running.ctc with work := catSet running.ctc.work i (entry .retained 10 0) } }
      let w := { s with scs := { s.scs with waitingDormant := some ⟨9, 0x0F⟩ }, rck := { s.rck with rtValid := false } }
      Powered s ∧ s.mar.inFlight = some ⟨7, .scrub i [⟨0, 2⟩] 0⟩ ∧ s.ctc.node ≠ .storeFault ∧ s.scs.waitingDormant = none ∧
        ScrubbableAt s i ∧ s.rck.rtValid = true ∧ w.scs.waitingDormant = some ⟨9, 0x0F⟩ ∧ w.rck.rtValid = false) ∧
    (∀ i ∈ [2, 131070], ¬ ScrubbableAt running i) ∧
    MayScrub running ∧ (inNode .dormant).ctc.node = .dormant ∧ running.scs.request = none ∧ catWf running.ctc.work = true ∧
    (withScs { running.scs with request := some 1 }).scs.request = some 1 ∧ ScrubbableAt running 1 ∧
    (offerScrub running).scs.request = some 0 ∧
    (offerScrub (withScs { running.scs with cursor := 1 })).scs.request = some 1 ∧
    (offerScrub (withScs { running.scs with cursor := 2 })).scs.request = some 0 :=
  ⟨by decide +kernel, by decide, ⟨by decide, by decide, by decide, rfl, nofun⟩, by decide +kernel⟩

/-- A tag of 0, an operand outside its layout, a queue of 32 and of 31, and an outstanding tag. -/
theorem witness_RequestsArriveByR174 :
    requestOfCommand (.readStatus 0) = some (⟨0, 0x11⟩, true) ∧
      requestOfCommand (.lookup 1 2 0) = some (⟨1, 0x0A⟩, false) ∧ Powered running ∧
      replyTo (.readStatus 200) (withRli { requests := List.replicate 32 ⟨5, 4⟩ }) = some .full ∧
      replyTo (.readStatus 200) (withRli { requests := List.replicate 31 ⟨5, 4⟩ }) = some .done ∧
      replyTo (.readStatus 5) (withRli { requests := List.replicate 31 ⟨5, 4⟩ }) = some .busy := by decide +kernel

/-- START: used stored on a blank and on a prepared store, a record that shortens class 15 and one that shortens none. -/
theorem witness_StartIsCheckedAndAccepted :
    Accepting awaiting 9 ∧
      replyTo (.start 9 0 0) awaiting = some .done ∧ replyTo (.start 9 0 0) State.reset = some .notReady ∧
      replyTo (.start 9 0 0) running = some .notNow ∧ replyTo (.start 9 0 0) (inNode .storeFault) = some .storeFault ∧
      replyTo (.start 9 1 0) awaiting = some .shorten ∧ replyTo (.start 9 1 (BitVec.allOnes 416)) awaiting = none ∧
      (after (.start 9 1 (BitVec.allOnes 416)) awaiting).rli.starting.map Starting.prepare = some false ∧
      (after (.start 9 1 0) State.reset).rli.starting.map Starting.prepare = some true ∧
      (∀ w ∈ State.reset.hdu.writes, ∀ time, w.purpose ≠ .liftHeard time) := by
  refine ⟨by decide, by decide +kernel, by decide +kernel, by decide +kernel, by decide +kernel, by decide +kernel,
    by decide +kernel, by decide +kernel, by decide +kernel, nofun⟩

/-- SET TIME below, at and above RF and the lodge high-water. -/
theorem witness_SetTimeAndSetSpace :
    (let s := { running with
       rck := { rt := 0, rtValid := false, rf := 86400, bdt := 86400 }, ctc := { running.ctc with highWater := 90000 } }
     Accepting s 9 ∧ s.ctc.inForce = some cfg ∧
       [replyTo (.setTime 9 89999) s, replyTo (.setTime 9 90000) s, replyTo (.setTime 9 1099511627775) s] =
         [some .timeLow, some .done, some .done]) ∧
    replyTo (.setTime 9 300000) running = some .notNow := by decide +kernel

theorem witness_EventRequestsAndTopCode :
    (let s := { running with pins := { running.pins with guardAsserted := true }, evu := { flags := 0x010000 } }
     Accepting s 9 ∧ s.evu.flags.getLsbD 16 = true ∧ alertLow s = true) ∧
    Accepting running 9 ∧ alertLow running = false ∧ BlockShows running (statusBlock running) := by
  refine ⟨by decide, by decide, by decide, ?_⟩
  unfold BlockShows
  decide +kernel

theorem witness_TransmitterTakesTheNextFrame :
    Powered running ∧ running.rli.tx = none ∧
      (withRli { tx := some (.notice (.claimLapsed 4)), notices := [.claimLapsed 4] }).rli.tx =
        some (.notice (.claimLapsed 4)) ∧
      (withRli { tx := some (.answer ⟨⟨9, 1⟩, true, .done, .none⟩), requests := [⟨9, 1⟩] }).rli.tx =
        some (.answer ⟨⟨9, 1⟩, true, .done, .none⟩) := by decide

theorem witness_LodgeAndAdoptAreChecked :
    Accepting running 1 ∧ extentsFit 1 (slots 60 40) = true ∧ running.ctc.loadStopped = false ∧
      usedSlots (slots 60 40) 1 = [⟨60, 40⟩] := by decide +kernel

/-- A LODGE up to the last block of the media, and an ADOPT with a claim, with a candidate and with neither. -/
theorem witness_LodgeAndAdoptTakeAnEntry :
    (LodgePasses running (BitVec.ofNat 256 (99 * 2 ^ 192)) 4 15 [⟨60, 40⟩] ∧
      LodgePasses running (BitVec.ofNat 256 (99 * 2 ^ 192)) 1 0 [⟨60, 40⟩] ∧ running.ctc.freeList = 5 :: [6]) ∧
    (let adopt := Instr.adopt 1 (BitVec.ofNat 256 (77 * 2 ^ 192)) 2 0x4C810000 4 1000 1 (slots 60 40)
     [running, withCnu { openSpace := 50, candidates := [candidate] },
         withCnu { openSpace := 50, candidates := [candidate], claims := [{ claim with holders := 6 }] }].map (fun s =>
       let t := after adopt s
       ((entryAt t 5).origin, (entryAt t 5).cls, (entryAt t 5).lodgeTime, (entryAt t 5).holders, t.cnu.candidates.length)) =
     [(.adopted, 4, 1000, 0, 0), (.adopted, 4, 1000, 0x000E, 0), (.adopted, 0, 190000, 6, 0)]) :=
  ⟨by decide +kernel, by decide +kernel⟩

theorem witness_RefillRecordsItsExtents :
    Accepting running 1 ∧ extentsFit 1 (slots 60 40) = true ∧ (entryAt running 3).state = .damaged ∧
      (entryAt running 3).refill = none ∧
      [replyTo (.refill 1 3 1 (slots 60 40)) running, replyTo (.refill 1 131072 1 (slots 60 40)) running,
        replyTo (.refill 1 131071 1 (slots 60 40)) running, replyTo (.refill 1 3 1 (slots 60 41)) running,
        replyTo (.refill 1 3 1 (slots 41 1)) running, replyTo (.refill 1 3 1 (slots 31 1)) running] =
      [none, some .badField, some .notDamaged, some .outOfRange, some .overlap, none] := by decide +kernel

theorem witness_DisposeRechecksHolds :
    Accepting running 1 ∧ (entryAt running 1).state = .releasable ∧ holdsOn running (entryAt running 1).cust = 0 ∧
      (let s := withHdu { running.hdu with slots := [some ⟨⟨7, 0, 0, 1, false, 3⟩, false, false, false⟩] }
       0 < holdsOn s (entryAt s 1).cust) ∧
      replyTo (.dispose 1 131072) running = some .badField ∧ replyTo (.dispose 1 131071) running = some .notReleasable := by
  decide +kernel

/-- LOOKUP of an entry, of one with a write outstanding, of an index a stopped load walk did not load, and of unknown keys;
LIST RELEASABLE from the first, the last and one more index, for counts of 0 and 1. -/
theorem witness_LookupAndListReport :
    Accepting running 1 ∧
      [replyTo (.lookup 1 0 131071) running, replyTo (.lookup 1 0 131072) running, replyTo (.lookup 1 1 10) running,
        replyTo (.lookup 1 1 77) running, replyTo (.lookup 1 0 1) (withWrites [{ index := 1, entry := entry .releasable 11 10 }])] =
      [some .done, some .badField, some .done, some .unknownKey, none] ∧
      (let s := { inNode .storeFault with ctc := { running.ctc with node := .storeFault, loadStopped := true, loaded := 1 } }
       Accepting s 1 ∧ [replyTo (.lookup 1 0 0) s, replyTo (.lookup 1 0 1) s, replyTo (.lookup 1 1 11) s] =
         [some .done, some .notReady, some .notReady]) ∧
      [replyTo (.listReleasable 1 131071 1) running, replyTo (.listReleasable 1 131072 1) running,
        replyTo (.listReleasable 1 0 0) running] = [some .done, some .badField, some .done] ∧
      (after (.listReleasable 1 0 1) running).rli.tx =
        some (.answer ⟨⟨1, 0x0B⟩, true, .done, .releasable [(1, 11)] (some 2)⟩) ∧
      (let s := { running with ctc := { running.ctc with node := .storeFault, unread := [1] } }
       Accepting s 1 ∧ Unreadable s 1 ∧ ¬ Unreadable s 0 ∧ (after (.listReleasable 1 0 1) s).ctc.unread = [] ∧
         (after (.listReleasable 1 0 1) s).rli.tx =
           some (.answer ⟨⟨1, 0x0B⟩, true, .done, .releasable [] none⟩)) := by decide +kernel

/-- A hold in slot 0, being lifted or not, and a table without an empty slot. -/
theorem witness_PlaceAndLiftHold :
    (let s := withHdu { running.hdu with slots := some ⟨⟨7, 0, 0, 1, false, 3⟩, false, false, false⟩ :: List.replicate 63 none }
     Accepting s 1 ∧ slotOf s 7 = some 0 ∧ isLifting s 7 = false ∧ slotOf s 8 = none ∧
       [replyTo (.placeHold 1 7 0 0) s, replyTo (.placeHold 1 0 0 0) s, replyTo (.placeHold 1 8 0 0) s,
         replyTo (.liftHold 1 8) s, replyTo (.liftHold 1 7) s] = [some .done, some .badField, none, some .unknownMatter, none]) ∧
    (let s := withHdu { running.hdu with slots := [some ⟨⟨7, 0, 0, 1, false, 3⟩, true, false, false⟩] }
     isLifting s 7 = true ∧
       [replyTo (.placeHold 1 7 0 0) s, replyTo (.liftHold 1 7) s, replyTo (.placeHold 1 8 0 0) s] =
         [some .busy, some .busy, some .tableFull]) := by decide +kernel

/-- A hold that matches every entry; `late` is that with the erasing of entry 2 begun, `unread` a STORE FAULT in which its
record cannot be read. -/
def held : State := withHdu { running.hdu with slots := [some ⟨⟨7, 0, 0, 1, false, 3⟩, false, false, false⟩] }
def heldLate : State :=
  { held with ctc := { held.ctc with work := catSet held.ctc.work 2 { entry .disposing 12 20 with eraseBegun := true } } }
def heldUnread : State := { held with ctc := { held.ctc with node := .storeFault, unread := [2] } }

/-- The entries a hold meets, and what becomes of them: entry 2 alone, reverted, or late, or passed over. -/
theorem witness_holdMeets :
    ∀ x ∈ [(held, true), (heldLate, true), (heldUnread, false)], ∀ i,
      ((x.1.ctc.loadStopped = true → i < x.1.ctc.loaded) ∧ ¬ Unreadable x.1 i ∧ (entryAt x.1 i).state = .disposing ∧
        0 < holdsOn x.1 (entryAt x.1 i).cust) ↔ i = 2 ∧ x.2 = true := by
  have outside (s : State) (h : ∀ p ∈ s.ctc.work, p.1 < 5) (i : Nat) : (entryAt s (i + 5)).state = .free := by
    have go : ∀ c : Cat, (∀ p ∈ c, p.1 < 5) → (catGet c (i + 5)).state = .free := by
      intro c
      induction c with
      | nil => intro _; rfl
      | cons p rest ih =>
        intro hc
        have := hc p (by simp)
        simp only [catGet, show p.1 ≠ i + 5 by omega, if_false]
        exact ih fun q hq => hc q (by simp [hq])
    exact go _ h
  intro x hx i
  rcases i with _ | _ | _ | _ | _ | i
  case succ.succ.succ.succ.succ =>
    have := outside x.1 (by revert x; decide +kernel) i
    simp [this]
  all_goals revert x; decide +kernel

/-- A hold that matches the DISPOSING entry, whose erasing has begun or not, in and outside a running walk. -/
theorem witness_EpochChangesAndTriggers :
    (catWf held.ctc.work = true ∧ (entryAt held 2).eraseBegun = false ∧ (entryAt (epochChange held) 2).state = .retained ∧
      (epochChange held).ctc.writes.length = 1 ∧ (epochChange held).scs.scrubbable = held.scs.scrubbable + 1 ∧
      catWf heldLate.ctc.work = true ∧ (entryAt heldLate 2).eraseBegun = true ∧ (epochChange heldLate).ctc.writes = [] ∧
      catWf heldUnread.ctc.work = true ∧ (entryAt (epochChange heldUnread) 2).state = .disposing ∧
      (epochChange heldUnread).ctc.unread = []) ∧
    (let s := withHdu { running.hdu with slots := [some ⟨⟨7, 0, 0, 1, false, 3⟩, false, false, false⟩] }
     catWf s.ctc.work = true ∧ 2 < s.ctc.loaded ∧ (entryAt s 2).state = .disposing ∧ 0 < holdsOn s (entryAt s 2).cust ∧
       (entryAt s 2).eraseBegun = false ∧ (entryAt (epochChange s) 2).state = .retained ∧
       (let u := { s with ctc := { s.ctc with work := catSet s.ctc.work 2 { entry .disposing 12 20 with eraseBegun := true } } }
        catWf u.ctc.work = true ∧ (entryAt u 2).eraseBegun = true ∧ (epochChange u).evu.flags.getLsbD 18 = true)) ∧
    (withRwk { walk := some ⟨.refresh 0, 4, none⟩, loadEnded := true }).rwk.walk ≠ none ∧ running.rwk.walk = none ∧
    (∃ p ∈ running.ctc.work, p.2.state ≠ .free) ∧ (∀ p ∈ awaiting.ctc.work, p.2.state = .free) := by decide +kernel

theorem witness_HoldSlotWriteCompletes :
    (let w (purpose : SlotPurpose) : SlotWrite := ⟨63, some ⟨7, 0, 0, 1, false, 3⟩, 7, purpose, [⟨4, 8⟩]⟩
     let s (purpose : SlotPurpose) := withHdu { running.hdu with
       slots := List.replicate 63 none ++ [some ⟨⟨7, 0, 0, 1, false, 3⟩, false, false, false⟩], writes := [w purpose] }
     ∀ p ∈ [SlotPurpose.placed ⟨9, 8⟩, .entered, .lifted ⟨9, 9⟩, .liftHeard 4],
       Powered (s p) ∧ (s p).store.header = true ∧ (s p).hdu.writes = [] ++ w p :: [] ∧
         (w p).slot = (63 : BitVec 6).toNat ∧ (slotAt (s p) 63).isSome = true) ∧
    (∀ w ∈ running.hdu.writes, w.slot ≠ (0 : BitVec 6).toNat) ∧ State.reset.store.header = false := by decide +kernel

/-- HOLD and LIFT frames: of matter 0, of a hold that stands, of a lifted one, of a new one, and at a full table. -/
theorem witness_HoldAndLiftFrames :
    (let s := withPbc { running.pbc with rxFifo := [⟨5, .hold 7 0 0 10⟩] }
     let h : HoldSlot := ⟨⟨7, 0, 0, 10, false, 3⟩, false, false, false⟩
     Powered s ∧ s.pbc.rxFifo = ⟨5, .hold 7 0 0 10⟩ :: [] ∧ s.hdu.slots = [] ++ none :: List.replicate 63 none ∧
       (∀ x ∈ s.hdu.slots, x = none) ∧
       (let u := { s with hdu := { s.hdu with slots := [some h] } }
        u.hdu.slots = [] ++ some h :: [] ∧ h.hold.matter = 7 ∧ ∀ x ∈ u.hdu.slots, x ≠ none) ∧
       (let u := { s with hdu := { s.hdu with lifted := [⟨7, 10, 0, false⟩] } }
        ∃ l ∈ u.hdu.lifted, l.matter = 7 ∧ 10 ≤ l.time) ∧
       (let u := { s with hdu := { s.hdu with lifted := [⟨7, 9, 0, false⟩] } }
        ∀ l ∈ u.hdu.lifted, l.matter = 7 → l.time < 10)) ∧
    (let s := { withPbc { running.pbc with rxFifo := [⟨5, .lift 7 10⟩] } with
       hdu := { running.hdu with slots := [some ⟨⟨7, 0, 0, 10, false, 3⟩, false, false, false⟩] } }
     (after .liftDispatch s).hdu.writes.length = 1 ∧
       (after .liftDispatch { s with pbc := { s.pbc with rxFifo := [⟨5, .lift 7 9⟩] } }).hdu.writes = []) := by decide +kernel

/-- A round boundary while hold doubt counts its first and its second boundary. -/
theorem witness_RoundBoundaryOffersHolds :
    (∀ p ∈ [(16, []), (15, [0]), (12, [0, 2])],
      let s := { withHdu { running.hdu with slots := [some ⟨⟨7, 0, 0, 1, false, 3⟩, false, false, true⟩,
          some ⟨⟨8, 0, 0, 1, false, 3⟩, false, true, false⟩, some ⟨⟨9, 0, 0, 1, true, 3⟩, false, false, false⟩, none] } with
        pbc := { running.pbc with sendQueue := List.replicate p.1 { content := .frame (.lift 5 4) } } }
      Powered s ∧ s.hdu.roundTimer ≠ none ∧ (if canOffer s then 16 - s.pbc.sendQueue.length else 0) = 16 - p.1 ∧
        ((List.range s.hdu.slots.length).filter (fun i => match slotAt s i with
          | some h => !h.heard && !h.lifting
          | none => false)) = [0, 2] ∧ [0, 2].take (16 - p.1) = p.2 ∧
        ((after .roundBoundary s).pbc.sendQueue.filter fun q => decide (kindOf (.hold 7 0 0 1) = q.kind)).length = p.2.length) ∧
    (∀ k ∈ [0, 1],
      let s := withHdu { running.hdu with doubt := { loss := true }, doubtTimer := some k }
      Powered s ∧ s.hdu.roundTimer ≠ none ∧ s.ctc.inForce = some cfg ∧ doubtStands s = true ∧ s.hdu.doubtTimer = some k) ∧
    State.reset.hdu.roundTimer = none := by decide

/-- A node that owes nothing, with one frame of each producer in the Send Queue. -/
def queued : State :=
  let item (f : PeerFrame) (p : Producer) : SendItem := { content := .frame f, producer := p }
  { running with
    ctc := { running.ctc with freeList := [5, 6] }
    hdu := { running.hdu with slots := [some ⟨⟨7, 0, 0, 1, false, 3⟩, false, false, false⟩], lifted := [⟨8, 4, 0, false⟩] }
    cnu := { openSpace := 50, claims := [claim], appeals := [{ index := 0, key := 10, timer := none, appealed := true }] }
    pbc := { running.pbc with sendQueue := [item (.hold 7 0 0 1) .byPayload, item (.hold 9 0 0 1) .byPayload,
      item (.lift 8 4) .byPayload, item (.drop 13 .damaged) (.announcement 3 false), item (.drop 9 .disposed) (.announcement 6 false),
      item (.claim 77) .byPayload, item (.want { wantOf 2 with key := 10 }) .byPayload,
      item (.haveCopy 10 5 0) (.announcement 0 false), item (.haveCopy 11 5 0) (.announcement 1 true),
      item (.haveCopy 11 5 0) (.repair 1), { content := .beacon }] } }

/-- What each producer owes again after the queue has been emptied, by an own id on the bus and by the entry to SILENT; a
superseded HAVE is left alone, and so is one whose record cannot be read. -/
theorem witness_discards :
    ∀ t ∈ [after (.frameReceived 3 queued.pbc.ownId []) queued,
        after (.sendError .bit) { queued with
          pbc := { queued.pbc with attempt := some (.claim 77), sendCount := 234, confinement := .restrained } }],
      t.pbc.sendQueue = [] ∧ t.hdu.slots = [some ⟨⟨7, 0, 0, 1, false, 3⟩, false, false, true⟩] ∧
        t.hdu.lifted = [⟨8, 4, 0, true⟩] ∧ t.cnu.claims = [{ claim with owed := true }] ∧
        t.cnu.appeals.map Appeal.wantOwed = [true] ∧ t.cnu.repairs = [1] ∧
        [0, 1, 3, 6].map (fun i => (entryAt t i).owed) = [.haveFrame, .nothing, .dropFrame, .dropFrame] ∧
        t.ctc.freeList = [5] ∧ t.ctc.writes.map EntryWrite.index = [3, 6, 0] := by decide +kernel

/-- The records of `queued` that the discards speak of, and one that cannot be read. -/
theorem witness_discardRecords :
    slotOf queued 7 = some 0 ∧ (slotAt queued 0).isSome = true ∧ slotOf queued 9 = none ∧
      ((entryAt queued 0).state ≠ .free ∧ (entryAt queued 0).shortKey = 10 ∧ (entryAt queued 0).owed ≠ .haveFrame) ∧
      ((entryAt queued 3).shortKey = 13 ∧ (entryAt queued 3).owed ≠ .dropFrame ∧ (entryAt queued 3).shortKey ≠ 14) ∧
      (6 ∈ queued.ctc.freeList ∧ (entryAt queued 6).state = .free ∧ 7 ∉ queued.ctc.freeList) ∧ ¬ Unreadable queued 0 ∧
      (let s := { queued with ctc := { queued.ctc with node := .storeFault, unread := [0] } }
       Unreadable s 0 ∧ (entryAt (emptyQueue s) 0).owed = .nothing ∧ (entryAt (emptyQueue s) 3).owed = .dropFrame ∧
         (emptyQueue s).ctc.unread = [] ∧ (emptyQueue s).ctc.writes = []) := by decide +kernel

/-- A SILENT node whose recovery count stands at `n`. -/
def silent (n : Nat) (dup : Bool) : State :=
  withPbc { running.pbc with
    confinement := .silent, sendCount := 240, recoveryCount := n, caution := true, dupId := dup }

/-- The bits before a frame or an error take a SILENT node at a recovery count of 64 out of SILENT, whatever they are. -/
theorem witness_gapLeaves :
    Powered (silent 64 true) ∧ (silent 64 true).pbc.confinement = .silent ∧
      ∃ v, exec .leaveSilent (silent 64 true) = .next v ∧ v.pbc.confinement ≠ .silent := by
  refine ⟨by decide, rfl, readGap (silent 64 true), rfl, ?_⟩
  have h : 64 ≤ (countGap (silent 64 true)).pbc.recoveryCount := Nat.le_of_eq (countGap_full rfl).symm
  rw [readGap_eq, if_pos (show (silent 64 true).pbc.confinement = .silent from rfl), if_pos h]
  have hd : (becomeVoiced (countGap (silent 64 true))).pbc.dupId = true := by
    rw [becomeVoiced_pbc, countGap_pbc]; rfl
  unfold leaveSilent
  rw [if_pos hd, becomeVoiced_pbc]
  nofun

/-- Short of that the free values decide; a node they leave below 64 stays SILENT with its counts. -/
theorem witness_gapStays :
    Powered (silent 0 false) ∧ CautionKept (silent 0 false) ∧ (silent 0 false).pbc.awaitingEleven = false ∧
      (silent 0 false).pbc.attempt = none ∧ (silent 0 false).pbc.confinement = .silent ∧
      ∃ v, exec .leaveSilent (silent 0 false) = .next v ∧
        ((countGap (silent 0 false)).pbc.recoveryCount < 64 → v.pbc.confinement = .silent) := by
  refine ⟨by decide, by decide, rfl, rfl, rfl, readGap (silent 0 false), rfl, fun h => ?_⟩
  rw [readGap_eq, if_pos (show (silent 0 false).pbc.confinement = .silent from rfl), if_neg (by omega), countGap_pbc]
  rfl

/-- A VOICED node at the edge of its counts, a RESTRAINED one at the edge and inside, and a SILENT one read a frame; a
Receive FIFO of 22, 23 and 24. -/
theorem witness_ReceivedFramesAndOwnId :
    (∀ p ∈ [(Confinement.voiced, 119, 120), (.restrained, 119, 120), (.restrained, 120, 0), (.restrained, 239, 200), (.silent, 240, 7)],
      let s := withPbc { running.pbc with confinement := p.1, sendCount := p.2.1, recvCount := p.2.2, caution := true }
      Powered s ∧ s.pbc.awaitingEleven = false ∧ s.pbc.attempt = none ∧ CautionKept s ∧
        ((s.pbc.confinement = .voiced ∧ s.pbc.sendCount < 120 ∧ s.pbc.recvCount ≤ 120) ∨
          (s.pbc.confinement = .restrained ∧ s.pbc.sendCount < 240) ∨ s.pbc.confinement = .silent)) ∧
    readPayload 3 (payloadOf (.claim 4)) = some (.claim 4) ∧ readPayload 3 [] = none ∧ (5 : NodeId) ≠ running.pbc.ownId ∧
    (withPbc { running.pbc with attempt := some (.claim 4) }).pbc.attempt ≠ none ∧ running.pbc.dupId = false ∧
    [22, 23, 24].map (fun n =>
        (after (.frameReceived 3 5 (payloadOf (.claim 4)))
          (withPbc { running.pbc with rxFifo := List.replicate n ⟨1, .claim 4⟩ })).pbc.rxFifo.length) = [23, 24, 24] := by
  decide +kernel

/-- A BEACON waits for its start bit, in a node with a restrained wait due and without one; values that win, tie and lose. -/
theorem witness_AttemptsAndArbitration :
    (let s := withPbc { running.pbc with sendQueue := [{ content := .beacon }] }
     Powered s ∧ s.pbc.awaitingEleven = false ∧ s.pbc.restrainedWait = false ∧ s.pbc.rateChange = none ∧
       s.pbc.attempt = none ∧ s.pbc.sendQueue = { content := .beacon } :: [] ∧
       (withPbc { s.pbc with restrainedWait := true }).pbc.restrainedWait = true) ∧
    running.pbc.sendQueue = [] ∧ running.pbc.attempt = none ∧
    [48, 47, 49].map (fun w : BitVec 7 =>
        (after (.arbitrationLost w) (withPbc { running.pbc with attempt := some (.claim 4) })).pbc.attempt.isNone) =
      [false, true, false] := by
  decide +kernel

/-- A sent frame at counts on both sides of the caution level, of a VOICED and a RESTRAINED node, with and without a held
BEACON; owed frames of each producer. -/
theorem witness_SentFramesAndGrants :
    (∀ held ∈ [false, true],
      ∀ p ∈ [(Confinement.voiced, 60), (.voiced, 61), (.voiced, 120), (.restrained, 120), (.restrained, 121), (.restrained, 240)],
        let q : SendItem := { content := .frame (.claim 4), inAttempt := true }
        let s := withPbc { running.pbc with
          attempt := some (.claim 4), sendQueue := [q], confinement := p.1, sendCount := p.2, caution := true, heldBeacon := held }
        Powered s ∧ s.pbc.attempt = some (.claim 4) ∧ CautionKept s ∧ s.pbc.sendQueue = [] ++ q :: [] ∧ q.inAttempt = true ∧
          ((s.pbc.confinement = .voiced ∧ s.pbc.recvCount < 120 ∧ s.pbc.sendCount ≤ 120) ∨
            (s.pbc.confinement = .restrained ∧ s.pbc.sendCount ≤ 240))) ∧
    canOffer running = true ∧ canOffer State.reset = false ∧
    (grantOne (withHdu { running.hdu with lifted := [⟨7, 4, 0, true⟩] })).pbc.sendQueue.map SendItem.content =
      [.frame (.lift 7 4)] ∧
    (grantOne (withHdu { running.hdu with slots := [some ⟨⟨7, 0, 0, 1, false, 3⟩, false, false, true⟩] })).pbc.sendQueue.map
      SendItem.content = [.frame (.hold 7 0 0 1)] ∧
    (∀ p ∈ [(0, { entry .retained 10 0 with owed := .haveFrame }), (6, { shortKey := 9, owed := .dropFrame })],
      let s := { running with ctc := { running.ctc with work := [p] } }
      catWf s.ctc.work = true ∧ s.ctc.work = [] ++ p :: [] ∧ grantable s p = true) ∧
    (grantOne (withCnu { running.cnu with claims := [{ claim with owed := true }] })).pbc.sendQueue.map SendItem.content =
      [.frame (.claim 77)] ∧
    (let a : Appeal := { index := 0, key := 10, timer := none, appealed := true, wantOwed := true }
     let s := withCnu { running.cnu with appeals := [a] }
     (s.cnu.appeals.map Appeal.index).Nodup ∧ appealable s (entryAt s 0) = false ∧
       appealable { s with rck := { s.rck with rf := 0 } } (entryAt s 0) = true) ∧
    (grantOne (withCnu { running.cnu with repairs := [2, 0] })).cnu.repairs = [] ∧ ¬ ScrubbableAt running 2 ∧
    ScrubbableAt running 0 ∧ grantOne running = running := by decide +kernel

/-- Grants in a STORE FAULT in which the record of entry 0 cannot be read: its owed HAVE, its WANT and its repair HAVE are
passed over and stay owed, and those of entry 1 are sent. -/
theorem witness_grantsPassOver :
    let a (i : Nat) : Appeal := { index := i, key := 10, timer := none, appealed := true, wantOwed := true }
    let s : State := { running with
      ctc := { running.ctc with node := .storeFault, unread := [0] }, rck := { running.rck with rf := 0 } }
    let owing : State := { s with ctc := { s.ctc with work :=
      [(0, { entry .retained 10 0 with owed := .haveFrame }), (1, { entry .releasable 11 10 with owed := .haveFrame })] } }
    let wanting : State := { s with cnu := { appeals := [a 0, a 1] } }
    let repairing : State := { s with cnu := { repairs := [0, 1] } }
    Unreadable s 0 ∧ ¬ Unreadable s 1 ∧ catWf owing.ctc.work = true ∧
      [0, 1].map (fun i => (entryAt (grantOne owing) i).owed) = [.haveFrame, .nothing] ∧
      (wanting.cnu.appeals.map Appeal.index).Nodup ∧
      (grantOne wanting).cnu.appeals.map Appeal.wantOwed = [true, false] ∧
      (grantOne repairing).cnu.repairs = [0] ∧
      [owing, wanting, repairing].map (fun u => (grantOne u).pbc.sendQueue.length) = [1, 1, 1] := by decide +kernel

/-- Send and receive errors on both sides of RESTRAINED and SILENT, of a RESTRAINED node below 234, and of a SILENT one. -/
theorem witness_ErrorsMoveTheCounts :
    (∀ p ∈ [(Confinement.voiced, 0), (.voiced, 113), (.voiced, 114), (.voiced, 233), (.restrained, 120), (.restrained, 233)],
      let s := withPbc { running.pbc with attempt := some (.claim 4), confinement := p.1, sendCount := p.2 }
      Powered s ∧ s.pbc.attempt = some (.claim 4) ∧ s.pbc.sendCount + 6 < 240 ∧
        (s.pbc.confinement = .voiced ∨ s.pbc.confinement = .restrained ∧ SendFault.bit ≠ .noAck)) ∧
    (∀ n ∈ [234, 240],
      let s := withPbc { running.pbc with attempt := some (.claim 4), sendCount := n, confinement := .restrained }
      s.pbc.confinement = .restrained ∧ 234 ≤ s.pbc.sendCount ∧ s.pbc.sendCount ≤ 240 ∧ SendFault.bit ≠ .noAck) ∧
    (let s := withPbc { running.pbc with errorSeq := some ⟨false, true, false⟩, sendCount := 239, recvCount := 200 }
     s.pbc.errorSeq = some ⟨false, true, false⟩ ∧ s.pbc.awaitingEleven = false ∧ s.pbc.attempt = none ∧ s.pbc.confinement ≠ .silent ∧
       s.pbc.sendCount < 240) ∧
    (∀ n ∈ [114, 233],
      let s := withPbc { running.pbc with errorSeq := some ⟨true, false, false⟩, sendCount := n, confinement := .restrained, caution := true }
      s.pbc.confinement = .restrained ∧ s.pbc.errorSeq = some ⟨true, false, false⟩ ∧ s.pbc.sendCount < 234 ∧ 114 ≤ s.pbc.sendCount ∧
        s.pbc.caution = true ∧ s.pbc.awaitingEleven = false) ∧
    (let s := withPbc { running.pbc with errorSeq := some ⟨false, false, false⟩, sendCount := 240, confinement := .silent }
     s.pbc.confinement = .silent ∧ s.pbc.awaitingEleven = false ∧ s.pbc.attempt = none ∧ s.pbc.errorSeq ≠ none) ∧
    running.pbc.confinement ≠ .silent ∧
    (∀ s ∈ [silent 0 false, silent 64 true], Powered s ∧ s.pbc.confinement = .silent ∧ s.pbc.awaitingEleven = false ∧
      s.pbc.attempt = none) := by decide

/-- The bits of a SILENT node's error sequence: dominant bits alone after its first run; and a node that its first run finds
at 64 leaves SILENT. -/
theorem witness_dominantRuns :
    (let s := withPbc { (silent 63 false).pbc with runCount := 15, errorSeq := some ⟨false, false, true⟩ }
     (after .dominantRunError s).pbc.runCount = 0 ∧ (after .dominantRunError s).pbc.recoveryCount = 63) ∧
    (let s := withPbc { (silent 64 true).pbc with errorSeq := some ⟨false, false, false⟩ }
     ∃ v, exec .dominantRunError s = .next v ∧ v.pbc.confinement = .voiced) := by
  refine ⟨by decide, _, rfl, ?_⟩
  show (readDominantRun (withPbc { (silent 64 true).pbc with errorSeq := some ⟨false, false, true⟩ })).pbc.confinement = .voiced
  rw [readDominantRun_eq _ _ rfl]
  refine (congrArg (fun t : State => t.pbc.confinement) (if_pos ?_)).trans rfl
  exact afterRecessive_keeps _ (c := (0, 64)) (Nat.le_refl 64)

/-- A SILENT node one count short of its recovery and at its end. -/
theorem witness_LineReturnsAndChangesRate :
    (∀ n ∈ [63, 64],
      let s := withPbc { running.pbc with confinement := .silent, sendCount := 240, recoveryCount := n }
      Powered s ∧ s.pbc.confinement = .silent ∧ (64 ≤ s.pbc.recoveryCount ↔ n = 64) ∧ s.pbc.dupId = false ∧
        s.ctc.inForce = some cfg) ∧
    (let s := withPbc { running.pbc with rateChange := some 2 }
     s.pbc.rateChange = some 2 ∧ s.pbc.attempt = none ∧ s.pbc.awaitingEleven = false) ∧
    running.pbc.confinement ≠ .silent ∧ running.pbc.rateChange = none := by decide

/-- A refresh walk with entries still to visit, one with none left and another pending, and the end of the load walk; a scrub is
offered, and the free port granted to it, in the same command. -/
theorem witness_mediaTails :
    (∀ p ∈ [(0, some (⟨.refresh 0, 0, none⟩ : Walk)), (5, some ⟨.refresh 7, 0, none⟩)],
      let s := { withHdu { running.hdu with epoch := 7 } with
        rwk := { running.rwk with walk := some ⟨.refresh 0, p.1, none⟩, pendingWalk := true } }
      (walkProgress s).rwk.walk = p.2 ∧ ((walkProgress s).rwk.pendingWalk = true ↔ p.1 = 0)) ∧
    (let s := { inNode .loading with rwk := { walk := some ⟨.load, 131072, none⟩ } }
     (walkProgress s).ctc.node = .running ∧ (walkProgress s).rwk.loadEnded = true) ∧
    scrubWanted running = true ∧ (after .scrubTick running).mar.inFlight.isSome = true ∧ running.mar.inFlight = none := by decide +kernel

/-- A full Lifted List, one that holds the matter, and a short one; a full Watch Log, another key and no key. -/
theorem witness_listsAndLogs :
    (let s := withHdu { running.hdu with lifted := (List.range 16).map fun i => ⟨BitVec.ofNat 32 i, 1, 1, decide (i = 3)⟩ }
     ((addLifted 3 5 s).hdu.lifted.map Lifted.matter).getLast? = some 3 ∧ (addLifted 3 5 s).hdu.lifted.length = 16 ∧
       (addLifted 3 5 s).hdu.lifted.getLast? = some ⟨3, 5, 0, true⟩ ∧ (addLifted 3 5 s).hdu.lifted.head?.map Lifted.matter = some 0 ∧
       (addLifted 77 5 s).hdu.lifted.length = 16 ∧ (addLifted 77 5 s).hdu.lifted.head?.map Lifted.matter = some 1 ∧
       (addLifted 77 5 running).hdu.lifted = [⟨77, 5, 0, false⟩]) ∧
    (∀ n ∈ [0, 7, 8],
      let hit : Hit := ⟨10, { holder := true }, 0, .retained, 0, 0⟩
      let s := { running with sli := { watchKey := some 10, watchLog := (List.range n).map fun i => ⟨i, true, hit⟩ } }
      (recordHit (some hit) s).sli.watchLog.length = min 8 (n + 1) ∧
        ((recordHit (some hit) s).sli.watchLog.head?.map WatchRec.rt) = some (if n = 8 then 1 else if n = 0 then 200000 else 0) ∧
        (recordHit (some hit) s).evu.flags.getLsbD 5 = true ∧ recordHit (some { hit with key := 11 }) s = s ∧
        recordHit (some hit) running = running) := by decide +kernel

/-- Tables 12-3 and 12-4: eight extent slots, and the bytes of a configuration record. -/
theorem witness_operandFields :
    (∃ (slots : BitVec 576) (es : List (BitVec 40 × BitVec 32)), es.length = 8 ∧
      toBytes 72 slots.toNat = es.flatMap (fun x => toBytes 5 x.1.toNat ++ toBytes 4 x.2.toNat) ∧
      usedSlots slots 2 = [⟨5, 2⟩, ⟨300, 65536⟩]) ∧
    ∃ byte : Nat → Nat, ∀ i < 52, byte i = ((0x05030A : BitVec 416).extractLsb' (8 * (51 - i)) 8).toNat := by
  refine ⟨⟨BitVec.ofNat 576 (ofBytes ([(5, 2), (300, 65536), (7, 1), (7, 1), (7, 1), (7, 1), (7, 1), (7, 1)].flatMap fun x =>
    toBytes 5 x.1 ++ toBytes 4 x.2)), [(5, 2), (300, 65536), (7, 1), (7, 1), (7, 1), (7, 1), (7, 1), (7, 1)], rfl, ?_, ?_⟩, _,
    fun _ _ => rfl⟩ <;> decide +kernel

/-- Two owed frames are granted one after another, and a queue with room for one takes one. -/
theorem witness_grantAll :
    ∀ n ∈ [0, 15],
      let s := { withHdu { running.hdu with lifted := [⟨7, 4, 0, true⟩, ⟨8, 5, 0, true⟩] } with
        pbc := { running.pbc with sendQueue := List.replicate n { content := .frame (.hold 9 0 0 1) } } }
      (grantAll s).pbc.sendQueue.length = min 16 (n + 2) ∧
        (grantAll s).hdu.lifted.map Lifted.owed = [false, decide (n = 15)] := by decide +kernel

/-- A BEACON at the skew tolerance and one second beyond it. -/
theorem witness_BeaconsFillThePeerTable :
    ∀ stamp ∈ [203600, 203601],
      let s := withPbc { running.pbc with rxFifo := [⟨15, .beacon stamp false false false⟩] }
      Powered s ∧ s.pbc.rxFifo = ⟨15, .beacon stamp false false false⟩ :: [] ∧ (15 : NodeId).toNat < s.pbc.peers.length ∧
        (peerAt (after .beaconDispatch s) 15).marker = (if stamp = 203600 then .usable else .skewed) := by decide +kernel

/-- A HAVE that brings an entry to K live holders, one that leaves it short, and one of a key no entry holds; a DROP of a key
an entry holds, which is then appealed for, and of one none holds. -/
theorem witness_censusFrames :
    (∀ p ∈ [((0x000C : NodeSet), 0), (0, 1)],
      let s := { withPbc { running.pbc with
          peers := peersPresent, rxFifo := [⟨5, .haveCopy 10 1 0⟩] } with
        ctc := { running.ctc with work := [(0, { entry .retained 10 0 with holders := p.1 })] }
        rck := { running.rck with rf := 0 }
        cnu := { appeals := [{ index := 0, key := 10, timer := none, appealed := true, wantOwed := true }] } }
      let e := { entryAt s 0 with holders := setAdd (entryAt s 0).holders 5 }
      findKey s 10 = some 0 ∧ (liveHolders s e < copyTarget s ↔ p.2 = 1) ∧ (after .haveDispatch s).cnu.appeals.length = p.2) ∧
    findKey running 77 = none ∧
    (let s := { withPbc { running.pbc with peers := peersPresent, rxFifo := [⟨5, .drop 10 .damaged⟩] } with
        ctc := { running.ctc with work := [(0, { entry .retained 10 0 with holders := 0x0028 })] }
        rck := { running.rck with rf := 0 } }
     let t := after .dropDispatch s
     findKey s 10 = some 0 ∧ t.ctc.writes.length = 1 ∧ t.cnu.appeals = [] ∧ t.pbc.sendQueue = [] ∧
       (after (.entryWriteComplete 0) t).cnu.appeals.map Appeal.index = [0] ∧
       (after .dropDispatch { s with ctc := { s.ctc with node := .storeFault } }).cnu.appeals.map Appeal.index = [0] ∧
       (after .dropDispatch { s with ctc := { s.ctc with work := [(0, entry .retained 10 0)] } }).cnu.appeals.length = 1) := by
  decide +kernel

/-- A HAVE, a DROP and a WANT test an Appeal List entry (R129, R164): a DAMAGED one, short but not eligible, leaves; and the WANT
that brings an entry to K live holders takes it off the list. -/
theorem witness_appealTests :
    ∀ f ∈ [PeerFrame.haveCopy 10 1 0, .drop 10 .damaged, .want { wantOf 2 with key := 10 }],
      ∀ p ∈ [(EntryState.damaged, (0 : NodeSet), 0), (.retained, 0, 1), (.retained, 0x000C, 0)],
        f = .drop 10 .damaged ∧ p.2.1 ≠ 0 ∨
        (let s := { withPbc { running.pbc with peers := peersPresent, rxFifo := [⟨5, f⟩] } with
           ctc := { running.ctc with work := [(0, { entry p.1 10 0 with holders := p.2.1 })] }
           rck := { running.rck with rf := 0 }
           cnu := { appeals := [{ index := 0, key := 10, timer := none, appealed := true, wantOwed := true }] } }
         let c := match f with | .haveCopy .. => Instr.haveDispatch | .drop .. => .dropDispatch | _ => .wantDispatch
         (after c s).cnu.appeals.length = p.2.2) := by decide +kernel

/-- The members that the terms of the census count (R8, R125). -/
theorem witness_censusTerms :
    (let s := withPbc { running.pbc with peers := peersPresent }
     let ids := allNodes.filter fun id => isPresent s id && (0x002C : NodeSet).getLsbD id.toNat
     ids.Nodup ∧ 2 ≤ ids.length ∧
       ∀ id, id ∈ ids ↔ (peerAt s id).presence = .present ∧ (0x002C : NodeSet).getLsbD id.toNat = true) ∧
    (let s := withPbc { running.pbc with peers := peersPresent, ownId := 9 }
     let before := fun id : NodeId => decide (placementPosition 10 id < placementPosition 10 s.pbc.ownId)
     let ids := allNodes.filter fun id => isPresent s id && !(0x0004 : NodeSet).getLsbD id.toNat && before id
     ids.Nodup ∧ ids ≠ [] ∧ ∀ id, id ∈ ids ↔ (peerAt s id).presence = .present ∧ (0x0004 : NodeSet).getLsbD id.toNat = false ∧
       placementPosition 10 id < placementPosition 10 s.pbc.ownId) := by decide +kernel

/-- Frames for a key an entry holds and for one none holds; a parcel as large as the open space and one larger. -/
theorem witness_WantsAndCensusFrames :
    (let s := withPbc { running.pbc with rxFifo := [⟨5, .haveCopy 10 1 0⟩] }
     Powered s ∧ catWf s.ctc.work = true ∧ s.pbc.rxFifo = ⟨5, .haveCopy 10 1 0⟩ :: [] ∧ findKey s 10 = some 0 ∧
       s.ctc.node ≠ .storeFault ∧ setHas (entryAt s 0).holders 5 = false) ∧
    (let s := { withPbc { running.pbc with rxFifo := [⟨5, .want (wantOf 50)⟩], peers := peersPresent } with
       ctc := { running.ctc with inForce := some cfg } }
     findKey s 77 = none ∧ MayRecruit s 50 190000 0 false ∧ ¬ MayRecruit s 51 190000 0 false ∧
       0 < recruitRank s 77 (setRemove 0x000E s.pbc.ownId) * inForceOr s Settings.recruitStep 0 ∧
       (after .wantDispatch s).cnu.candidates.length = 1 ∧
       (let u := { s with ctc := { s.ctc with inForce := some { cfg with recruitStep := 0 } } }
        recruitRank u 77 (setRemove 0x000E u.pbc.ownId) * inForceOr u Settings.recruitStep 0 = 0 ∧
          (after .wantDispatch u).cnu.claims.length = 0)) ∧
    (∀ canSend ∈ [false, true], ∀ i ∈ [(0 : Nat), 3],
      let s := withPbc { running.pbc with
        rxFifo := [⟨5, .want { wantOf 50 with key := BitVec.ofNat 64 (10 + i) }⟩], sendOpen := canSend }
      findKey s (BitVec.ofNat 64 (10 + i)) = some i ∧ setHas (entryAt s i).holders 5 = false ∧ canOffer s = canSend ∧
        (ScrubbableAt s i ↔ i = 0) ∧
        setHas (entryAt { s with ctc := { s.ctc with work := [(i, { entry .retained (10 + i) 0 with holders := 0x0020 })] } } i).holders 5 = true) ∧
    (let s := withCnu { openSpace := 50, candidates := [candidate], claims := [claim] }
     s.cnu.candidates = [] ++ candidate :: [] ∧ candidate.key = 77 ∧ candidate.timer ≠ none ∧ ∃ c ∈ s.cnu.claims, c.key = 77) := by
  decide +kernel

/-- A timer that ends short of K, one that ends with K live holders, one that does not run, and keys without a candidate or claim. -/
theorem witness_RecruitTimersAndExpiries :
    (let s := withCnu { openSpace := 50, candidates := [candidate] }
     Powered s ∧ s.cnu.candidates = [] ++ candidate :: [] ∧ candidate.timer = some 100 ∧
       (presentMembers s candidate.holders).length < copyTarget s ∧
       MayRecruit s candidate.size candidate.lodgeTime candidate.cls candidate.held ∧
       (after (.recruitTimerExpiry 77) s).cnu.claims.length = 1) ∧
    (let s := { withCnu { openSpace := 50, candidates := [candidate] } with pbc := { running.pbc with peers := peersPresent } }
     copyTarget s ≤ (presentMembers s candidate.holders).length) ∧
    (let c := { candidate with timer := none }
     (withCnu { candidates := [c] }).cnu.candidates = [] ++ c :: [] ∧ c.timer = none) ∧
    (∀ c ∈ running.cnu.candidates, c.key ≠ 77) ∧ (∃ c ∈ (withCnu { claims := [claim] }).cnu.claims, c.key = 77) ∧
    (∀ ms ∈ [35999999, 36000000],
      let s := { withCnu { candidates := [candidate] } with coreMs := ms }
      (s.coreMs < candidate.lastWant + claimLifetime s ↔ ms = 35999999) ∧
        ((after (.candidateExpiry 77) s).cnu.candidates = [] ↔ ms = 36000000)) := by
  decide +kernel

/-- A waiting and an appealed entry that is no longer eligible; one that is short and eligible, with a node that stands
before this one and with a step of 0; and an index that is not on the list. -/
theorem witness_AppealTimersSendWants :
    (∀ b ∈ [false, true],
      let s := withCnu { appeals := [{ index := 0, key := 10, appealed := b, timer := none }] }
      Powered s ∧ s.cnu.appeals = [] ++ { index := 0, key := 10, appealed := b, timer := none } :: [] ∧
        (decide (liveHolders s (entryAt s 0) < copyTarget s) &&
          decide ((entryAt s 0).state = .retained ∨ (entryAt s 0).state = .releasable) &&
          decide (s.rck.rf < (entryAt s 0).expiry ∨ 0 < (entryAt s 0).holdCount)) = false) ∧
    (let s := { withCnu { appeals := [{ index := 0, key := 10, appealed := true, timer := none }] } with
       pbc := { running.pbc with peers := { presence := .self } :: { presence := .present } :: List.replicate 14 {} }
       rck := { running.rck with rf := 0 }
       ctc := { running.ctc with work := [(0, { entry .retained 1 0 with holders := 2 })] } }
     (decide (liveHolders s (entryAt s 0) < copyTarget s) &&
       decide ((entryAt s 0).state = .retained ∨ (entryAt s 0).state = .releasable) &&
       decide (s.rck.rf < (entryAt s 0).expiry ∨ 0 < (entryAt s 0).holdCount)) = true ∧
       0 < appealRank s (entryAt s 0) * inForceOr s Settings.appealStep 0 ∧
       (let u := { s with ctc := { s.ctc with inForce := some { cfg with appealStep := 0 } } }
        appealRank u (entryAt u 0) * inForceOr u Settings.appealStep 0 = 0)) ∧
    (∀ a ∈ running.cnu.appeals, a.index ≠ (131071 : BitVec 17).toNat) ∧
    (∀ ms ∈ [35999999, 36000000],
      let a : Appeal := { index := 0, key := 10, appealed := true, timer := none }
      let s := { withCnu { appeals := [a] } with coreMs := ms }
      (a.appealTime + claimLifetime s ≤ s.coreMs ↔ ms = 36000000) ∧
        ((after (.appealRearm 0) s).cnu.appeals = [] ↔ ms = 36000000) ∧
        (let u := { s with ctc := { s.ctc with node := .storeFault, unread := [0] } }
         Unreadable u 0 ∧ (after (.appealRearm 0) u).cnu.appeals = [a] ∧
           ((after (.appealRearm 0) u).ctc.unread = [] ↔ ms = 36000000))) := by decide +kernel

theorem witness_TimersAndBeaconOffers :
    Powered running ∧ running.ctc.inForce = some cfg ∧ running.pbc.beaconTimer ≠ none ∧ running.scs.tickTimer ≠ none ∧
      (withRwk { settle := .until 9, loadEnded := true }).rwk.settle = .until 9 ∧
      (∀ ms ∈ [29999, 30000],
        let s := { withPbc { running.pbc with peers := peersPresent } with coreMs := ms }
        (peerAt s 15).presence = .present ∧ (peerAt s 15).heardAt = some 0 ∧ (0 + presenceWindow s ≤ s.coreMs ↔ ms = 30000)) ∧
      (peerAt running 0).presence ≠ .present ∧
      running.pbc.dupId = false ∧ running.pbc.confinement ≠ .silent ∧ running.pbc.sendOpen = true ∧
      (∃ q ∈ (withPbc { running.pbc with sendQueue := [{ content := .beacon, inAttempt := true }] }).pbc.sendQueue,
        q.content = .beacon ∧ q.inAttempt = true) ∧
      (let s := withPbc { running.pbc with sendQueue := List.replicate 16 { content := .frame (.claim 4) } }
       (∀ q ∈ s.pbc.sendQueue, q.content ≠ .beacon) ∧ 16 ≤ s.pbc.sendQueue.length) := by decide +kernel

/-- RT at its top and below it; a floor value outstanding; BDT carried across a day boundary by two clocks. -/
theorem witness_TimeAndFloorAdvance :
    (after .rtAdvance (withRck { rt := 1099511627775, rtValid := false })).rck.rt = 1099511627775 ∧
      (after .rtAdvance (withRck { rt := 1099511627774, rtValid := false })).rck.rt = 1099511627775 ∧
      Powered running ∧ running.rck.rtValid = true ∧ running.ctc.inForce = some cfg ∧ awaiting.ctc.inForce = none ∧
      (withRck { running.rck with floorWrites := [172800] }).rck.floorWrites = 172800 :: [] ∧
      (let s := { withPbc { running.pbc with
           peers := { presence := .self } :: { presence := .present, marker := .usable, stamp := some 172799, localTime := some 172799 } :: List.replicate 14 {} } with
         rck := { rt := 172799, rtValid := true, bdt := 172799, rf := 86400 } }
       (after .rtAdvance s).rck.floorWrites = [172800] ∧ (after .rtAdvance s).rck.bdt = 172800) := by decide +kernel

/-- Load visits of the first index and of the last one, after which an entry is occupied or none is; of owed-free indices
with the Send Queue open and closed; and of entries of every state, changed by the visit and not. -/
theorem witness_LoadVisitsReadTheStore :
    (let s (i : Nat) (cat : Cat) : State := { inNode .loading with
       rwk := { walk := some ⟨.load, i, none⟩ }, ctc := { running.ctc with node := .loading, work := cat } }
     (Powered (s 0 []) ∧ (s 0 []).rwk.walk = some ⟨.load, 0, none⟩ ∧ (entryAt (s 0 [(0, entry .retained 10 0)]) 0).owed = .nothing) ∧
     (let u := s 0 [(0, { entry .retained 10 0 with expiry := 1099511627775 })]
      expiryOf (entryAt u 0).lodgeTime (periodInForce u (entryAt u 0).cls) ≤ (entryAt u 0).expiry) ∧
     (∀ is_open ∈ [false, true],
       let u := { s 6 [(6, { shortKey := 9, owed := .dropFrame })] with pbc := { running.pbc with sendOpen := is_open } }
       (entryAt u 6).state = .free ∧ (entryAt u 6).owed = .dropFrame ∧ canOffer u = is_open ∧ catWf u.ctc.work = true ∧
         u.ctc.node ≠ .storeFault) ∧
     (∀ st ∈ [EntryState.lodging, .retained, .releasable, .disposing, .damaged],
       ∀ e ∈ [{ entry st 10 0 with expiry := 1099511627775 }, { entry st 10 0 with owed := .haveFrame, refill := some [⟨60, 2⟩] }],
         let u := s 0 [(0, e)]
         (entryAt u 0).state ≠ .free ∧ u.ctc.loadStopped = false ∧
           (st ≠ .releasable → st ≠ .disposing → ((after .loadVisit u).ctc.writes = [] ↔ e.owed = .nothing))) ∧
     (∀ cat ∈ [[], [(0, entry .retained 10 0)]],
       (s 131071 cat).rwk.walk = some ⟨.load, 131071, none⟩ ∧ (entryAt (s 131071 cat) 131071).state = .free ∧
         (entryAt (s 131071 cat) 131071).owed ≠ .dropFrame ∧ (s 131071 cat).ctc.node = .loading)) ∧
    (∀ i, running.rwk.walk ≠ some ⟨.load, i, none⟩) := by
  refine ⟨by decide +kernel, nofun⟩

/-- Refresh visits of an entry that changes and of one that does not, with entries above and without any. -/
theorem witness_RefreshVisitsJudgeEntries :
    (∀ e ∈ [entry .retained 10 0, { entry .retained 10 0 with expiry := 1099511627775 }],
      ∀ tail ∈ [[], [(1, entry .releasable 11 10)]],
        let s := { withRwk { walk := some ⟨.refresh 0, 0, none⟩, loadEnded := true, settle := .ended } with
          ctc := { running.ctc with work := (0, e) :: tail } }
        Powered s ∧ catWf s.ctc.work = true ∧ s.rwk.walk = some ⟨.refresh 0, 0, none⟩ ∧ s.ctc.work = [] ++ (0, e) :: tail ∧
          e.state ≠ .free ∧ ((after .refreshVisit s).ctc.writes = [] ↔ e.expiry = 1099511627775) ∧
          liveHolders s e < copyTarget s) ∧
    (∀ k i, running.rwk.walk ≠ some ⟨.refresh k, i, none⟩) := by
  refine ⟨by decide +kernel, nofun⟩

/-- A write with a watch hit and waiting LOOKUPs, of each effect; and what the effects' clauses suppose of the state. -/
theorem witness_EntryWritesComplete :
    (∀ fs ∈ ([[], [.answer ⟨9, 7⟩ .held (.holdCount 1)], [.queueVerify false 0 none], [.visitDone], [.releaseErase],
        [.freed 12 true], [.answer ⟨9, 7⟩ .done .none, .queueErases 0], [.refillTaken [⟨20, 2⟩] [⟨60, 2⟩]], [.refillDropped [⟨60, 2⟩]],
        [.announceHave, .census], [.announceDamaged, .damagedNotices], [.releasableNotice], [.repairHave]] : List (List Effect)),
      let w : EntryWrite := { index := 2, entry := entry .disposing 12 20, effects := fs, lookups := [⟨⟨3, 0x0A⟩, none⟩]
                              hit := some ⟨12, { state := true }, 2, .disposing, 0, 0⟩ }
      let s := withWrites [w]
      Powered s ∧ s.ctc.writes = [] ++ w :: [] ∧ w.index = (2 : BitVec 17).toNat) ∧
    (∀ w ∈ running.ctc.writes, w.index ≠ (131071 : BitVec 17).toNat) ∧
    ((entryAt running 2).state = .disposing ∧ (∀ w ∈ running.ctc.writes, w.index = 2 → w.entry.state = .disposing) ∧
      (entryAt running 0).state ≠ .disposing) ∧
    (let s := withMar { erases := [⟨1, ⟨10, 1⟩, 3⟩, ⟨2, ⟨20, 2⟩, 5⟩], grantedErase := some ⟨2, ⟨20, 2⟩, 0⟩ }
     s.mar.erases = [⟨1, ⟨10, 1⟩, 3⟩] ++ [⟨2, ⟨20, 2⟩, 5⟩] ∧ s.mar.grantedErase = some ⟨2, ⟨20, 2⟩, 0⟩) ∧
    (let s := { running with exg := { running.exg with runs := [⟨0, 2, 0, .entry⟩, ⟨30, 2, 3, .entry⟩, ⟨60, 2, 3, .refill⟩] } }
     s.exg.runs.Perm ([⟨30, 2⟩].map (fun x : Extent => Run.mk x.first x.count 3 .entry) ++
       [⟨60, 2⟩].map (fun x : Extent => Run.mk x.first x.count 3 .refill) ++ [Run.mk 0 2 0 .entry])) ∧
    (canOffer running = true ∧ canOffer State.reset = false ∧ (entryAt running 0).state ≠ .free ∧ entryAt running 5 = {}) ∧
    ScrubbableAt running 0 ∧ ¬ ScrubbableAt running 2 ∧ running.rli.notices.length ≤ 32 := by decide +kernel

theorem witness_FailedStoreAccesses :
    (Powered running ∧ running.ctc.node ≠ .storeFault ∧
      (∃ w ∈ (withWrites [{ index := 2, entry := {} }]).ctc.writes, w.index = (2 : BitVec 17).toNat) ∧
      (withRck { floorWrites := [86400] }).rck.floorWrites ≠ [] ∧ (withScs { cursorWrites := [4] }).scs.cursorWrites ≠ [] ∧
      (after (.storeReadFailed (.entry 2)) running).ctc.node = .storeFault ∧
      (after (.storeReadFailed (.entry 2)) running).ctc.unread = [2]) ∧
    ((inNode .storeFault).ctc.node = .storeFault ∧
      (after (.storeReadFailed (.entry 131071)) (inNode .storeFault)).ctc.unread = [131071]) ∧
    (writeOutstanding running .floor = false ∧ awaiting.ctc.inForce = none ∧ awaiting.ctc.node = .awaitingStart ∧
      awaiting.hdu.writes = [] ∧ (slotAt awaiting 63).map HoldSlot.hold = awaiting.store.holds.getD 63 none) ∧
    (let s := { inNode .loading with rwk := { walk := some ⟨.load, 131071, none⟩ } }
     s.rwk.walk = some ⟨.load, 131071, none⟩ ∧ 131071 < 131072 ∧ s.ctc.node = .loading ∧ s.ctc.node ≠ .storeFault ∧
       (after (.storeReadFailed (.entry 2)) s).rwk.walk = s.rwk.walk) ∧
    (let s := withRwk { walk := some ⟨.refresh 0, 0, none⟩, loadEnded := true }
     s.rwk.walk = some ⟨.refresh 0, 0, none⟩ ∧ s.ctc.work = [] ++ (0, entry .retained 10 0) :: s.ctc.work.tail ∧
       ∃ p ∈ s.ctc.work.tail, 0 < p.1 ∧ p.2.state ≠ .free) ∧
    (∀ f ∈ [PeerFrame.haveCopy 10 1 0, .drop 10 .disposed, .want (wantOf 50), .claim 4],
      (withPbc { running.pbc with rxFifo := [⟨5, f⟩] }).pbc.rxFifo = ⟨5, f⟩ :: [] ∧
        (after (.storeReadFailed .dispatch) (withPbc { running.pbc with rxFifo := [⟨5, f⟩] })).pbc.rxFifo.length =
          (if f = .claim 4 then 1 else 0)) ∧
    running.pbc.rxFifo = [] := by decide +kernel

/-- DORMANT with nothing under way, with a scrub owed, with a scrub in flight, with a host command in flight and with an
entry LODGING; WAKE with MEDIA_READY low and high. -/
theorem witness_DormantAndWake :
    (let s := { running with ctc := { running.ctc with work := [(0, entry .retained 10 0)] } }
     Accepting s 9 ∧
       [replyTo (.dormant 9) s, replyTo (.dormant 9) { s with scs := { s.scs with owed := true } },
         replyTo (.dormant 9) { s with mar := { inFlight := some ⟨7, .scrub 0 [] 0⟩ } },
         replyTo (.dormant 9) { s with mar := { inFlight := some ⟨7, .host ⟨⟨1, 0x0C⟩, .read, 0, 1, 0, 0⟩⟩ } },
         replyTo (.dormant 9) running] = [some .done, some .scrubOwed, none, some .busy, some .busy]) ∧
    Accepting (inNode .dormant) 9 ∧
    [replyTo (.wake 9) (inNode .dormant),
      replyTo (.wake 9) { inNode .dormant with pins := { running.pins with mediaReady := false } }, replyTo (.wake 9) running,
      replyTo (.wake 9) (inNode .waking)] = [some .done, none, some .done, some .busy] := by decide +kernel

/-- The outcome of a service command. -/
def served (c : Instr) (s : State) : Option Reply := (after c s).sli.answer.map SvcAnswer.reply

/-- Inspections at the edges of their ranges, in a node that has loaded index 0 alone. -/
theorem witness_ServiceCommandsInspect :
    Serving running ∧ (withPower .on).sli.answer = none ∧
      (let s := { running with ctc := { running.ctc with loaded := 1 } }
       [served (.inspectEntry 0) s, served (.inspectEntry 1) s, served (.inspectEntry 131072) s, served (.inspectKey 10) s,
         served (.inspectKey 11) s, served (.inspectKey 77) running, served (.inspectHold 63) s, served (.inspectHold 64) s,
         served (.inspectPeer 15) s, served (.inspectPeer 16) s] =
       [some .done, some .notReady, some .badField, some .done, some .notReady, some .unknownKey, some .done, some .badField,
         some .done, some .badField]) ∧
      isServiceCommand .inspectClock = true ∧ awaiting.pins.svcEn = false ∧
      BlockShows running (statusBlock running) ∧ InspectionShows running (inspection running) ∧
      (∃ changing : Nat → Bool, ∀ i, changing i = true ↔ running.ctc.node = .storeFault ∨
        (∃ w ∈ running.ctc.writes, w.index = i) ∨ ∃ w, running.rwk.walk = some w ∧ w.visiting = some i) ∧
      ∃ shown : Entry → Entry, ∀ e, shown e = if e.state ≠ .free then e
        else if e.owed = .dropFrame then { shortKey := e.shortKey, owed := .dropFrame } else {} := by
  refine ⟨by decide, by decide, by decide +kernel, by decide, by decide, ?_, ?_, ⟨_, entryChanging_iff running⟩,
    ⟨_, shownEntry_eq⟩⟩
  · unfold BlockShows
    decide +kernel
  · unfold InspectionShows
    decide +kernel

/-- 12.3 and 12.4: a READ STATUS frame, one of unknown kind, one with a bad check, and frames of the service line. -/
theorem witness_RawFramesAreRead :
    readLinkFrame (linkFrame 9 0x11 []) = .request (.readStatus 9) ∧
      readLinkFrame (linkFrame 9 0x77 []) = .badField 9 0x77 ∧ readLinkFrame (linkFrame 9 0x11 [1]) = .badField 9 0x11 ∧
      readLinkFrame ((linkFrame 9 0x11 []).map (· + 1)) = .discard ∧ readSvcFrame [] = .discard ∧ Serving running := by
  decide +kernel

theorem witness_OnlyRefreshVisitsRelease :
    let s := { running with
      pending := [.refreshVisit]
      rwk := { running.rwk with walk := some ⟨.refresh 0, 0, none⟩ }
      ctc := { running.ctc with inForce := some { cfg with periods := List.replicate 16 (some 0) } } }
    catWf s.ctc.work = true ∧ (entryAt s 0).state ≠ .releasable ∧
      ∃ t, step s = .next t ∧ (entryAt t 0).state = .releasable := by
  refine ⟨by decide +kernel, by decide +kernel, _, rfl, by decide +kernel⟩

theorem witness_ExpiryNeverFalls :
    let s := { running with pending := [.dispose 1 1] }
    catWf s.ctc.work = true ∧ 1 ∉ s.ctc.freeList ∧ (entryAt s 1).state ≠ .free ∧
      (∀ slot rest, s.pending ≠ .warmReset slot :: rest) ∧ (∀ slot kept rest, s.pending ≠ .coldStart slot kept :: rest) ∧
      ∃ t, step s = .next t ∧ (entryAt t 1).state ≠ .free := by
  refine ⟨by decide +kernel, by decide +kernel, by decide +kernel, nofun, nofun, _, rfl, by decide +kernel⟩

theorem witness_ClocksStayInOrder :
    ClockInOrder running ∧ Powered running ∧ (∃ t, step { running with pending := [.rtAdvance] } = .next t ∧ ClockInOrder t) := by
  refine ⟨?_, by decide, _, rfl, ?_⟩ <;> unfold ClockInOrder <;> decide +kernel

theorem witness_CatalogueStaysCanonical :
    CatalogueCanonical running ∧ FreeListInForm running ∧
      ∃ t, step { running with pending := [.dispose 1 1] } = .next t ∧ t.ctc.work ≠ running.ctc.work :=
  ⟨by decide +kernel, by decide +kernel, _, rfl, by decide +kernel⟩

theorem witness_CountsAndQueuesStayInRange :
    (let s := withPbc { running.pbc with attempt := some (.claim 4), sendCount := 240, confinement := .restrained, recvCount := 200 }
     CountsInRange s ∧ QueuesInRange s) ∧
    BalanceInRange (withScs { balance := 8 }) ∧ BalanceInRange (withScs { balance := -8 }) ∧ ListsInRange running ∧
    ∃ t, step { running with pending := [.receiveError .fill] } = .next t ∧ t.pbc.recvCount = 1 := by
  refine ⟨by decide, by decide, by decide, by decide, _, rfl, by decide +kernel⟩

theorem witness_MutedNodesStayMute :
    (let s := withPbc { running.pbc with dupId := true }
     s.pbc.dupId = true ∧ LineMute s) ∧ LineMute (withPbc { confinement := .silent }) ∧
    ∃ t, step { withPbc { running.pbc with dupId := true } with pending := [.beaconTimerExpiry] } = .next t ∧ LineMute t := by
  refine ⟨by decide, by decide, _, rfl, by decide +kernel⟩

theorem witness_PortAndPeersStayInForm :
    OneAtPort (carrying (.erase ⟨2, ⟨20, 2⟩, 0⟩)) ∧ OneAtPort running ∧ PeersKept running ∧
      ∃ t, step { running with pending := [.presenceWindowEnd 15] } = .next t := by
  refine ⟨by decide, by decide, ?_, _, rfl⟩
  unfold PeersKept
  decide +kernel

/-- Frames of the shortest and the longest payload. -/
theorem witness_FramesSurviveTheLine :
    (⟨0, 0, []⟩ : RawFrame).payload.length ≤ 63 ∧ (⟨7, 15, List.replicate 63 255⟩ : RawFrame).payload.length ≤ 63 ∧
      readFrameBits (insertFill 0 true (plainBits ⟨3, 5, payloadOf (.claim 4)⟩)) = .ok ⟨3, 5, payloadOf (.claim 4)⟩ := by
  decide +kernel

/-- Frames at the edges of their fields, and link frames with and without operands. -/
theorem witness_PayloadsAndLinkFrames :
    (PeerFrame.hold 7 32 0 (2 ^ 40 - 1)).Sendable ∧ (PeerFrame.haveCopy 7 (2 ^ 40 - 1) 15).Sendable ∧
      (PeerFrame.want ⟨7, 2 ^ 40 - 1, 15, true, 2 ^ 32 - 1, ⟨4, 0xFFFFFFFF⟩, 0⟩).Sendable ∧
      (PeerFrame.lift 7 0).Sendable ∧ (PeerFrame.beacon 0 true true true).Sendable ∧
      (PeerFrame.drop 7 .damaged).Sendable ∧ (PeerFrame.claim 7).Sendable ∧
      (9 : Byte) ≠ 0 ∧ operandLength 0x07 = some ([0, 0, 1] : List Byte).length ∧
      requestOf 9 0x07 [0, 0, 1] = some (.dispose 9 1) ∧ operandLength 0x07 ≠ some ([] : List Byte).length ∧
      readSvcFrame (svcFrame 0x02 [0, 0, 1]) = .command (.inspectEntry 1) ∧ readSvcFrame (svcFrame 0x09 []) = .badField ∧
      ((0x01 : Byte), [7].length) ∉ [((0x01 : Byte), 0), (0x02, 3), (0x03, 8), (0x04, 1), (0x05, 1), (0x06, 0), (0x07, 8), (0x08, 0)] := by
  refine ⟨?_, ?_, ?_, ?_, ?_, trivial, trivial, by decide +kernel⟩ <;> unfold PeerFrame.Sendable <;> decide +kernel

theorem witness_ExpiryIsTheNextDayBoundary :
    (0 ≤ 1099511627775 ∧ 0 ≤ 36500) ∧ 36500 * 86400 + 1099511627775 ≥ 1099511627775 ∧
      86400 ∣ 0 + 0 * 86400 ∧ ¬ 86400 ∣ 1 + 0 * 86400 ∧ 86400 ∣ 864000 ∧ expiryOf 864001 (some 0) ≠ 1099511627775 := by decide

theorem witness_HoldsMatchByLeadingBits :
    ∀ n ∈ [0, 8, 32], ∀ len ∈ [1, 4], 1 ≤ (⟨len, 0⟩ : Custodian).len ∧ (⟨len, 0⟩ : Custodian).len ≤ 4 ∧
      (⟨1, n, 0, 0, false, 0⟩ : HoldRec).patLen ≤ 32 := by decide

end Sys2Proof.Tests
end

section
/-! PROOFS. The expiry of a parcel (R45, R46): what the rounding up to a day boundary does, then the two saturated cases of
the expiry. -/

namespace Sys2Proof.Machine

/-! ### The day boundary at or above a time -/

theorem daySeconds_dvd_dayAtOrAbove (t : Nat) : daySeconds ∣ dayAtOrAbove t :=
  Nat.dvd_mul_left _ _

theorem le_dayAtOrAbove (t : Nat) : t ≤ dayAtOrAbove t := by
  unfold dayAtOrAbove daySeconds
  omega

theorem dayAtOrAbove_le {t x : Nat} (hday : daySeconds ∣ x) (hle : t ≤ x) : dayAtOrAbove t ≤ x := by
  unfold dayAtOrAbove
  unfold daySeconds at *
  omega

theorem dayAtOrAbove_of_dvd {t : Nat} (hday : daySeconds ∣ t) : dayAtOrAbove t = t :=
  Nat.le_antisymm (dayAtOrAbove_le hday (Nat.le_refl t)) (le_dayAtOrAbove t)

/-! ### The expiry -/

@[simp] theorem expiryOf_unbounded (lodge : Nat) : expiryOf lodge none = rtMax := rfl

theorem expiryOf_bounded (lodge days : Nat) :
    expiryOf lodge (some days) =
      if rtMax ≤ dayAtOrAbove (lodge + days * daySeconds) then rtMax
      else dayAtOrAbove (lodge + days * daySeconds) := rfl

/-- R45's "An expiry other than NEVER is a day boundary strictly below 2^40 − 1". -/
theorem expiryOf_day_of_ne_never {lodge days : Nat} (h : expiryOf lodge (some days) ≠ rtMax) :
    daySeconds ∣ expiryOf lodge (some days) ∧ expiryOf lodge (some days) < rtMax := by
  rw [expiryOf_bounded] at h ⊢
  split at h
  case isTrue => exact absurd rfl h
  case isFalse hlt =>
    rw [if_neg hlt]
    exact ⟨daySeconds_dvd_dayAtOrAbove _, Nat.lt_of_not_le hlt⟩

/-- With a period of 0 days, a lodge time on a day boundary is its own expiry; saturation cannot move it, since no RT value
lies above NEVER. -/
theorem expiryOf_zero_of_dvd {lodge : Nat} (hrt : lodge ≤ rtMax) (hday : daySeconds ∣ lodge) :
    expiryOf lodge (some 0) = lodge := by
  rw [expiryOf_bounded, Nat.zero_mul, Nat.add_zero, dayAtOrAbove_of_dvd hday]
  split
  case isTrue hsat => exact Nat.le_antisymm hsat hrt
  case isFalse => rfl

/-- Settles O58: the boundary of R45 <2> is `dayAtOrAbove` of the lodge time plus the period. -/
theorem expiryIsTheNextDayBoundary : Obligations.ExpiryIsTheNextDayBoundary := by
  intro lodge days hlodge _
  have hboundary : ∃ b, daySeconds ∣ b ∧ lodge + days * daySeconds ≤ b ∧
      (∀ x, daySeconds ∣ x → lodge + days * daySeconds ≤ x → b ≤ x) ∧
      (daySeconds ∣ lodge + days * daySeconds → b = lodge + days * daySeconds) ∧
      expiryOf lodge (some days) = if rtMax ≤ b then rtMax else b :=
    ⟨dayAtOrAbove (lodge + days * daySeconds), daySeconds_dvd_dayAtOrAbove _, le_dayAtOrAbove _,
      fun _ => dayAtOrAbove_le, dayAtOrAbove_of_dvd, expiryOf_bounded lodge days⟩
  exact ⟨expiryOf_unbounded lodge, hboundary, expiryOf_day_of_ne_never, expiryOf_zero_of_dvd hlodge⟩

end Sys2Proof.Machine
end

section
/-! PROOFS. Matching of holds and custodian codes (R53) and the hold count (R54): words whose leading bits agree, then one
hold against one code, then the count over the slots of a table. -/

namespace Sys2Proof.Machine

/-! ### Leading bits of a word -/

/-- Bit k below the top of a word stands at place n − 1 − k of what a shift to its n leading bits leaves. -/
theorem getLsbD_leading {w n k : Nat} (x : BitVec w) (hn : n ≤ w) (hk : k < n) :
    (x >>> (w - n)).getLsbD (n - 1 - k) = x.getLsbD (w - 1 - k) := by
  rw [BitVec.getLsbD_ushiftRight]
  congr 1
  omega

/-- A shift that keeps a word's n leading bits gives 0 exactly when each of these bits is 0. -/
theorem leading_eq_zero_iff {w n : Nat} (x : BitVec w) (hn : n ≤ w) :
    x >>> (w - n) = 0 ↔ ∀ k, k < n → x.getLsbD (w - 1 - k) = false := by
  constructor
  case mp =>
    intro hzero k hk
    rw [← getLsbD_leading x hn hk, hzero]
    exact BitVec.getLsbD_zero
  case mpr =>
    intro hbits
    refine BitVec.eq_of_getLsbD_eq fun i _ => (?_ : _ = false).trans BitVec.getLsbD_zero.symm
    by_cases hi : i < n
    case pos =>
      have hplace : n - 1 - (n - 1 - i) = i := by omega
      have hbit := getLsbD_leading x hn (show n - 1 - i < n by omega)
      rw [hplace] at hbit
      exact hbit.trans (hbits _ (by omega))
    case neg =>
      rw [BitVec.getLsbD_ushiftRight]
      exact BitVec.getLsbD_of_ge _ _ (by omega)

/-- Two words agree in their n leading bits exactly when the shift leaves nothing of their difference. -/
theorem leading_xor_eq_zero_iff {w n : Nat} (x y : BitVec w) (hn : n ≤ w) :
    (x ^^^ y) >>> (w - n) = 0 ↔ ∀ k, k < n → x.getLsbD (w - 1 - k) = y.getLsbD (w - 1 - k) := by
  simp only [leading_eq_zero_iff _ hn, BitVec.getLsbD_xor, bne_eq_false_iff_eq]

/-! ### One hold against one code -/

theorem holdMatches_iff {h : HoldRec} (c : Custodian) (hlen : h.patLen ≤ 32) :
    holdMatches h c = true ↔
      ∀ k, k < min h.patLen (8 * c.len) → c.code.getLsbD (31 - k) = h.pattern.getLsbD (31 - k) :=
  decide_eq_true_iff.trans
    (leading_xor_eq_zero_iff c.code h.pattern (Nat.le_trans (Nat.min_le_left _ _) hlen))

theorem holdMatches_of_patLen_zero {h : HoldRec} (c : Custodian) (hzero : h.patLen = 0) : holdMatches h c = true :=
  (holdMatches_iff c (by omega)).mpr fun _ hk => by omega

/-- R53's "The match depends on nothing else". -/
theorem holdMatches_congr {h h' : HoldRec} (c : Custodian) (hlen : h.patLen = h'.patLen) (hpat : h.pattern = h'.pattern) :
    holdMatches h c = holdMatches h' c := by
  unfold holdMatches
  rw [hlen, hpat]

/-! ### The hold count -/

theorem matchCount_eq_length_filter (slots : List (Option HoldSlot)) (c : Custodian) :
    matchCount slots c = ((slots.filterMap id).filter fun h => holdMatches h.hold c).length := by
  rw [← List.countP_eq_length_filter, List.countP_filterMap]
  refine List.countP_congr fun slot _ => ?_
  cases slot with
  | none => rfl
  | some h => rfl

theorem matchCount_eq_zero_iff (slots : List (Option HoldSlot)) (c : Custodian) :
    matchCount slots c = 0 ↔ ∀ h, some h ∈ slots → holdMatches h.hold c = false := by
  rw [matchCount_eq_length_filter, List.length_eq_zero_iff, List.filter_eq_nil_iff]
  simp only [List.mem_filterMap, id_eq, exists_eq_right, Bool.not_eq_true]

/-- Settles O59: a match is agreement in the leading bits, and `holdsOn` is the count over the slots of the working table. -/
theorem holdsMatchByLeadingBits : Obligations.HoldsMatchByLeadingBits :=
  ⟨fun s c => ⟨matchCount_eq_length_filter s.hdu.slots c, matchCount_eq_zero_iff s.hdu.slots c⟩,
    fun _ c _ _ hlen =>
      ⟨holdMatches_iff c hlen, holdMatches_of_patLen_zero c, fun _ _ _ _ => holdMatches_congr c rfl rfl⟩⟩

end Sys2Proof.Machine
end

section
/-! PROOFS. The placement order of a short key (R124): the stride is odd, so its first sixteen multiples differ mod 16 and
the order runs through all sixteen node ids. -/

namespace Sys2Proof.Machine

/-! ### The stride -/

theorem placementStride_odd (key : ShortKey) : placementStride key % 2 = 1 := by
  unfold placementStride
  omega

theorem placementStride_pos (key : ShortKey) : 1 ≤ placementStride key :=
  Nat.le_add_left 1 _

theorem placementStride_le (key : ShortKey) : placementStride key ≤ 15 := by
  unfold placementStride
  omega

theorem coprime_placementStride (key : ShortKey) : Nat.Coprime 16 (placementStride key) :=
  Nat.Coprime.pow_left 4 (Nat.coprime_two_left.mpr (Nat.odd_iff.mpr (placementStride_odd key)))

/-- An odd stride cancels mod 16, so no two of the sixteen steps meet. -/
theorem placementStep_injOn (key : ShortKey) {i j : Nat} (hi : i < 16) (hj : j < 16)
    (h : (key.toNat % 16 + i * placementStride key) % 16 = (key.toNat % 16 + j * placementStride key) % 16) :
    i = j :=
  have hsteps : i * placementStride key ≡ j * placementStride key [MOD 16] := Nat.ModEq.add_left_cancel' _ h
  have hmod : i ≡ j [MOD 16] := hsteps.cancel_right_of_coprime (coprime_placementStride key)
  hmod.eq_of_lt_of_lt hi hj

/-! ### The order -/

@[simp] theorem length_placementOrder (key : ShortKey) : (placementOrder key).length = 16 := by
  simp [placementOrder]

theorem placementOrder_getD_toNat (key : ShortKey) {i : Nat} (hi : i < 16) :
    ((placementOrder key).getD i 0).toNat = (key.toNat % 16 + i * placementStride key) % 16 := by
  simp [placementOrder, hi]

theorem nodup_placementOrder (key : ShortKey) : (placementOrder key).Nodup := by
  refine List.Nodup.map_on (fun i hi j hj heq => ?_) List.nodup_range
  have hnat := congrArg BitVec.toNat heq
  rw [BitVec.toNat_ofNat, BitVec.toNat_ofNat] at hnat
  exact placementStep_injOn key (List.mem_range.mp hi) (List.mem_range.mp hj) hnat

theorem mem_allNodes (id : NodeId) : id ∈ allNodes :=
  List.mem_map.mpr ⟨id.toNat, List.mem_range.mpr id.isLt, (BitVec.ofNat_toNat 4 id).trans (BitVec.setWidth_eq id)⟩

theorem placementOrder_perm_allNodes (key : ShortKey) : (placementOrder key).Perm allNodes :=
  have hsub : (placementOrder key).Subperm allNodes :=
    (nodup_placementOrder key).subperm fun id _ => mem_allNodes id
  hsub.perm_of_length_le (length_placementOrder key).ge

theorem mem_placementOrder (key : ShortKey) (id : NodeId) : id ∈ placementOrder key :=
  (placementOrder_perm_allNodes key).mem_iff.mpr (mem_allNodes id)

/-! ### The position -/

theorem placementPosition_lt (key : ShortKey) (id : NodeId) : placementPosition key id < 16 :=
  length_placementOrder key ▸ List.idxOf_lt_length_of_mem (mem_placementOrder key id)

theorem placementOrder_getD_placementPosition (key : ShortKey) (id : NodeId) :
    (placementOrder key).getD (placementPosition key id) 0 = id := by
  have hmem := List.idxOf_lt_length_of_mem (mem_placementOrder key id)
  exact (List.getD_eq_getElem _ _ hmem).trans (List.getElem_idxOf hmem)

/-- Settles O60: sixteen different ids are all the ids there are, so every id has a position. -/
theorem placementOrderListsEveryNode : Obligations.PlacementOrderListsEveryNode := fun key =>
  ⟨rfl, placementStride_odd key, placementStride_pos key, placementStride_le key,
    length_placementOrder key, nodup_placementOrder key, mem_placementOrder key,
    fun _ => placementOrder_getD_toNat key,
    fun id => ⟨placementPosition_lt key id, placementOrder_getD_placementPosition key id⟩⟩

end Sys2Proof.Machine
end

section
/-! PROOFS. What a step can do, said once: the part of the state that the laws speak of, the single changes it can take,
each with what holds where it is made, and every command but the resets and the loss of core power as a run of such
changes. Each law of the part is then a matter of the single changes. -/

namespace Sys2Proof.Machine

/-! ### The watched part of the state -/

/-- What the laws of the part speak of. -/
structure Watched where
  power : Power
  guard : Bool
  header : Bool
  storedRf : Nat
  entries : Cat
  node : NodeState
  work : Cat
  freeList : List Nat
  rck : Rck
  lifted : List Lifted
  ownId : NodeId
  peers : List Peer
  sendQueue : List SendItem
  attempt : Option PeerFrame
  heldBeacon : Bool
  dupId : Bool
  confinement : Confinement
  rxFifo : List RxItem
  sendCount : Nat
  recvCount : Nat
  appeals : List Appeal
  candidates : List Candidate
  claims : List Claim
  repairs : List Nat
  gated : List HostCmd
  inFlight : Option InFlight
  grantedErase : Option EraseWork
  timer : Option Nat
  balance : Int
  waitingDormant : Option Req
  requests : List Req
  notices : List Notice
  starting : Option Starting
  watchLog : List WatchRec

/-- The watched part of a state. -/
def watched (s : State) : Watched where
  power := s.pins.power
  guard := s.pins.guardAsserted
  header := s.store.header
  storedRf := s.store.rf
  entries := s.store.entries
  node := s.ctc.node
  work := s.ctc.work
  freeList := s.ctc.freeList
  rck := s.rck
  lifted := s.hdu.lifted
  ownId := s.pbc.ownId
  peers := s.pbc.peers
  sendQueue := s.pbc.sendQueue
  attempt := s.pbc.attempt
  heldBeacon := s.pbc.heldBeacon
  dupId := s.pbc.dupId
  confinement := s.pbc.confinement
  rxFifo := s.pbc.rxFifo
  sendCount := s.pbc.sendCount
  recvCount := s.pbc.recvCount
  appeals := s.cnu.appeals
  candidates := s.cnu.candidates
  claims := s.cnu.claims
  repairs := s.cnu.repairs
  gated := s.mar.gated
  inFlight := s.mar.inFlight
  grantedErase := s.mar.grantedErase
  timer := s.mar.timer
  balance := s.scs.balance
  waitingDormant := s.scs.waitingDormant
  requests := s.rli.requests
  notices := s.rli.notices
  starting := s.rli.starting
  watchLog := s.sli.watchLog

/-! ### The single changes -/

/-- A record whose index may stand on the free-entry list: FREE, and owing no DROP (R2, R6). -/
def Listable (e : Entry) : Prop := e.state = .free ∧ e.owed ≠ .dropFrame

/-- The fields that a taken entry keeps (R1). -/
def SameIdentity (old e : Entry) : Prop :=
  e.fullKey = old.fullKey ∧ e.shortKey = old.shortKey ∧ e.cust = old.cust ∧ e.cls = old.cls ∧ e.origin = old.origin ∧
    e.lodgeTime = old.lodgeTime

/-- The conditions of R74 at the start `s₀` of a refresh visit that leaves entry `i` as `e`. -/
def Released (c : Instr) (s₀ : State) (i : Nat) (e : Entry) : Prop :=
  c = .refreshVisit ∧ (entryAt s₀ i).state = .retained ∧ e.expiry ≤ s₀.rck.rf ∧ (entryAt s₀ i).expiry ≤ s₀.rck.rf ∧
    expiryOf (entryAt s₀ i).lodgeTime (periodInForce s₀ (entryAt s₀ i).cls) ≤ s₀.rck.rf ∧
    holdsOn s₀ (entryAt s₀ i).cust = 0 ∧ doubtStands s₀ = false ∧ s₀.ctc.node ≠ .storeFault ∧
    ∃ low, s₀.rwk.walk = some ⟨.refresh s₀.hdu.epoch, low, none⟩

/-- What a change of the record `old` of index `i` to `e` keeps, in a command `c` that began in `s₀`. -/
structure EntryKept (c : Instr) (s₀ : State) (old : Entry) (i : Nat) (e : Entry) : Prop where
  listable : Listable old → Listable e
  identity : e.state ≠ .free → old.state ≠ .free ∧ old.expiry ≤ e.expiry ∧ SameIdentity old e
  release : e.state = .releasable →
    old.state = .releasable ∧ (e.expiry = old.expiry ∨ (entryAt s₀ i).state = .releasable) ∨ Released c s₀ i e

/-- A change of the working copy of index `i` to `e` is one the laws allow. -/
def WorkKept (c : Instr) (s₀ : State) (w : Watched) (i : Nat) (e : Entry) : Prop :=
  catWf w.work = true → EntryKept c s₀ (catGet w.work i) i e

/-- The host command may enter the gated queue (R146, R147). -/
def MayGate (s₀ : State) (x : HostCmd) : Prop :=
  1 ≤ x.count ∧ x.count ≤ 16777216 ∧ x.first + x.count ≤ mediaSize s₀ ∧
    (x.op ≠ .read → s₀.pins.guardAsserted = false ∧
      (∀ r ∈ s₀.exg.runs, x.first + x.count ≤ r.first ∨ r.first + r.count ≤ x.first) ∧
      ∀ p ∈ s₀.ctc.work, s₀.ctc.loaded ≤ p.1 → p.2.state ≠ .free →
        ∀ r ∈ p.2.extents, x.first + x.count ≤ r.first ∨ r.first + r.count ≤ x.first)

/-- A list that has grown at most to a bound. -/
def Within {α : Type} (bound : Nat) (old new : List α) : Prop := new.length ≤ bound ∨ new.length ≤ old.length

/-- A single change of the watched part in a command `c` that began in the state `s₀`, with what holds where it is made. -/
inductive Change (c : Instr) (s₀ : State) (w : Watched) : Watched → Prop
  /-- The working copy of an entry changes. -/
  | work (i : Nat) (e : Entry) (h : WorkKept c s₀ w i e) : Change c s₀ w { w with work := catSet w.work i e }
  /-- A FREE entry comes to owe its DROP. -/
  | owe (i : Nat) (e : Entry) (h : e.state = .free) :
      Change c s₀ w { w with work := catSet w.work i e, freeList := w.freeList.erase i }
  /-- A LODGE or ADOPT takes the lowest free index. -/
  | accept (i : Nat) (rest : List Nat) (e : Entry) (h : w.freeList = i :: rest) (h₀ : i ∈ s₀.ctc.freeList)
      (he : e.state = .lodging) : Change c s₀ w { w with work := catSet w.work i e, freeList := rest }
  | list (i : Nat) (h : Listable (catGet w.work i)) : Change c s₀ w { w with freeList := insertIndex i w.freeList }
  | store (es : Cat) (h : catWf w.entries = true → catWf es = true) : Change c s₀ w { w with entries := es }
  | prepare : Change c s₀ w { w with header := true, storedRf := 0, entries := [], work := [] }
  | node (n : NodeState) (hn : n ≠ .storeFault) (h : w.node ≠ .storeFault ∨
        w.node = s₀.ctc.node ∧ (s₀.rli.starting ≠ none ∨ s₀.scs.waitingDormant ≠ none)) :
      Change c s₀ w { w with node := n }
  | fault (rf : Nat) (es : Cat) (hrf : rf = w.storedRf ∨ w.rck.floorWrites.head? = some rf)
      (hes : catWf w.entries = true → catWf es = true) :
      Change c s₀ w { w with
        node := .storeFault, storedRf := rf, entries := es, rck := { w.rck with floorWrites := [] }
        waitingDormant := none, starting := none, grantedErase := none }
  | tick : Change c s₀ w { w with rck := { w.rck with rt := min rtMax (w.rck.rt + 1) } }
  | setTime (time : Nat) (hv : w.rck.rtValid = false) (hrf : w.rck.rf ≤ time) (hmax : time ≤ rtMax)
      (hn : w.node ≠ .storeFault) (hp : w.power = .on) :
      Change c s₀ w { w with rck := { w.rck with rt := time, rtValid := true } }
  | bound (b : Nat) (hv : w.rck.rtValid = true) (hlow : w.rck.bdt ≤ b) (hhigh : b ≤ max w.rck.bdt w.rck.rt) :
      Change c s₀ w { w with rck := { w.rck with bdt := b } }
  | floor (b : Nat) (hn : w.node ≠ .storeFault) (hb : b ≤ w.rck.bdt) (hrf : w.rck.rf < b)
      (hv : ∀ v ∈ w.rck.floorWrites, v < b) (hd : daySeconds ∣ b) :
      Change c s₀ w { w with rck := { w.rck with floorWrites := w.rck.floorWrites ++ [b] } }
  | floorDone (v : Nat) (rest : List Nat) (h : w.rck.floorWrites = v :: rest) :
      Change c s₀ w { w with rck := { w.rck with rf := v, floorWrites := rest }, storedRf := v }
  | losesFloors (hn : w.node = .storeFault) (hc : c = .storeReadFailed .floor ∨ c = .storeReadFailed .highWater) :
      Change c s₀ w { w with rck := { w.rck with rf := 0, bdt := 0 } }
  | lifted (l : List Lifted) (h : Within 16 w.lifted l) : Change c s₀ w { w with lifted := l }
  | peer (id : NodeId) (p : Peer) (h : p.presence = (w.peers.getD id.toNat {}).presence ∨
        p.presence ≠ .self ∧ (w.peers.getD id.toNat {}).presence ≠ .self) :
      Change c s₀ w { w with peers := w.peers.set id.toNat p }
  | enqueue (q : SendItem) (hl : w.sendQueue.length < 16) (hd : w.dupId = false) (hs : w.confinement ≠ .silent) :
      Change c s₀ w { w with sendQueue := insertSend q w.sendQueue }
  /-- The Send Queue loses frames, or an attempt begins or ends, or a BEACON is held. -/
  | queue (q : List SendItem) (a : Option PeerFrame) (held : Bool) (hl : q.length ≤ w.sendQueue.length)
      (ha : a ≠ none → w.attempt ≠ none ∨ w.sendQueue ≠ [])
      (hh : held = true → w.heldBeacon = true ∨ w.dupId = false ∧ w.confinement ≠ .silent) :
      Change c s₀ w { w with sendQueue := q, attempt := a, heldBeacon := held }
  | counts (send recv : Nat) (conf : Confinement) (hw : w.confinement ≠ .silent) (hc : conf ≠ .silent)
      (h : w.sendCount ≤ 240 → w.recvCount ≤ 200 → send ≤ 240 ∧ recv ≤ 200) :
      Change c s₀ w { w with sendCount := send, recvCount := recv, confinement := conf }
  | silence (send recv : Nat) (hs : send = 240) (h : w.sendCount ≤ 240 → w.recvCount ≤ 200 → recv ≤ 200) :
      Change c s₀ w { w with
        sendCount := send, recvCount := recv, confinement := .silent, sendQueue := [], attempt := none, heldBeacon := false }
  | voice : Change c s₀ w { w with sendCount := 0, recvCount := 0, confinement := .voiced }
  | dupId : Change c s₀ w { w with dupId := true, sendQueue := [], attempt := none, heldBeacon := false }
  | rxFifo (l : List RxItem) (h : Within 24 w.rxFifo l) : Change c s₀ w { w with rxFifo := l }
  | appeals (l : List Appeal) (h : (l.map Appeal.index).Sublist (w.appeals.map Appeal.index)) :
      Change c s₀ w { w with appeals := l }
  | appeal (a : Appeal) (hl : w.appeals.length < 16) (h : ∀ x ∈ w.appeals, x.index ≠ a.index) :
      Change c s₀ w { w with appeals := w.appeals ++ [a] }
  | candidates (l : List Candidate) (h : Within 32 w.candidates l) : Change c s₀ w { w with candidates := l }
  | claims (l : List Claim) (h : Within 4 w.claims l) : Change c s₀ w { w with claims := l }
  | repairs (l : List Nat) (h : Within 16 w.repairs l) : Change c s₀ w { w with repairs := l }
  | gated (l : List HostCmd) (h : ∀ x ∈ l, x ∈ w.gated) : Change c s₀ w { w with gated := l }
  | gate (x : HostCmd) (h : MayGate s₀ x) : Change c s₀ w { w with gated := w.gated ++ [x] }
  | release (tag : Byte) (cmd : MediaCmd) (d : Nat) (hi : w.inFlight = none) (hg : w.grantedErase = none)
      (h : ∀ e, cmd = .erase e → w.guard = false) :
      Change c s₀ w { w with inFlight := some ⟨tag, cmd⟩, timer := some d }
  | releaseGranted (tag : Byte) (e : EraseWork) (d : Nat) (hg : w.grantedErase = some e) :
      Change c s₀ w { w with inFlight := some ⟨tag, .erase e⟩, timer := some d, grantedErase := none }
  | grantErase (e : EraseWork) (hi : w.inFlight = none) (h : w.guard = false) :
      Change c s₀ w { w with grantedErase := some e }
  | ended : Change c s₀ w { w with inFlight := none, timer := none }
  | balance (b : Int) (h : -8 ≤ w.balance → w.balance ≤ 8 → -8 ≤ b ∧ b ≤ 8) : Change c s₀ w { w with balance := b }
  | waitingDormant (r : Option Req) (h : r = none ∨ w.node ≠ .storeFault) : Change c s₀ w { w with waitingDormant := r }
  | requests (l : List Req) (h : Within 32 w.requests l) : Change c s₀ w { w with requests := l }
  | notices (l : List Notice) (h : Within 32 w.notices l) : Change c s₀ w { w with notices := l }
  | starting (st : Option Starting) (h : st = none ∨ w.node ≠ .storeFault) : Change c s₀ w { w with starting := st }
  | watchLog (l : List WatchRec) (h : Within 8 w.watchLog l) : Change c s₀ w { w with watchLog := l }
  | guard (b : Bool) (h : b = true → w.inFlight = s₀.mar.inFlight ∧ w.grantedErase = s₀.mar.grantedErase) :
      Change c s₀ w { w with guard := b }

/-- The watched part goes from `s` to `t` by single changes, in a command `c` that began in `s₀`. -/
def Leads (c : Instr) (s₀ s t : State) : Prop := Relation.ReflTransGen (Change c s₀) (watched s) (watched t)

variable {c : Instr} {s₀ s t u : State}

theorem Leads.refl (s : State) : Leads c s₀ s s := Relation.ReflTransGen.refl

theorem Leads.trans (h : Leads c s₀ s t) (g : Leads c s₀ t u) : Leads c s₀ s u := Relation.ReflTransGen.trans h g

theorem Leads.quiet (h : watched t = watched s) : Leads c s₀ s t := by unfold Leads; rw [h]

theorem Leads.change (h : Change c s₀ (watched s) (watched t)) : Leads c s₀ s t := Relation.ReflTransGen.single h

theorem Leads.foldl {α : Type} {f : State → α → State} (h : ∀ s x, Leads c s₀ s (f s x)) (l : List α) (s : State) :
    Leads c s₀ s (l.foldl f s) := by
  induction l generalizing s with
  | nil => exact .refl s
  | cons x xs ih => exact (h s x).trans (ih _)

/-- What every single change keeps, every run of them keeps. -/
theorem Leads.keeps {P : Watched → Prop} (h : Leads c s₀ s t) (hP : ∀ w w', Change c s₀ w w' → P w → P w')
    (hs : P (watched s)) : P (watched t) := by
  unfold Leads at h
  generalize watched t = w at h ⊢
  induction h with
  | refl => exact hs
  | tail _ hc ih => exact hP _ _ hc ih

theorem watched_foldl {α : Type} {f : State → α → State} (h : ∀ s x, watched (f s x) = watched s) (l : List α) (s : State) :
    watched (l.foldl f s) = watched s := by
  induction l generalizing s with
  | nil => rfl
  | cons x xs ih => exact (ih _).trans (h s x)

end Sys2Proof.Machine
end

section
/-! PROOFS. The shared operations of the blocks as runs of single changes. -/

namespace Sys2Proof.Machine

variable {c : Instr} {s₀ s t u : State}

/-! ### Operations that change nothing watched -/

@[simp] theorem watched_raise (e : Event) (s : State) : watched (raise e s) = watched s := rfl
@[simp] theorem watched_answerReq (r : Req) (o : Reply) (res : Results) (s : State) :
    watched (answerReq r o res s) = watched s := rfl
@[simp] theorem watched_readDone (s : State) : watched (readDone s) = watched s := rfl
@[simp] theorem watched_setSlot (i : Nat) (h : Option HoldSlot) (s : State) : watched (setSlot i h s) = watched s := rfl
@[simp] theorem watched_updateSlot (i : Nat) (f : HoldSlot → HoldSlot) (s : State) :
    watched (updateSlot i f s) = watched s := rfl
@[simp] theorem watched_placeRuns (i : Nat) (role : Role) (es : List Extent) (s : State) :
    watched (placeRuns i role es s) = watched s := rfl
@[simp] theorem watched_removeRuns (i : Nat) (s : State) : watched (removeRuns i s) = watched s := rfl
@[simp] theorem watched_removeExtents (i : Nat) (role : Role) (es : List Extent) (s : State) :
    watched (removeExtents i role es s) = watched s := rfl
@[simp] theorem watched_promoteRefill (i : Nat) (old new : List Extent) (s : State) :
    watched (promoteRefill i old new s) = watched s := rfl
@[simp] theorem watched_withdrawErases (i : Nat) (s : State) : watched (withdrawErases i s) = watched s := rfl
@[simp] theorem watched_queueErases (i : Nat) (es : List Extent) (n : Nat) (s : State) :
    watched (queueErases i es n s) = watched s := rfl
@[simp] theorem watched_takeOrder (s : State) : watched (takeOrder s) = watched s := rfl
@[simp] theorem watched_pulseAbort (s : State) : watched (pulseAbort s) = watched s := rfl
@[simp] theorem watched_clearErases (i : Nat) (s : State) : watched (clearErases i s) = watched s := rfl
@[simp] theorem watched_countErase (i : Nat) (s : State) : watched (countErase i s) = watched s := rfl
@[simp] theorem watched_queueVerify (i : Nat) (e : Entry) (refill : Bool) (n : Nat) (r : Option Req) (s : State) :
    watched (queueVerify i e refill n r s) = watched s := rfl
@[simp] theorem watched_raiseHoldLate (key : ShortKey) (s : State) : watched (raiseHoldLate key s) = watched s := rfl
@[simp] theorem watched_noteLoadedEnd (es : List Extent) (s : State) : watched (noteLoadedEnd es s) = watched s := rfl
@[simp] theorem watched_beginVisit (i : Nat) (s : State) : watched (beginVisit i s) = watched s := rfl
@[simp] theorem watched_afterAttempt (s : State) : watched (afterAttempt s) = watched s := rfl
@[simp] theorem watched_beginErrorSeq (b : Bool) (s : State) : watched (beginErrorSeq b s) = watched s := rfl
@[simp] theorem watched_countRecessive (n : Nat) (s : State) : watched (countRecessive n s) = watched s := rfl
@[simp] theorem watched_restartBeacon (s : State) : watched (restartBeacon s) = watched s := rfl
@[simp] theorem watched_answerFault (s : State) (r : Req) : watched (answerFault s r) = watched s := rfl
@[simp] theorem watched_startRefresh (s : State) : watched (startRefresh s) = watched s := rfl

@[simp] theorem watched_supersede (i : Nat) (s : State) : (supersede i s).ctc = s.ctc := rfl

theorem watched_noteScrubbable (i : Nat) (a b : EntryState) (s : State) : watched (noteScrubbable i a b s) = watched s := by
  unfold noteScrubbable
  split
  · rfl
  · split <;> rfl

theorem watched_trigger (s : State) : watched (trigger s) = watched s := by
  unfold trigger
  split
  · split <;> rfl
  · rfl

theorem watched_endWalk (s : State) : watched (endWalk s) = watched s := by
  unfold endWalk
  split <;> rfl

theorem watched_moveOn (i : Nat) (s : State) : watched (moveOn i s) = watched s := by
  unfold moveOn
  split <;> rfl

theorem watched_leaveVisit (s : State) : watched (leaveVisit s) = watched s := by
  unfold leaveVisit
  split
  · split
    · exact watched_moveOn _ s
    · rfl
  · rfl

theorem watched_passAccepted (i : Nat) (s : State) : watched (passAccepted i s) = watched s := by
  rw [passAccepted_eq]; rfl

theorem watched_countGap (s : State) : watched (countGap s) = watched s := by
  unfold countGap
  dsimp only
  split <;> rfl

theorem watched_takeMediaSize (s : State) : watched (takeMediaSize s) = watched s := by
  unfold takeMediaSize
  split <;> rfl

theorem watched_offerScrub (s : State) : watched (offerScrub s) = watched s := by
  unfold offerScrub
  split
  · split <;> rfl
  · rfl

theorem watched_writeSlot (w : SlotWrite) (s : State) : watched (writeSlot w s) = watched s := by
  unfold writeSlot
  split <;> rfl

theorem watched_resumeWork (i : Nat) (e : Entry) (s : State) : watched (resumeWork i e s) = watched s := by
  unfold resumeWork
  split <;> rfl

theorem watched_answerLookup (i : Nat) (e : Entry) (s : State) (w : LookupWait) :
    watched (answerLookup i e s w) = watched s := by
  unfold answerLookup
  split
  · split <;> rfl
  · rfl

theorem watched_answerDone (rs : List Req) (s : State) : watched (answerDone rs s) = watched s :=
  watched_foldl (f := fun s r => answerReq r .done .none s) (fun _ _ => rfl) rs s

theorem watched_lookupAt (r : Req) (i : Nat) (key : Option ShortKey) (s : State) : watched (lookupAt r i key s) = watched s := by
  unfold lookupAt
  split <;> rfl

theorem watched_abandonEntry (s : State) (w : EntryWrite) : watched (abandonEntry s w) = watched s := by
  unfold abandonEntry
  rw [watched_foldl (watched_answerLookup _ _), watched_foldl watched_answerFault]

theorem watched_abandonSlot (s : State) (w : SlotWrite) : watched (abandonSlot s w) = watched s := by
  unfold abandonSlot
  have h (l : List Req) : watched (l.foldl answerFault s) = watched s := watched_foldl watched_answerFault l s
  dsimp only
  split
  · rw [watched_updateSlot, h]
  · exact h _

/-! ### The entry and its write -/

theorem leads_recordHit (h : Option Hit) (s : State) : Leads c s₀ s (recordHit h s) := by
  unfold recordHit
  split
  · exact .refl s
  · split
    · exact .change (.watchLog _ (.inl (by simp; omega)))
    · exact .refl s

theorem leads_queueWrite (w : EntryWrite) (s : State) : Leads c s₀ s (queueWrite w s) := by
  unfold queueWrite
  split
  · exact leads_recordHit _ s
  · exact .quiet rfl

/-- A change of an entry that the laws allow is a single change of its working copy, but for the watch hit. -/
theorem leads_changeEntry {i : Nat} {e : Entry} (h : WorkKept c s₀ (watched s) i e) (causes : HitCauses)
    (effects : List Effect) : Leads c s₀ s (changeEntry i e causes effects s) := by
  unfold changeEntry
  exact (Leads.change (t := setWork i e s) (.work i e h)).trans
    ((Leads.quiet (watched_noteScrubbable ..)).trans (leads_queueWrite ..))

theorem leads_putEntry {i : Nat} {e : Entry} (h : WorkKept c s₀ (watched s) i e) : Leads c s₀ s (putEntry i e s) :=
  leads_changeEntry h _ _

theorem workKept_free {w : Watched} {i : Nat} {e : Entry} (h : Listable e) : WorkKept c s₀ w i e := fun _ =>
  { listable := fun _ => h, identity := fun hn => absurd h.1 hn, release := fun hr => by simp [h.1] at hr }

theorem listable_freeEntry : Listable freeEntry := ⟨rfl, by decide⟩

/-- A change of a taken entry that is not released by it. -/
theorem workKept_taken {i : Nat} {e : Entry} (ho : (entryAt s i).state ≠ .free)
    (hid : SameIdentity (entryAt s i) e) (hx : (entryAt s i).expiry ≤ e.expiry)
    (hr : e.state = .releasable → (entryAt s i).state = .releasable ∧ e.expiry = (entryAt s i).expiry) :
    WorkKept c s₀ (watched s) i e := fun _ =>
  { listable := fun hl => absurd hl.1 ho, identity := fun _ => ⟨ho, hx, hid⟩
    release := fun h => .inl ⟨(hr h).1, .inl (hr h).2⟩ }

theorem sameIdentity_refl (e : Entry) : SameIdentity e e := ⟨rfl, rfl, rfl, rfl, rfl, rfl⟩

/-- A taken entry whose state, expiry and identity stay. -/
theorem workKept_same {i : Nat} {e : Entry} (ho : (entryAt s i).state ≠ .free) (hs : e.state = (entryAt s i).state)
    (hid : SameIdentity (entryAt s i) e) (hx : e.expiry = (entryAt s i).expiry) : WorkKept c s₀ (watched s) i e :=
  workKept_taken ho hid hx.ge fun h => ⟨hs ▸ h, hx⟩

theorem leads_setOwed (i : Nat) (o : Owed) (s : State) : Leads c s₀ s (setOwed i o s) := by
  unfold setOwed
  dsimp only
  split
  · exact .refl s
  · rename_i h
    exact leads_putEntry (workKept_same (by tauto) rfl (sameIdentity_refl _) rfl)

theorem leads_returnIndex (i : Nat) (s : State) : Leads c s₀ s (returnIndex i s) := by
  unfold returnIndex
  split
  · exact .refl s
  · rename_i h
    refine .change (.list i ?_)
    simp only [Entry.occupied, Entry.owedFree, Bool.or_eq_true, decide_eq_true_eq, not_or, not_not, not_and] at h
    exact ⟨h.1, h.2 h.1⟩

theorem leads_oweDrop (i : Nat) (key : ShortKey) (s : State) : Leads c s₀ s (oweDrop i key s) := by
  unfold oweDrop putEntry changeEntry
  dsimp only
  refine Leads.trans (t := setWork i { shortKey := key, owed := .dropFrame }
    { s with ctc := { s.ctc with freeList := s.ctc.freeList.erase i } }) (.change (.owe i _ rfl)) ?_
  exact (Leads.quiet (watched_noteScrubbable ..)).trans (leads_queueWrite ..)

/-! ### Finding a taken entry -/

theorem catGet_of_mem {cat : Cat} {i : Nat} {e : Entry} (wf : catWf cat = true) (h : (i, e) ∈ cat) : catGet cat i = e := by
  induction cat with
  | nil => simp at h
  | cons q rest ih =>
    obtain ⟨j, f⟩ := q
    obtain ⟨-, hlt, hr⟩ := (catWf_cons j f rest).1 wf
    rcases List.mem_cons.1 h with h | h
    · obtain ⟨rfl, rfl⟩ := Prod.mk.inj h
      simp [catGet]
    · have := hlt _ h
      simp only [catGet]
      rw [if_neg (by simp at this; omega)]
      exact ih hr h

theorem mem_readableCat {s : State} {p : Nat × Entry} (h : p ∈ readableCat s) : p ∈ s.ctc.work := by
  unfold readableCat at h
  split at h
  · exact List.mem_of_mem_filter h
  · exact h

/-- An entry found by its key is taken. -/
theorem occupied_of_findKey {key : ShortKey} {i : Nat} (wf : catWf s.ctc.work = true) (h : findKey s key = some i) :
    (entryAt s i).state ≠ .free := by
  obtain ⟨⟨j, e⟩, hf, rfl⟩ := Option.map_eq_some_iff.1 h
  have hp := List.find?_some hf
  rw [entryAt, catGet_of_mem wf (mem_readableCat (List.mem_of_find?_eq_some hf))]
  simp [Entry.occupied] at hp
  exact hp.1

theorem occupied_of_nextOccupied {low i : Nat} (wf : catWf s.ctc.work = true) (h : nextOccupied s low = some i) :
    (entryAt s i).state ≠ .free := by
  obtain ⟨⟨j, e⟩, hf, rfl⟩ := Option.map_eq_some_iff.1 h
  have hp := List.find?_some hf
  rw [entryAt, catGet_of_mem wf (List.mem_of_find?_eq_some hf)]
  simp [Entry.occupied] at hp
  exact hp.2

/-! ### The Send Queue and the announcements -/

theorem canOffer_iff (s : State) : canOffer s = true ↔
    s.pbc.sendOpen = true ∧ s.pbc.sendQueue.length < 16 ∧ s.pbc.dupId = false ∧ s.pbc.confinement ≠ .silent := by
  simp [canOffer, and_assoc]

theorem leads_enqueue (q : SendItem) (h : canOffer s = true) : Leads c s₀ s (enqueue q s) := by
  obtain ⟨-, hl, hd, hs⟩ := (canOffer_iff s).1 h
  exact .change (.enqueue q hl hd hs)

theorem leads_enqueueFrame (f : PeerFrame) (h : canOffer s = true) : Leads c s₀ s (enqueueFrame f s) := leads_enqueue _ h

theorem leads_supersede (i : Nat) (s : State) : Leads c s₀ s (supersede i s) :=
  .change (.queue _ _ _ (by simp [watched, supersede]) (fun h => .inl h) (fun h => .inl h))

theorem leads_offerBeacon (s : State) : Leads c s₀ s (offerBeacon s) := by
  unfold offerBeacon
  split
  · exact .refl s
  · rename_i h
    split
    · exact .change (.queue _ _ _ le_rfl (fun h => .inl h) (fun _ => .inr (by simpa [watched] using And.intro (fun a => h (.inl a)) (fun a => h (.inr (.inl a))))))
    · split
      · exact .refl s
      · split
        · exact leads_enqueue _ ‹_›
        · exact .refl s

theorem leads_announceHave (i : Nat) (s : State) : Leads c s₀ s (announceHave i s) := by
  unfold announceHave
  refine (leads_supersede i s).trans ?_
  dsimp only
  split
  · rename_i h
    exact (leads_enqueue _ (Bool.and_eq_true_iff.1 h).1).trans (leads_setOwed ..)
  · exact leads_setOwed ..

theorem leads_announceDamaged (i : Nat) (s : State) : Leads c s₀ s (announceDamaged i s) := by
  unfold announceDamaged
  refine (leads_supersede i s).trans ?_
  dsimp only
  split
  · exact (leads_enqueue _ ‹_›).trans (leads_setOwed ..)
  · exact leads_setOwed ..

theorem leads_announceDisposed (i : Nat) (key : ShortKey) (s : State) : Leads c s₀ s (announceDisposed i key s) := by
  unfold announceDisposed
  refine (leads_supersede i s).trans ?_
  dsimp only
  split
  · exact (leads_enqueue _ ‹_›).trans (leads_returnIndex ..)
  · exact leads_oweDrop ..

/-- The grant to CTC (R98 <2>): an announcement enters the queue, and its entry owes it no longer. -/
theorem leads_grantCtc (ho : canOffer s = true) (h : grantCtc s = some t) : Leads c s₀ s t := by
  unfold grantCtc at h
  split at h
  · rename_i i e hf
    obtain rfl := Option.some.inj h
    unfold sendOwed
    dsimp only
    split
    · exact (leads_enqueue _ ho).trans ((leads_putEntry (workKept_free listable_freeEntry)).trans (leads_returnIndex ..))
    · rename_i hs
      refine (leads_enqueue _ ho).trans (leads_putEntry fun wf => ?_)
      have he : catGet s.ctc.work i = e := catGet_of_mem wf (List.mem_of_find?_eq_some hf)
      refine workKept_same (s := s) ?_ ?_ ?_ ?_ wf <;> rw [entryAt, he]
      exacts [hs, sameIdentity_refl e]
  · simp at h

/-! ### The Census Unit -/

theorem map_updateFirst {α β : Type} (g : α → β) (p : α → Bool) (f : α → α) (hf : ∀ x, g (f x) = g x) (l : List α) :
    (updateFirst p f l).map g = l.map g := by
  induction l with
  | nil => rfl
  | cons x xs ih => unfold updateFirst; split <;> simp [hf, ih]

theorem length_updateFirst {α : Type} (p : α → Bool) (f : α → α) (l : List α) :
    (updateFirst p f l).length = l.length := by
  induction l with
  | nil => rfl
  | cons x xs ih => unfold updateFirst; split <;> simp [ih]

theorem leads_updateAppeal (i : Nat) {f : Appeal → Appeal} (hf : ∀ a, (f a).index = a.index) (s : State) :
    Leads c s₀ s (updateAppeal i f s) := by
  refine .change (.appeals _ ?_)
  show (List.map Appeal.index (updateFirst _ f s.cnu.appeals)).Sublist _
  rw [map_updateFirst _ _ _ hf]
  exact .refl _

theorem leads_removeAppeal (i : Nat) (s : State) : Leads c s₀ s (removeAppeal i s) :=
  .change (.appeals _ (List.filter_sublist.map _))

theorem leads_offerWant (i : Nat) (s : State) : Leads c s₀ s (offerWant i s) := by
  unfold offerWant
  split
  · exact leads_enqueueFrame _ ‹_›
  · exact leads_updateAppeal i (by exact fun _ => rfl) s

theorem leads_atAppeal (i : Nat) (test : Appeal → Bool) {act : State → State} (h : Leads c s₀ s (act s)) :
    Leads c s₀ s (atAppeal i test act s) := by
  unfold atAppeal
  split
  · split
    · exact h
    · exact .refl s
  · exact .refl s

theorem leads_appealOrLeave (i : Nat) (s : State) : Leads c s₀ s (appealOrLeave i s) := by
  unfold appealOrLeave
  split
  · exact (leads_updateAppeal i (by exact fun _ => rfl) s).trans (leads_offerWant i _)
  · exact leads_removeAppeal i s

theorem leads_startAppeal (i : Nat) (s : State) : Leads c s₀ s (startAppeal i s) := by
  unfold startAppeal
  dsimp only
  have h : Leads c s₀ s (updateAppeal i (fun a =>
      { a with appealed := false, timer := some (s.coreMs + appealDelay s (entryAt s i)) }) s) :=
    leads_updateAppeal i (by exact fun _ => rfl) s
  split
  · exact h.trans (leads_atAppeal i _ (leads_appealOrLeave i _))
  · exact h

theorem leads_offerAppeal (i : Nat) (s : State) : Leads c s₀ s (offerAppeal i s) := by
  unfold offerAppeal
  split
  · rename_i h
    split
    · exact .quiet rfl
    · refine (Leads.change (.appeal { index := i, key := (entryAt s i).shortKey, timer := none } ?_ ?_)).trans
        (leads_startAppeal i _)
      · exact Nat.lt_of_not_le ‹_›
      · have := (Bool.and_eq_true_iff.1 h).2
        simpa [appealOf, watched] using this
  · exact .refl s

theorem leads_rearmOrLeave (i : Nat) (s : State) : Leads c s₀ s (rearmOrLeave i s) := by
  unfold rearmOrLeave
  split
  · exact leads_startAppeal i s
  · exact leads_removeAppeal i s

theorem leads_testAppeal (i : Nat) (s : State) : Leads c s₀ s (testAppeal i s) := by
  unfold testAppeal
  split
  · exact .refl s
  · exact leads_removeAppeal i s

theorem leads_recheckAppeal (i : Nat) (s : State) : Leads c s₀ s (recheckAppeal i s) :=
  (leads_testAppeal i s).trans (leads_offerAppeal i _)

theorem leads_appealHeard (i : Nat) (s : State) : Leads c s₀ s (appealHeard i s) :=
  (leads_testAppeal i s).trans (leads_updateAppeal i (by intro a; split <;> rfl) _)

theorem leads_keepRepair (i : Nat) (s : State) : Leads c s₀ s (keepRepair i s) := by
  unfold keepRepair
  split
  · exact .refl s
  · rename_i h
    exact .change (.repairs _ (.inl (by simp; omega)))

theorem leads_offerRepair (i : Nat) (s : State) : Leads c s₀ s (offerRepair i s) := by
  unfold offerRepair
  split
  · split
    · exact leads_enqueue _ ‹_›
    · exact leads_keepRepair i s
  · exact .refl s

theorem leads_postNotice (n : Notice) (s : State) : Leads c s₀ s (postNotice n s) := by
  unfold postNotice
  split
  · exact .change (.notices _ (.inl (by simp; omega)))
  · exact .refl s

theorem leads_updateCandidate (key : ShortKey) (f : Candidate → Candidate) (s : State) :
    Leads c s₀ s (updateCandidate key f s) :=
  .change (.candidates _ (.inr (length_updateFirst ..).le))

theorem leads_removeCandidate (key : ShortKey) (s : State) : Leads c s₀ s (removeCandidate key s) :=
  .change (.candidates _ (.inr (List.length_filter_le ..)))

theorem leads_updateClaim (key : ShortKey) (f : Claim → Claim) (s : State) : Leads c s₀ s (updateClaim key f s) :=
  .change (.claims _ (.inr (length_updateFirst ..).le))

theorem leads_removeClaim (key : ShortKey) (s : State) : Leads c s₀ s (removeClaim key s) :=
  .change (.claims _ (.inr (List.length_filter_le ..)))

theorem claims_postNotice (n : Notice) (s : State) : (postNotice n s).cnu = s.cnu := by
  unfold postNotice
  split <;> rfl

theorem leads_makeClaim (cand : Candidate) {s : State} (h : s.cnu.claims.length < 4) : Leads c s₀ s (makeClaim cand s) := by
  unfold makeClaim
  dsimp only
  generalize hu : postNotice _ (removeCandidate cand.key s) = u
  have hc : u.cnu.claims.length < 4 := by rw [← hu, claims_postNotice]; exact h
  have hl : Leads c s₀ s u := hu ▸ (leads_removeCandidate cand.key s).trans (leads_postNotice _ _)
  have ha (x : Claim) : Leads c s₀ s { u with cnu := { u.cnu with claims := u.cnu.claims ++ [x] } } :=
    hl.trans (.change (.claims _ (.inl (by simpa using Nat.succ_le_of_lt hc))))
  split
  · exact (ha _).trans (leads_enqueueFrame _ ‹_›)
  · exact ha _

theorem claims_of_eligible {size lodgeTime cls : Nat} {held : Bool}
    (h : eligibleToRecruit s size lodgeTime cls held = true) : s.cnu.claims.length < 4 := by
  simp only [eligibleToRecruit, Bool.and_eq_true, decide_eq_true_eq] at h
  exact h.1.1.1.1.2

theorem leads_recruitExpire (key : ShortKey) (s : State) : Leads c s₀ s (recruitExpire key s) := by
  unfold recruitExpire
  dsimp only
  split
  · split
    · exact .refl s
    · split
      · exact (leads_updateCandidate key _ s).trans (leads_removeCandidate key _)
      · split
        · rename_i h
          exact (leads_updateCandidate key _ s).trans (leads_makeClaim _ (claims_of_eligible h.2))
        · exact leads_updateCandidate key _ s
  · exact .refl s

theorem leads_startRecruit (key : ShortKey) (s : State) : Leads c s₀ s (startRecruit key s) := by
  unfold startRecruit
  dsimp only
  split
  · split
    · exact (leads_updateCandidate key _ s).trans (leads_recruitExpire key _)
    · exact leads_updateCandidate key _ s
  · exact .refl s

theorem leads_recruitCall (w : Want) (s : State) : Leads c s₀ s (recruitCall w s) := by
  unfold recruitCall
  dsimp only
  split
  · exact leads_updateClaim ..
  · split
    · exact .refl s
    · split
      · unfold refreshCandidate
        dsimp only
        split
        · exact (leads_updateCandidate w.key _ s).trans (leads_startRecruit ..)
        · exact leads_updateCandidate w.key _ s
      · split
        · exact .quiet rfl
        · rename_i hl
          have hc (x : Candidate) : Leads c s₀ s { s with cnu := { s.cnu with candidates := s.cnu.candidates ++ [x] } } :=
            .change (.candidates _ (.inl (by simpa using Nat.lt_of_not_le hl)))
          exact (hc _).trans (leads_startRecruit ..)

theorem leads_haveAtLists (key : ShortKey) (sender : NodeId) (s : State) : Leads c s₀ s (haveAtLists key sender s) := by
  unfold haveAtLists
  dsimp only
  split
  · split
    · exact (leads_updateClaim key _ s).trans ((leads_updateCandidate key _ _).trans (leads_removeCandidate key _))
    · exact (leads_updateClaim key _ s).trans (leads_updateCandidate key _ _)
  · exact (leads_updateClaim key _ s).trans (leads_updateCandidate key _ _)

theorem leads_dropAtLists (key : ShortKey) (reason : DropReason) (sender : NodeId) (s : State) :
    Leads c s₀ s (dropAtLists key reason sender s) := by
  unfold dropAtLists
  dsimp only
  split
  · split
    · exact (leads_updateClaim key _ s).trans ((leads_updateCandidate key _ _).trans (leads_removeCandidate key _))
    · exact (leads_updateClaim key _ s).trans (leads_updateCandidate key _ _)
  · exact (leads_updateClaim key _ s).trans (leads_updateCandidate key _ _)

theorem leads_claimLapse (key : ShortKey) (s : State) : Leads c s₀ s (claimLapse key s) := by
  unfold claimLapse
  split
  · exact (leads_removeClaim key s).trans ((Leads.quiet (watched_raise .claimLapsed _)).trans (leads_postNotice _ _))
  · exact .refl s

/-! ### Grants and the emptied queue -/

theorem leads_grantWant (as : List Appeal) {s : State} (ho : canOffer s = true) : Leads c s₀ s (grantWant as s).1 := by
  induction as generalizing s with
  | nil => exact .refl s
  | cons a as ih =>
    unfold grantWant
    split
    · exact ih ho
    · split
      · exact (leads_updateAppeal a.index (by exact fun _ => rfl) s).trans (leads_enqueueFrame _ ho)
      · exact (leads_removeAppeal a.index s).trans (ih (s := removeAppeal a.index s) ho)

theorem leads_grantRepair (is : List Nat) {s : State} (ho : canOffer s = true) : Leads c s₀ s (grantRepair is s).1 := by
  induction is generalizing s with
  | nil => exact .refl s
  | cons i is ih =>
    unfold grantRepair
    split
    · exact ih ho
    · have he : Leads c s₀ s { s with cnu := { s.cnu with repairs := s.cnu.repairs.erase i } } :=
        .change (.repairs _ (.inr List.length_erase_le))
      dsimp only
      split
      · exact he.trans (leads_enqueue _ ho)
      · exact he.trans (ih ho)

theorem canOffer_grantWant (as : List Appeal) (s : State) (h : (grantWant as s).2 = false) :
    canOffer (grantWant as s).1 = canOffer s := by
  induction as generalizing s with
  | nil => rfl
  | cons a as ih =>
    unfold grantWant at h ⊢
    split at h <;> rename_i h1
    · rw [if_pos h1]; exact ih s h
    · rw [if_neg h1]
      split at h <;> rename_i h2
      · simp at h
      · rw [if_neg h2]; exact ih (removeAppeal a.index s) h

theorem leads_grantCnu (ho : canOffer s = true) : Leads c s₀ s (grantCnu s) := by
  unfold grantCnu
  split
  · exact (leads_updateClaim _ _ s).trans (leads_enqueueFrame _ ho)
  · have hw := leads_grantWant (c := c) (s₀ := s₀) s.cnu.appeals ho
    have hk := canOffer_grantWant s.cnu.appeals s
    split
    · rename_i h
      rw [h] at hw
      exact hw
    · rename_i h
      rw [h] at hw hk
      exact hw.trans (leads_grantRepair _ ((hk rfl).trans ho))

theorem leads_updateLifted (m : Matter) (f : Lifted → Lifted) (s : State) : Leads c s₀ s (updateLifted m f s) :=
  .change (.lifted _ (.inr (length_updateFirst ..).le))

theorem leads_grantHdu (ho : canOffer s = true) (h : grantHdu s = some t) : Leads c s₀ s t := by
  unfold grantHdu at h
  split at h
  · obtain rfl := Option.some.inj h
    exact (leads_updateLifted _ _ s).trans (leads_enqueueFrame _ ho)
  · split at h
    · split at h
      · obtain rfl := Option.some.inj h
        exact leads_enqueueFrame (s := updateSlot _ _ s) _ ho
      · simp at h
    · simp at h

theorem leads_grantOne (s : State) : Leads c s₀ s (grantOne s) := by
  unfold grantOne
  split
  · rename_i ho
    split
    · exact leads_grantHdu ho ‹_›
    · split
      · exact leads_grantCtc ho ‹_›
      · exact leads_grantCnu ho
  · exact .refl s

theorem leads_grantAll (s : State) : Leads c s₀ s (grantAll s) := .foldl (fun s _ => leads_grantOne s) _ s

theorem leads_ctcDiscard (i : Nat) (f : PeerFrame) (s : State) : Leads c s₀ s (ctcDiscard i f s) := by
  unfold ctcDiscard
  dsimp only
  split
  · exact .refl s
  · split
    · split
      · exact leads_setOwed ..
      · exact .refl s
    · split
      · exact leads_setOwed ..
      · exact .refl s
    · split
      · exact leads_oweDrop ..
      · exact .refl s
    · exact .refl s

theorem leads_payloadDiscard (f : PeerFrame) (s : State) : Leads c s₀ s (payloadDiscard f s) := by
  unfold payloadDiscard
  split
  · split <;> exact .quiet rfl
  · exact leads_updateLifted ..
  · exact leads_updateClaim ..
  · refine .change (.appeals _ ?_)
    rw [map_updateFirst (hf := by exact fun _ => rfl)]
    exact .refl _
  · exact .refl s

theorem leads_reportDiscard (s : State) (q : SendItem) : Leads c s₀ s (reportDiscard s q) := by
  unfold reportDiscard
  split
  · exact .refl s
  · split
    · exact leads_payloadDiscard ..
    · split
      · exact .refl s
      · exact leads_ctcDiscard ..
    · exact leads_keepRepair ..

/-- The queue emptied after a change `h` that leaves the node with no frame and no attempt (R99). -/
theorem leads_emptyQueue (h : Leads c s₀ s { t with pbc := { t.pbc with sendQueue := [], attempt := none, heldBeacon := false } }) :
    Leads c s₀ s (emptyQueue t) := by
  unfold emptyQueue
  exact (h.trans (.foldl leads_reportDiscard _ _)).trans (.quiet rfl)

end Sys2Proof.Machine
end

section
/-! PROOFS. Confinement, the media port, the effects of a completed write, holds, the endings of media commands, writes cut
short and the walks' visits as runs of single changes. -/

namespace Sys2Proof.Machine

variable {c : Instr} {s₀ s t u : State}

/-! ### Fault confinement -/

/-- Only a send count of 240 brings a node that is not SILENT there (R111). -/
theorem send_of_nextConfinement_silent {old : Confinement} {send recv : Nat} (ho : old ≠ .silent)
    (h : nextConfinement old send recv = .silent) : send = 240 := by
  cases old with
  | voiced =>
    simp only [nextConfinement] at h
    split at h <;> exact absurd h (by decide)
  | restrained =>
    simp only [nextConfinement] at h
    split at h
    · assumption
    · split at h <;> exact absurd h (by decide)
  | silent => exact absurd rfl ho

/-- A change of the error counts keeps them in range where the new counts are (R109, R110, R111, R113). -/
theorem leads_setCounts (send recv : Nat) (s : State)
    (h : s.pbc.sendCount ≤ 240 → s.pbc.recvCount ≤ 200 → send ≤ 240 ∧ recv ≤ 200) :
    Leads c s₀ s (setCounts send recv s) := by
  unfold setCounts
  split
  · exact .refl s
  · rename_i ho
    dsimp only
    split
    · rename_i hs
      have h240 : send = 240 := send_of_nextConfinement_silent ho hs
      unfold enterSilent
      refine leads_emptyQueue (.change ?_)
      have := Change.silence (c := c) (s₀ := s₀) (w := watched s) send recv h240 fun a b => (h a b).2
      rw [hs]
      split <;> exact this
    · rename_i hs
      have := Change.counts (c := c) (s₀ := s₀) (w := watched s) send recv
        (nextConfinement s.pbc.confinement send recv) ho hs h
      split <;> exact .change this

theorem leads_raiseSend (s : State) : Leads c s₀ s (raiseSend s) := leads_setCounts _ _ s (by omega)

theorem leads_raiseRecv (s : State) : Leads c s₀ s (raiseRecv s) := leads_setCounts _ _ s (by omega)

theorem leads_endAttempt (s : State) : Leads c s₀ s (endAttempt s) :=
  .change (.queue _ none false (by simp [watched, endAttempt]) (by simp) (by simp))

theorem leads_changePresence (id : NodeId) (p : Presence) (s : State) (hp : p ≠ .self)
    (ho : (peerAt s id).presence ≠ .self) : Leads c s₀ s (changePresence id p s) :=
  have h : Leads c s₀ s (setPeer id { peerAt s id with presence := p } s) :=
    .change (.peer (w := watched s) id { peerAt s id with presence := p } (.inr ⟨hp, ho⟩))
  h.trans (.quiet (watched_trigger _))

theorem presence_of_windowOver {id : NodeId} (h : windowOver s id = true) : (peerAt s id).presence = .present := by
  simp only [windowOver, Bool.and_eq_true, decide_eq_true_eq] at h
  exact h.1

/-! ### Effects of a completed write -/

theorem leads_commit {i : Nat} {e : Entry} (h : WorkKept c s₀ (watched s) i e) (effects : List Effect)
    (hr : ∀ u, Leads c s₀ u (runEffects i e effects u)) : Leads c s₀ s (commit i e effects s) := by
  unfold commit
  dsimp only
  split
  · exact (leads_changeEntry h _ _).trans (hr _)
  · exact leads_changeEntry h _ _

theorem leads_freed (i : Nat) (key : ShortKey) (drop : Bool) (s : State) : Leads c s₀ s (freed i key drop s) := by
  unfold freed
  have h : Leads c s₀ s (removeAppeal i (clearErases i (removeRuns i s))) :=
    (Leads.quiet (t := clearErases i (removeRuns i s)) rfl).trans (leads_removeAppeal i _)
  dsimp only
  split
  · exact h.trans (leads_announceDisposed i key _)
  · exact h.trans (leads_returnIndex i _)

theorem leads_releaseGranted (s : State) : Leads c s₀ s (releaseGranted s) := by
  unfold releaseGranted
  split
  · exact .change (.releaseGranted _ _ _ ‹_›)
  · exact .refl s

theorem leads_postDamaged (i : Nat) (s : State) : Leads c s₀ s (postDamaged i s) := by
  unfold postDamaged
  exact (leads_postNotice (s := raise .damaged s) _).trans (leads_postNotice _ _)

theorem leads_runEffect (i : Nat) (e : Entry) (s : State) (f : Effect) : Leads c s₀ s (runEffect i e s f) := by
  cases f with
  | answer r o res => exact .quiet rfl
  | announceHave => exact leads_announceHave i s
  | announceDamaged => exact leads_announceDamaged i s
  | census => exact leads_offerAppeal i s
  | recheck => exact leads_recheckAppeal i s
  | queueVerify refill before req => exact .quiet rfl
  | releasableNotice => exact (leads_postNotice _ s).trans (.quiet (watched_raise ..))
  | damagedNotices => exact leads_postDamaged i s
  | queueErases order =>
    unfold runEffect
    dsimp only
    split <;> exact .quiet rfl
  | releaseErase => exact leads_releaseGranted s
  | freed key drop => exact leads_freed i key drop s
  | refillTaken old new => exact .quiet rfl
  | refillDropped es => exact .quiet rfl
  | repairHave => exact leads_offerRepair i s
  | visitDone => exact .quiet (watched_moveOn i s)

theorem leads_runEffects (i : Nat) (e : Entry) (fs : List Effect) (s : State) : Leads c s₀ s (runEffects i e fs s) :=
  .foldl (leads_runEffect i e) fs s

/-- A change that the laws allow leads on, with whatever follows it. -/
theorem leads_commit_any {i : Nat} {e : Entry} (h : WorkKept c s₀ (watched s) i e) (effects : List Effect) :
    Leads c s₀ s (commit i e effects s) := leads_commit h effects (leads_runEffects i e effects)

theorem leads_storeEntry (w : EntryWrite) (s : State) : Leads c s₀ s (storeEntry w s) :=
  .change (.store _ (catWf_catSet _ _))

theorem leads_completeEntry (w : EntryWrite) (s : State) : Leads c s₀ s (completeEntry w s) := by
  unfold completeEntry
  dsimp only
  refine Leads.trans ?_ (.quiet (watched_foldl (watched_answerLookup _ _) _ _))
  refine Leads.trans ?_ (leads_runEffects ..)
  exact (leads_storeEntry w { s with ctc := { s.ctc with writes := s.ctc.writes.erase w } }).trans (leads_recordHit ..)

/-! ### The walks and the media port -/

theorem leads_maybeRunning (s : State) : Leads c s₀ s (maybeRunning s) := by
  unfold maybeRunning
  split
  · rename_i h
    exact .change (.node .running (by decide) (.inl (by rw [show (watched s).node = .loading from h.1]; decide)))
  · exact .refl s

theorem leads_endLoadWalk (s : State) : Leads c s₀ s (endLoadWalk s) := by
  unfold endLoadWalk
  exact (Leads.quiet (watched_endWalk { s with
    rwk := { s.rwk with loadEnded := true, pendingWalk := true }
    scs := { s.scs with tickTimer := some (s.coreMs + seconds (inForceOr s Settings.scrubTick 1)) } })).trans
    (leads_maybeRunning _)

theorem leads_walkProgress (s : State) : Leads c s₀ s (walkProgress s) := by
  unfold walkProgress
  split
  · split
    · exact .refl s
    · split
      · split
        · exact .refl s
        · exact leads_endLoadWalk s
      · split
        · exact .refl s
        · exact .quiet (watched_endWalk s)
  · exact .refl s

theorem portFree_iff (s : State) : portFree s = true ↔
    s.mar.inFlight = none ∧ s.mar.grantedErase = none ∧ s.pins.mediaReady = true ∧ s.ctc.node ≠ .awaitingStart ∧
      s.ctc.node ≠ .dormant ∧ s.ctc.node ≠ .waking := by
  simp [portFree, and_assoc]

/-- A change that leaves a record's state, debts, expiry and identity. -/
theorem workKept_plain {i : Nat} {e : Entry} (hs : e.state = (entryAt s i).state) (ho : e.owed = (entryAt s i).owed)
    (hid : SameIdentity (entryAt s i) e) (hx : e.expiry = (entryAt s i).expiry) : WorkKept c s₀ (watched s) i e := fun _ =>
  { listable := fun hl => ⟨hs.trans hl.1, ho ▸ hl.2⟩
    identity := fun hn => ⟨hs ▸ hn, hx.ge, hid⟩
    release := fun hr => .inl ⟨hs ▸ hr, .inl hx⟩ }

/-- A command that is no disposition ERASE is released to a free port. -/
theorem leads_release {cmd : MediaCmd} (hi : s.mar.inFlight = none) (hg : s.mar.grantedErase = none)
    (h : ∀ e, cmd ≠ .erase e) : Leads c s₀ s (release cmd s) :=
  .change (.release _ cmd _ hi hg fun e he => absurd he (h e))

theorem leads_grantErase (w : EraseWork) (rest : List EraseWork) {s : State} (hi : s.mar.inFlight = none)
    (hg : s.mar.grantedErase = none) (hn : s.pins.guardAsserted = false) : Leads c s₀ s (grantErase w rest s) := by
  unfold grantErase
  dsimp only
  split
  · exact .change (.release _ _ _ hi hg fun _ _ => hn)
  · have hgr : Leads c s₀ s { s with mar := { s.mar with erases := rest, grantedErase := some w } } :=
      .change (.grantErase w hi hn)
    refine hgr.trans (leads_changeEntry ?_ _ _)
    exact workKept_plain (s := s) rfl rfl (sameIdentity_refl _) rfl

theorem leads_grantPort (s : State) : Leads c s₀ s (grantPort s) := by
  unfold grantPort
  split
  · rename_i hf
    obtain ⟨hi, hg, -⟩ := (portFree_iff s).1 hf
    have hscrub (i : Nat) : Leads c s₀ s (grantScrub i s) :=
      leads_release (s := { s with scs := { s.scs with request := none } }) hi hg (by simp)
    have hlate : Leads c s₀ s (grantLateScrub s) := by
      unfold grantLateScrub
      split
      · split
        · exact hscrub _
        · exact .refl s
      · exact .refl s
    have herase : Leads c s₀ s (grantFromErase s) := by
      unfold grantFromErase
      split
      · split
        · rename_i he
          simp only [eraseReady, Bool.and_eq_true, Bool.not_eq_true'] at he
          exact leads_grantErase _ _ hi hg he.1
        · exact hlate
      · exact hlate
    have hhost : Leads c s₀ s (grantFromHost s) := by
      unfold grantFromHost
      split
      · rename_i x rest hq
        have : Leads c s₀ s { s with mar := { s.mar with gated := rest } } :=
          .change (.gated _ fun y hy => by rw [show (watched s).gated = _ from hq]; exact List.mem_cons_of_mem _ hy)
        exact this.trans (leads_release (s := { s with mar := { s.mar with gated := rest } }) hi hg (by simp))
      · exact herase
    have hverify : Leads c s₀ s (grantFromVerify s) := by
      unfold grantFromVerify
      split
      · rename_i v _
        exact leads_release (s := { s with mar := { s.mar with verifies := s.mar.verifies.erase v } }) hi hg (by simp)
      · exact hhost
    split
    · split
      · exact hscrub _
      · exact hverify
    · exact hverify
  · exact .refl s

theorem leads_mediaTail (s : State) : Leads c s₀ s (mediaTail s) :=
  (leads_walkProgress s).trans ((Leads.quiet (watched_offerScrub _)).trans (leads_grantPort _))

/-- The link's part at the end of a command. -/
theorem leads_linkEnd (s : State) : Leads c s₀ s (linkEnd s) := by
  obtain ⟨hr, hn, hs, -, -⟩ := linkEnd_link s
  have h := linkEnd_same s
  unfold SameButLink at h
  refine .quiet ?_
  have hw : watched (linkEnd s) = { watched ({ linkEnd s with rli := s.rli, free := s.free } : State) with
      requests := (linkEnd s).rli.requests, notices := (linkEnd s).rli.notices
      starting := (linkEnd s).rli.starting } := rfl
  rw [hw, h, hr, hn, hs]
  rfl

/-! ### Holds -/

theorem leads_holdMeetsDisposing (s : State) (i : Nat) : Leads c s₀ s (holdMeetsDisposing s i) := by
  unfold holdMeetsDisposing
  dsimp only
  split
  · exact .refl s
  · split
    · exact .quiet rfl
    · rename_i h _
      have hd : (entryAt s i).state = .disposing := by tauto
      refine (Leads.quiet (watched_withdrawErases i s)).trans (leads_commit_any ?_ _)
      exact workKept_taken (s := s) (by rw [hd]; decide) (sameIdentity_refl _) le_rfl (by simp)

theorem leads_epochChange (s : State) : Leads c s₀ s (epochChange s) := by
  unfold epochChange
  dsimp only
  refine Leads.trans (Leads.trans (.quiet ?_) (.foldl leads_holdMeetsDisposing _ _)) (.quiet rfl)
  exact watched_trigger _

theorem leads_enterHold (i : Nat) (h : HoldRec) (heard : Bool) (purpose : SlotPurpose) (s : State) :
    Leads c s₀ s (enterHold i h heard purpose s) := by
  unfold enterHold
  dsimp only
  refine Leads.trans (Leads.trans ?_ (leads_epochChange _)) (.quiet (watched_writeSlot _ _))
  exact .change (.lifted _ (.inr (List.length_filter_le ..)))

theorem leads_addLifted (m : Matter) (time : Nat) (s : State) : Leads c s₀ s (addLifted m time s) :=
  .change (.lifted _ (.inl (by simp [addLifted]; omega)))

theorem leads_removeHold (i : Nat) (m : Matter) (time : Nat) (s : State) : Leads c s₀ s (removeHold i m time s) :=
  ((Leads.quiet (watched_setSlot i none s)).trans (leads_addLifted m time _)).trans (leads_epochChange _)

theorem leads_offerHold (i : Nat) (s : State) : Leads c s₀ s (offerHold i s) := by
  unfold offerHold
  split
  · split
    · exact (Leads.quiet (watched_updateSlot ..)).trans (leads_enqueueFrame _ ‹_›)
    · exact .quiet rfl
  · exact .refl s

theorem leads_offerLift (m : Matter) (time : Nat) (s : State) : Leads c s₀ s (offerLift m time s) := by
  unfold offerLift
  split
  · exact leads_enqueueFrame _ ‹_›
  · exact leads_updateLifted ..

theorem leads_slotWritten (w : SlotWrite) (s : State) : Leads c s₀ s (slotWritten w s) := by
  unfold slotWritten
  dsimp only
  split
  · exact (Leads.quiet (watched_answerDone ..)).trans (leads_offerHold _ _)
  · exact .quiet (watched_answerDone ..)
  · exact ((leads_removeHold ..).trans (.quiet (watched_answerReq ..))).trans (leads_offerLift ..)
  · exact leads_removeHold ..

theorem leads_completeSlot (i : Nat) (s : State) : Leads c s₀ s (completeSlot i s) := by
  unfold completeSlot
  split
  · rename_i w _
    split
    · exact (Leads.quiet (t := { s with
          hdu := { s.hdu with writes := s.hdu.writes.erase w }
          store := { s.store with holds := s.store.holds.set i w.record } }) rfl).trans (leads_slotWritten w _)
    · exact .refl s
  · exact .refl s

/-! ### Endings of media commands -/

theorem leads_endLodge (v : VerifyWork) (how : Ending) (s : State) : Leads c s₀ s (endLodge v how s) := by
  unfold endLodge
  dsimp only
  split
  · rename_i hl
    split
    · refine leads_commit_any ?_ _
      exact workKept_taken (by rw [hl]; decide) (sameIdentity_refl _) le_rfl (by simp)
    · exact leads_commit_any (workKept_free listable_freeEntry) _
  · exact .refl s

theorem leads_endRefill (v : VerifyWork) (how : Ending) (s : State) : Leads c s₀ s (endRefill v how s) := by
  unfold endRefill
  dsimp only
  split
  · rename_i h
    have hd : (entryAt s v.index).state = .damaged := by
      by_contra hn
      simp [hn] at h
    split
    · refine leads_commit_any ?_ _
      exact workKept_taken (by rw [hd]; decide) (sameIdentity_refl _) le_rfl (by simp)
    · refine leads_commit_any ?_ _
      exact workKept_same (by rw [hd]; decide) rfl (sameIdentity_refl _) rfl
  · exact .refl s

theorem leads_endVerify (v : VerifyWork) (e : Ending) (s : State) : Leads c s₀ s (endVerify v e s) := by
  unfold endVerify
  split
  · split <;> exact .quiet rfl
  · split
    · exact leads_endRefill v e s
    · exact leads_endLodge v e s

theorem leads_endErase (w : EraseWork) (how : Ending) (s : State) : Leads c s₀ s (endErase w how s) := by
  unfold endErase
  split
  · dsimp only
    split
    · exact (Leads.quiet (watched_countErase w.index s)).trans (leads_commit_any (workKept_free listable_freeEntry) _)
    · exact .quiet (watched_countErase w.index s)
  · exact .quiet rfl

theorem leads_scrubResult (i : Nat) (r : MediaResult) (s : State) : Leads c s₀ s (scrubResult i r s) := by
  unfold scrubResult
  dsimp only
  split
  · exact .refl s
  · rename_i hn
    have ho : (entryAt s i).state ≠ .free := by
      intro hf
      simp [hf, storedCopy] at hn
    split
    · exact leads_recordHit _ s
    · split
      · split
        · refine leads_changeEntry ?_ _ _
          exact workKept_same ho rfl (sameIdentity_refl _) rfl
        · exact leads_recordHit _ s
      · refine leads_changeEntry ?_ _ _
        exact workKept_taken ho (sameIdentity_refl _) le_rfl (by simp)

theorem leads_advanceCursor (i : Nat) (s : State) : Leads c s₀ s (advanceCursor i s) :=
  .change (.balance _ (by simp only [advanceCursor, watched]; omega))

theorem leads_endScrub (i : Nat) (e : Ending) (s : State) : Leads c s₀ s (endScrub i e s) := by
  unfold endScrub
  split
  · exact (leads_advanceCursor i s).trans (leads_scrubResult _ _ _)
  · exact .refl s

theorem leads_handEnding (m : MediaCmd) (e : Ending) (s : State) : Leads c s₀ s (handEnding m e s) := by
  cases m with
  | host h =>
    unfold handEnding endHost
    dsimp only
    split <;> exact .quiet rfl
  | verify v => exact leads_endVerify v e s
  | erase w => exact leads_endErase w e s
  | scrub i es key => exact leads_endScrub i e s

/-- The node enters DORMANT where the change of node is allowed (R169). -/
theorem leads_enterDormant (r : Req) (s : State) (h : s.ctc.node ≠ .storeFault ∨
    s.ctc.node = s₀.ctc.node ∧ (s₀.rli.starting ≠ none ∨ s₀.scs.waitingDormant ≠ none)) :
    Leads c s₀ s (enterDormant r s) :=
  have hd : Leads c s₀ s { s with ctc := { s.ctc with node := .dormant } } :=
    .change (.node (w := watched s) .dormant (by decide) h)
  hd.trans (.change (.waitingDormant none (.inl rfl)))

theorem leads_checked (r : Req) (checks : List (Bool × Reply × Results)) (accept : State → State) (s : State)
    (h : firstFailing checks = none → Leads c s₀ s (accept s)) : Leads c s₀ s (checked r checks accept s) := by
  unfold checked
  split
  · exact .quiet rfl
  · exact h ‹_›

theorem leads_recheckDormant (s : State) (h : s.scs.waitingDormant ≠ none → s.ctc.node ≠ .storeFault ∨
    s.ctc.node = s₀.ctc.node ∧ (s₀.rli.starting ≠ none ∨ s₀.scs.waitingDormant ≠ none)) :
    Leads c s₀ s (recheckDormant s) := by
  unfold recheckDormant
  split
  · rename_i hw
    have hn := h (by simp [hw])
    have hw : Leads c s₀ s { s with scs := { s.scs with waitingDormant := none } } :=
      .change (.waitingDormant none (.inl rfl))
    exact hw.trans (leads_checked _ _ _ _ fun _ => leads_enterDormant _ _ hn)
  · exact .refl s

/-! What a scrub's end leaves of the node and of a waiting DORMANT. -/

theorem recordHit_node (h : Option Hit) (s : State) :
    (recordHit h s).ctc = s.ctc ∧ (recordHit h s).scs = s.scs := by
  unfold recordHit
  split
  · exact ⟨rfl, rfl⟩
  · split <;> exact ⟨rfl, rfl⟩

theorem noteScrubbable_node (i : Nat) (a b : EntryState) (s : State) :
    (noteScrubbable i a b s).ctc = s.ctc ∧ (noteScrubbable i a b s).scs.waitingDormant = s.scs.waitingDormant := by
  unfold noteScrubbable
  split
  · exact ⟨rfl, rfl⟩
  · split <;> exact ⟨rfl, rfl⟩

theorem changeEntry_node (i : Nat) (e : Entry) (causes : HitCauses) (fs : List Effect) (s : State) :
    (changeEntry i e causes fs s).ctc.node = s.ctc.node ∧
      (changeEntry i e causes fs s).scs.waitingDormant = s.scs.waitingDormant := by
  unfold changeEntry queueWrite
  obtain ⟨h1, h2⟩ := noteScrubbable_node i (entryAt s i).state e.state (setWork i e s)
  dsimp only
  split
  · rw [(recordHit_node _ _).1, (recordHit_node _ _).2, h1, h2]
    exact ⟨rfl, rfl⟩
  · dsimp only
    rw [h1, h2]
    exact ⟨rfl, rfl⟩

theorem scrubResult_node (i : Nat) (r : MediaResult) (s : State) : (scrubResult i r s).ctc.node = s.ctc.node ∧
    (scrubResult i r s).scs.waitingDormant = s.scs.waitingDormant := by
  have hit : (scrubHit i r s).ctc.node = s.ctc.node ∧ (scrubHit i r s).scs.waitingDormant = s.scs.waitingDormant := by
    unfold scrubHit
    dsimp only
    rw [(recordHit_node _ _).1, (recordHit_node _ _).2]
    exact ⟨rfl, rfl⟩
  unfold scrubResult
  dsimp only
  split
  · exact ⟨rfl, rfl⟩
  · split
    · exact hit
    · split
      · split
        · exact changeEntry_node ..
        · exact hit
      · exact changeEntry_node ..

theorem endScrub_node (i : Nat) (e : Ending) (s : State) : (endScrub i e s).ctc.node = s.ctc.node ∧
    (endScrub i e s).scs.waitingDormant = s.scs.waitingDormant := by
  unfold endScrub
  split
  · exact scrubResult_node _ _ _
  · exact ⟨rfl, rfl⟩

theorem leads_endInFlight (f : InFlight) (e : Ending) (s : State)
    (h : s.scs.waitingDormant ≠ none → s.ctc.node ≠ .storeFault ∨
      s.ctc.node = s₀.ctc.node ∧ (s₀.rli.starting ≠ none ∨ s₀.scs.waitingDormant ≠ none)) :
    Leads c s₀ s (endInFlight f e s) := by
  obtain ⟨tag, m⟩ := f
  have hh : Leads c s₀ s (handEnding m e { s with mar := { s.mar with inFlight := none, timer := none } }) :=
    (Leads.change .ended).trans (leads_handEnding m e _)
  unfold endInFlight
  cases m with
  | host x => exact hh
  | verify v => exact hh
  | erase w => exact hh
  | scrub i es key =>
    refine hh.trans (leads_recheckDormant _ ?_)
    obtain ⟨h1, h2⟩ := endScrub_node i e { s with mar := { s.mar with inFlight := none, timer := none } }
    show (endScrub i e _).scs.waitingDormant ≠ none → (endScrub i e _).ctc.node ≠ _ ∨ (endScrub i e _).ctc.node = _ ∧ _
    rw [h1, h2]
    exact h

/-! ### Writes cut short and STORE FAULT -/

/-- A free value is taken, and the write lands or does not (R9, log 5). -/
def landing (land : State → State) (s : State) : State :=
  if Config.cutWriteLands s.free then land { s with free := s.free + 1 } else { s with free := s.free + 1 }

/-- A cut write has landed, or not: nothing else can be said of it. -/
theorem landing_cases (land : State → State) (s : State) :
    landing land s = land { s with free := s.free + 1 } ∨ landing land s = { s with free := s.free + 1 } := by
  unfold landing
  split
  · exact .inl rfl
  · exact .inr rfl

theorem cutEntries_cons (cut : List Nat) (w : EntryWrite) (ws : List EntryWrite) (s : State) :
    cutEntries cut (w :: ws) s =
      if w.index ∈ cut then cutEntries cut ws s else cutEntries (w.index :: cut) ws (landing (storeEntry w) s) := rfl

theorem cutSlots_cons (cut : List Nat) (w : SlotWrite) (ws : List SlotWrite) (s : State) :
    cutSlots cut (w :: ws) s =
      if w.slot ∈ cut then cutSlots cut ws s
      else if w.record = none then cutSlots (w.slot :: cut) ws s
      else cutSlots (w.slot :: cut) ws
        (landing (fun s => { s with store := { s.store with holds := s.store.holds.set w.slot w.record } }) s) := rfl

theorem cutFloor_eq (s : State) : cutFloor s = match s.rck.floorWrites with
    | [] => s
    | v :: _ => landing (fun s => { s with store := { s.store with rf := v } }) s := rfl

theorem cutCursor_eq (s : State) : cutCursor s = match s.scs.cursorWrites with
    | [] => s
    | v :: _ => landing (fun s => { s with store := { s.store with cursor := v } }) s := rfl

theorem cutStart_eq (s : State) : cutStart s = match s.rli.starting with
    | none => s
    | some st =>
      if st.prepare then s else landing (fun s => { s with store := { s.store with settings := st.settings } }) s := rfl

/-- What a cut of the outstanding writes leaves: the stored RF and the stored entries alone may have moved (R9). -/
theorem watched_cutEntries (cut : List Nat) (ws : List EntryWrite) (s : State) :
    ∃ es, watched (cutEntries cut ws s) = { watched s with entries := es } ∧
      (catWf s.store.entries = true → catWf es = true) ∧ (cutEntries cut ws s).rck = s.rck := by
  induction ws generalizing cut s with
  | nil => exact ⟨_, rfl, id, rfl⟩
  | cons w ws ih =>
    rw [cutEntries_cons]
    split
    · exact ih cut s
    · rcases landing_cases (storeEntry w) s with h | h
      · obtain ⟨es, h1, h2, h3⟩ := ih (w.index :: cut) (storeEntry w { s with free := s.free + 1 })
        rw [h]
        exact ⟨es, h1, fun h => h2 (catWf_catSet _ _ h), h3⟩
      · obtain ⟨es, h1, h2, h3⟩ := ih (w.index :: cut) { s with free := s.free + 1 }
        rw [h]
        exact ⟨es, h1, h2, h3⟩

theorem watched_cutSlots (cut : List Nat) (ws : List SlotWrite) (s : State) : watched (cutSlots cut ws s) = watched s := by
  induction ws generalizing cut s with
  | nil => rfl
  | cons w ws ih =>
    rw [cutSlots_cons]
    split
    · exact ih cut s
    · split
      · exact ih _ s
      · rw [ih]
        rcases landing_cases (fun s : State => { s with store := { s.store with
          holds := s.store.holds.set w.slot w.record } }) s with h | h <;> rw [h] <;> rfl

theorem watched_cutFloor (s : State) : ∃ rf, watched (cutFloor s) = { watched s with storedRf := rf } ∧
    (rf = s.store.rf ∨ s.rck.floorWrites.head? = some rf) := by
  rw [cutFloor_eq]
  split
  · exact ⟨_, rfl, .inl rfl⟩
  · rename_i v rest h
    rcases landing_cases (fun s : State => { s with store := { s.store with rf := v } }) s with hl | hl <;> rw [hl]
    · exact ⟨v, rfl, .inr (by simp [h])⟩
    · exact ⟨_, rfl, .inl rfl⟩

theorem watched_cutCursor (s : State) : watched (cutCursor s) = watched s := by
  rw [cutCursor_eq]
  split
  · rfl
  · rename_i v rest _
    rcases landing_cases (fun s : State => { s with store := { s.store with cursor := v } }) s with h | h <;> rw [h] <;> rfl

theorem watched_cutStart (s : State) : watched (cutStart s) = watched s := by
  rw [cutStart_eq]
  split
  · rfl
  · rename_i st _
    split
    · rfl
    · rcases landing_cases (fun s : State => { s with store := { s.store with settings := st.settings } }) s with h | h <;>
        rw [h] <;> rfl

theorem watched_cutWrites (s : State) : ∃ rf es, watched (cutWrites s) = { watched s with storedRf := rf, entries := es } ∧
    (rf = s.store.rf ∨ s.rck.floorWrites.head? = some rf) ∧ (catWf s.store.entries = true → catWf es = true) := by
  unfold cutWrites
  obtain ⟨es, h1, h2, h3⟩ := watched_cutEntries [] s.ctc.writes s
  have hsl (u : State) : watched (if u.store.header then cutSlots [] u.hdu.writes u else u) = watched u := by
    split
    · exact watched_cutSlots _ _ u
    · rfl
  generalize hv : (let u := cutEntries [] s.ctc.writes s; if u.store.header then cutSlots [] u.hdu.writes u else u) = v
  have hvw : watched v = { watched s with entries := es } := by rw [← hv]; exact (hsl _).trans h1
  obtain ⟨rf, h4, h5⟩ := watched_cutFloor v
  refine ⟨rf, es, ?_, ?_, h2⟩
  · show watched (cutStart (cutCursor (cutFloor (if _ then _ else _)))) = _
    rw [watched_cutStart, watched_cutCursor]
    show watched (cutFloor (let u := cutEntries [] s.ctc.writes s; if u.store.header then cutSlots [] u.hdu.writes u else u)) = _
    rw [hv, h4, hvw]
  · have hr : v.rck = s.rck := congrArg Watched.rck hvw
    have hs : v.store.rf = s.store.rf := congrArg Watched.storedRf hvw
    rw [hr, hs] at h5
    exact h5

theorem leads_enterStoreFault (s : State) : Leads c s₀ s (enterStoreFault s) := by
  unfold enterStoreFault
  split
  · exact .refl s
  · obtain ⟨rf, es, h1, h2, h3⟩ := watched_cutWrites s
    dsimp only
    generalize hu : List.foldl answerFault _ _ = u
    have hw : watched u = { watched s with storedRf := rf, entries := es } := by
      rw [← hu, watched_foldl watched_answerFault, watched_foldl watched_abandonSlot, watched_foldl watched_abandonEntry, h1]
    refine .change ?_
    rw [watched_leaveVisit]
    have hf := Change.fault (c := c) (s₀ := s₀) (w := watched s) rf es h2 h3
    have ht : watched (raise .storeFault { u with
        ctc := { u.ctc with node := .storeFault, writes := [] }
        hdu := { u.hdu with writes := [] }
        rck := { u.rck with floorWrites := [] }
        scs := { u.scs with cursorWrites := [], waitingDormant := none, wake := none, request := none, mediaSleep := false }
        rli := { u.rli with starting := none }
        mar := { u.mar with grantedErase := none, erases := u.mar.grantedErase.toList ++ u.mar.erases } }) =
        { watched u with node := .storeFault, rck := { (watched u).rck with floorWrites := [] }, waitingDormant := none,
                         starting := none, grantedErase := none } := rfl
    rw [ht, hw]
    exact hf

theorem enterStoreFault_node (s : State) : (enterStoreFault s).ctc.node = .storeFault := by
  unfold enterStoreFault
  split
  · assumption
  · exact congrArg Watched.node (watched_leaveVisit _)

theorem leads_resetReadFails (r : StoreRead) (s : State) (hn : s.ctc.node = .storeFault) (hc : c = .storeReadFailed r) :
    Leads c s₀ s (resetReadFails r s) := by
  unfold resetReadFails
  split
  · exact .quiet rfl
  · exact .change (.losesFloors hn (.inl hc))
  · exact .change (.losesFloors hn (.inr hc))
  · split <;> exact .quiet rfl
  · exact .quiet rfl
  · exact .refl s

/-! ### Visits -/

theorem leads_closeVisit {i : Nat} {e : Entry} (h : WorkKept c s₀ (watched s) i e) (effects : List Effect) :
    Leads c s₀ s (closeVisit i e effects s) := by
  unfold closeVisit
  split
  · exact leads_runEffects ..
  · exact leads_commit_any (s := beginVisit i s) h _

theorem leads_loadFree (i : Nat) (s : State) : Leads c s₀ s (loadFree i (entryAt s i) s) := by
  unfold loadFree
  split
  · split
    · exact (leads_enqueue _ ‹_›).trans ((leads_closeVisit (workKept_free listable_freeEntry) []).trans (leads_returnIndex ..))
    · exact leads_closeVisit (workKept_plain rfl rfl (sameIdentity_refl _) rfl) []
  · refine (leads_returnIndex i s).trans (leads_closeVisit ?_ [])
    have he : entryAt (returnIndex i s) i = entryAt s i := by
      unfold returnIndex
      split <;> rfl
    exact workKept_plain (by rw [he]) (by rw [he]) (by rw [he]; exact sameIdentity_refl _) (by rw [he])

theorem le_raisedExpiry (s : State) (e : Entry) : e.expiry ≤ raisedExpiry s e := by
  unfold raisedExpiry
  split
  · exact le_rfl
  · exact le_max_left _ _

/-- What a load visit leaves of an entry: its identity, an expiry no lower, and RELEASABLE only what was so. -/
theorem loadedEntry_kept (s : State) (e : Entry) : SameIdentity e (loadedEntry s e) ∧ e.expiry ≤ (loadedEntry s e).expiry ∧
    ((loadedEntry s e).state = .releasable → e.state = .releasable) := by
  have hx := le_raisedExpiry s e
  unfold loadedEntry
  dsimp only
  split
  · split <;> simp_all [SameIdentity]
  · split <;> simp_all [SameIdentity]
  · simp_all [SameIdentity]
  · simp_all [SameIdentity]

theorem leads_loadOccupied (i : Nat) (s : State) (ho : (entryAt s i).state ≠ .free)
    (h₀ : entryAt s₀ i = entryAt s i) : Leads c s₀ s (loadOccupied i (entryAt s i) s) := by
  obtain ⟨hid, hx, hr⟩ := loadedEntry_kept s (entryAt s i)
  have hk (o : Owed) : WorkKept c s₀ (watched s) i { loadedEntry s (entryAt s i) with owed := o } := fun _ =>
    { listable := fun hl => absurd hl.1 ho, identity := fun _ => ⟨ho, hx, hid⟩
      release := fun h => .inl ⟨hr h, .inr (h₀ ▸ hr h)⟩ }
  unfold loadOccupied
  dsimp only
  generalize hu : (resumeWork i (loadedEntry s (entryAt s i)) _) = u
  have hw : watched u = watched s := by
    rw [← hu, watched_resumeWork]
    split <;> rfl
  have hq : Leads c s₀ s u := .quiet hw
  have hp : u.pbc = s.pbc := by
    rw [← hu]
    unfold resumeWork
    split <;> split <;> rfl
  split
  · rename_i ha
    have hc : canOffer u = true := by
      simp only [offersAgain, Bool.and_eq_true] at ha
      unfold canOffer at ha ⊢
      rw [hp]
      exact ha.1.1
    have hk' := hk .nothing
    rw [← hw] at hk'
    refine hq.trans ((leads_enqueue _ hc).trans (leads_closeVisit ?_ _))
    exact hk'
  · have hk' := hk (loadedEntry s (entryAt s i)).owed
    rw [← hw] at hk'
    exact hq.trans (leads_closeVisit hk' _)

theorem leads_loadVisit (s : State) : Leads c s s (loadVisit s) := by
  unfold loadVisit
  split
  · rename_i i _
    split
    · dsimp only
      refine Leads.trans (Leads.quiet (t := { s with ctc := { s.ctc with loaded := i + 1 } }) rfl) ?_
      split
      · exact leads_loadFree i { s with ctc := { s.ctc with loaded := i + 1 } }
      · exact leads_loadOccupied i { s with ctc := { s.ctc with loaded := i + 1 } } ‹_› rfl
    · exact .refl s
  · exact .refl s

/-- What a refresh visit leaves of an entry: it is RELEASABLE only if it was, or if R74 holds. -/
theorem visitedEntry_release {startEpoch : BitVec 32} {e : Entry} (h : (visitedEntry s startEpoch e).state = .releasable)
    (hn : e.state ≠ .releasable) : e.state = .retained ∧ raisedExpiry s e ≤ s.rck.rf ∧ holdsOn s e.cust = 0 ∧
      doubtStands s = false ∧ s.hdu.epoch = startEpoch ∧ s.ctc.node ≠ .storeFault := by
  simp only [visitedEntry, visitedState] at h
  split at h
  · exact absurd h hn
  · split at h
    · rename_i hs
      split at h
      · rename_i hr
        simp only [releases, Bool.and_eq_true, decide_eq_true_eq, Bool.not_eq_true'] at hr
        exact ⟨hs, hr.1.1.1.1, hr.1.1.1.2, hr.1.1.2, hr.1.2, hr.2⟩
      · simp at h
    · exact absurd ‹_› hn
    · split at h <;> simp at h
    · exact absurd h hn

theorem leads_refreshVisit (s : State) : Leads .refreshVisit s s (refreshVisit s) := by
  unfold refreshVisit
  split
  · rename_i startEpoch low hwalk
    split
    · rename_i i hi
      have hk : WorkKept .refreshVisit s (watched s) i (visitedEntry s startEpoch (entryAt s i)) := fun wf => by
        have ho := occupied_of_nextOccupied wf hi
        refine ⟨fun hl => absurd hl.1 ho, fun _ => ⟨ho, le_raisedExpiry s _, sameIdentity_refl _⟩, fun h => ?_⟩
        by_cases hr : (entryAt s i).state = .releasable
        · exact .inl ⟨hr, .inr hr⟩
        · obtain ⟨hst, hx, hh, hd, hep, hn⟩ := visitedEntry_release h hr
          have hmax : raisedExpiry s (entryAt s i) = _ := if_neg hn
          have hx' := hmax ▸ hx
          exact .inr ⟨rfl, hst, hx, le_trans (le_max_left _ _) hx', le_trans (le_max_right _ _) hx', hh, hd, hn, low,
            hep ▸ hwalk⟩
      have go (u : State) (effects : List Effect) (hw : watched u = watched s) :
          Leads .refreshVisit s s (closeVisit i (visitedEntry s startEpoch (entryAt s i)) effects u) :=
        (Leads.quiet hw).trans (leads_closeVisit (hw ▸ hk) _)
      dsimp only
      refine go _ _ ?_
      split <;> split <;> rfl
    · exact .refl s
  · exact .refl s

end Sys2Proof.Machine
end

section
/-! PROOFS. Every command but the resets and the loss of core power as a run of single changes, and the cases of a step. -/

namespace Sys2Proof.Machine

variable {c : Instr} {s₀ s t u : State}

/-! ### How commands run -/

theorem leads_powered {f : State → State} (h : powered s f = .next t) (hf : s.pins.power = .on → Leads c s s (f s)) :
    Leads c s s t := by
  unfold powered at h
  obtain rfl := Host.Outcome.next.inj h
  split
  · exact hf ‹_›
  · exact .refl s

theorem leads_arrive (r : Req) (fits : Bool) (owner : State → State) (s : State)
    (h : Leads c s (enterQueue r s) (owner (enterQueue r s))) : Leads c s s (arrive r fits owner s) := by
  unfold arrive
  split
  · exact .quiet rfl
  · split
    · exact .quiet rfl
    · split
      · exact .quiet rfl
      · have hl : (s.rli.requests ++ [r]).length ≤ 32 := by
          rw [List.length_append, List.length_singleton]
          omega
        have hq : Leads c s s (enterQueue r s) := .change (.requests _ (.inl hl))
        exact hq.trans h

/-- A request leads on as its owner's part does, which begins with the request in the queue. -/
theorem leads_request {tag kind : Byte} {fits : Bool} {owner : Req → State → State} (h : request tag kind fits s owner = .next t)
    (ho : s.pins.power = .on → Leads c s (enterQueue ⟨tag, kind⟩ s) (owner ⟨tag, kind⟩ (enterQueue ⟨tag, kind⟩ s))) :
    Leads c s s t := by
  refine leads_powered h fun hp => ?_
  split
  · exact .refl s
  · exact (leads_arrive _ _ _ s (ho hp)).trans (leads_linkEnd _)

theorem firstFailing_eq_none (checks : List (Bool × Reply × Results)) :
    firstFailing checks = none ↔ ∀ x ∈ checks, x.1 = false := by
  induction checks with
  | nil => simp [firstFailing]
  | cons x rest ih =>
    obtain ⟨fails, answer⟩ := x
    cases fails <;> simp [firstFailing, ih]

/-- A request taken in RUNNING alone has passed its node-state check. -/
theorem running_of_runningOnly {checks : List (Bool × Reply × Results)} (h : firstFailing (runningOnly s ++ checks) = none) :
    s.ctc.node = .running ∧ ∀ x ∈ checks, x.1 = false := by
  rw [firstFailing_eq_none] at h
  refine ⟨?_, fun x hx => h x (List.mem_append_right _ hx)⟩
  have hr : ∀ x ∈ runningOnly s, x.1 = false := fun x hx => h x (List.mem_append_left _ hx)
  cases hn : s.ctc.node <;> simp_all [runningOnly]

/-! ### Time -/

theorem dayAtOrBelow_le (n : Nat) : dayAtOrBelow n ≤ n := Nat.div_mul_le_self n daySeconds

theorem leads_requestFloor (s : State) : Leads c s₀ s (requestFloor s) := by
  unfold requestFloor
  dsimp only
  split
  · rename_i h
    obtain ⟨hn, hrf, hv⟩ := h
    exact .change (.floor _ hn (dayAtOrBelow_le _) hrf hv (Nat.dvd_mul_left _ _))
  · exact .refl s

theorem leads_recomputeBdt (s : State) : Leads c s₀ s (recomputeBdt s) := by
  unfold recomputeBdt
  split
  · rename_i cfg _
    split
    · rename_i hv
      have hb : Leads c s₀ s { s with rck := { s.rck with bdt := boundedTime s cfg.q } } := by
        refine .change (.bound _ hv ?_ ?_)
        · unfold boundedTime
          split
          · exact le_rfl
          · exact le_max_left _ _
        · unfold boundedTime
          split
          · exact le_max_left _ _
          · exact max_le_max le_rfl (min_le_left _ _)
      exact hb.trans (leads_requestFloor _)
    · exact .refl s
  · exact .refl s

theorem leads_advanceRt (s : State) : Leads c s₀ s (advanceRt s) := .change .tick

/-! ### The Peer Table -/

theorem peers_changePresence (id : NodeId) (p : Presence) (s : State) :
    (changePresence id p s).pbc.peers = s.pbc.peers.set id.toNat { peerAt s id with presence := p } :=
  congrArg Watched.peers (watched_trigger (raise .presence (setPeer id { peerAt s id with presence := p } s)))

theorem getD_set_of_ne {α : Type} {l : List α} {i j : Nat} (x d : α) (h : i ≠ j) : (l.set i x).getD j d = l.getD j d := by
  simp [List.getD_eq_getElem?_getD, List.getElem?_set_ne h]

/-- A slot that is set reads as it was set, or is none. -/
theorem getD_set_self {α : Type} (l : List α) (i : Nat) (x d : α) :
    (l.set i x).getD i d = if i < l.length then x else d := by
  simp only [List.getD_eq_getElem?_getD, List.getElem?_set_self']
  split
  · simp [*]
  · simp [List.getElem?_eq_none (Nat.le_of_not_lt ‹_›)]

theorem peerAt_changePresence_ne {id j : NodeId} (p : Presence) (s : State) (h : j ≠ id) :
    peerAt (changePresence id p s) j = peerAt s j := by
  unfold peerAt
  rw [peers_changePresence]
  exact getD_set_of_ne _ _ fun hij => h (BitVec.eq_of_toNat_eq hij).symm

theorem leads_endWindows (ids : List NodeId) (hd : ids.Nodup) (s : State) (h : ∀ id ∈ ids, (peerAt s id).presence ≠ .self) :
    Leads c s₀ s (ids.foldl (fun s id => changePresence id .absent s) s) := by
  induction ids generalizing s with
  | nil => exact .refl s
  | cons id ids ih =>
    obtain ⟨hn, hd⟩ := List.nodup_cons.1 hd
    refine (leads_changePresence id .absent s (by decide) (h id (by simp))).trans (ih hd _ fun j hj => ?_)
    rw [peerAt_changePresence_ne _ _ fun e : j = id => hn (e ▸ hj)]
    exact h j (by simp [hj])

theorem nodup_allNodes : allNodes.Nodup := by decide

theorem leads_endStaleWindows (s : State) : Leads c s₀ s (endStaleWindows s) :=
  leads_endWindows _ (nodup_allNodes.filter _) s fun id hid => by
    rw [presence_of_windowOver (List.mem_filter.1 hid).2]
    decide

theorem leads_takeBeacon (sender : NodeId) (stamp : Nat) (a b d : Bool) (s : State) :
    Leads c s₀ s (takeBeacon sender stamp a b d s) := by
  unfold takeBeacon
  dsimp only
  refine Leads.trans ?_ (leads_recomputeBdt _)
  generalize hp : heardPeer s (peerAt s sender) stamp a b d = p
  have hpre : p.presence = (peerAt s sender).presence := by rw [← hp]; rfl
  have h1 : Leads c s₀ s (setPeer sender p s) := .change (.peer _ _ (.inl hpre))
  generalize hu : (if p.marker = .skewed ∧ (peerAt s sender).marker ≠ .skewed then raise .clock (setPeer sender p s)
    else setPeer sender p s) = u
  have hw : watched u = watched (setPeer sender p s) := by rw [← hu]; split <;> rfl
  have h2 : Leads c s₀ s u := h1.trans (.quiet hw)
  split
  · rename_i ha
    refine h2.trans (leads_changePresence sender .present u (by decide) ?_)
    have hu : u.pbc.peers = s.pbc.peers.set sender.toNat p := congrArg Watched.peers hw
    unfold peerAt
    rw [hu, getD_set_self]
    split
    · rw [hpre, ha]; decide
    · decide
  · exact h2

/-! ### START, DORMANT and WAKE -/

theorem leads_acceptStart (r : Req) (cfg : Settings) (s : State) (h : s.ctc.node ≠ .storeFault ∨
    s.ctc.node = s₀.ctc.node ∧ (s₀.rli.starting ≠ none ∨ s₀.scs.waitingDormant ≠ none)) :
    Leads c s₀ s (acceptStart r cfg s) := by
  unfold acceptStart
  have h1 : Leads c s₀ s (settingsInForce cfg s) := .change (.node (w := watched s) .loading (by decide) h)
  refine Leads.trans ?_ (.quiet (watched_answerReq ..))
  refine Leads.trans ?_ (.quiet (watched_takeMediaSize _))
  exact (h1.trans (leads_offerBeacon _)).trans (leads_endStaleWindows _)

theorem commit_node (i : Nat) (e : Entry) (s : State) : (commit i e [] s).ctc.node = s.ctc.node := by
  unfold commit
  dsimp only
  split <;> exact (changeEntry_node ..).1

theorem holdMeetsDisposing_node (s : State) (i : Nat) : (holdMeetsDisposing s i).ctc.node = s.ctc.node := by
  unfold holdMeetsDisposing
  dsimp only
  split
  · rfl
  · split
    · rfl
    · exact commit_node _ _ _

theorem removeHold_node (i : Nat) (m : Matter) (time : Nat) (s : State) : (removeHold i m time s).ctc.node = s.ctc.node := by
  unfold removeHold epochChange
  dsimp only
  have hf (l : List Nat) (u : State) : (l.foldl holdMeetsDisposing u).ctc.node = u.ctc.node := by
    induction l generalizing u with
    | nil => rfl
    | cons x xs ih => exact (ih _).trans (holdMeetsDisposing_node u x)
  show (List.foldl holdMeetsDisposing _ _).ctc.node = _
  rw [hf]
  exact congrArg Watched.node (watched_trigger _)

theorem leads_takeEarlyLifts (ws : List SlotWrite) (s : State) : Leads c s₀ s (takeEarlyLifts ws s) := by
  refine .foldl (fun u w => ?_) ws s
  split
  · exact leads_removeHold ..
  · exact .refl u

theorem takeEarlyLifts_node (ws : List SlotWrite) (s : State) : (takeEarlyLifts ws s).ctc.node = s.ctc.node := by
  induction ws generalizing s with
  | nil => rfl
  | cons w ws ih =>
    refine (ih _).trans ?_
    dsimp only
    split
    · exact removeHold_node ..
    · rfl

theorem leads_preparedStore (cfg : Settings) (s : State) : Leads c s₀ s (preparedStore cfg s) := by
  unfold preparedStore
  exact (leads_takeEarlyLifts s.hdu.writes s).trans (.change .prepare)

theorem leads_startWritten {st : Starting} {s : State} (h : s.rli.starting = some st) : Leads c s s (startWritten st s) := by
  unfold startWritten
  have h0 : Leads c s s { s with rli := { s.rli with starting := none } } := .change (.starting none (.inl rfl))
  have hs : s.rli.starting ≠ none := by simp [h]
  dsimp only
  split
  · refine h0.trans ((leads_preparedStore st.settings _).trans (leads_acceptStart _ _ _ (.inr ⟨?_, .inl hs⟩)))
    exact takeEarlyLifts_node _ _
  · exact h0.trans ((Leads.quiet rfl).trans (leads_acceptStart _ _ { s with
      rli := { s.rli with starting := none }, store := { s.store with settings := st.settings } } (.inr ⟨rfl, .inl hs⟩)))

theorem leads_takeStart (r : Req) (choice : Byte) (record : BitVec 416) (s : State) (h : s.ctc.node = .awaitingStart) :
    Leads c s₀ s (takeStart r choice record s) := by
  have hn : s.ctc.node ≠ .storeFault := by rw [h]; decide
  unfold takeStart
  split
  · exact leads_acceptStart _ _ s (.inl hn)
  · exact .change (.starting _ (.inr hn))

theorem leads_wakeComplete (s : State) : Leads c s₀ s (wakeComplete s) := by
  unfold wakeComplete
  split
  · rename_i h
    have hn : Leads c s₀ s { s with ctc := { s.ctc with node := .running }, scs := { s.scs with wake := none } } :=
      .change (.node .running (by decide) (.inl (by rw [show (watched s).node = .waking from h.1]; decide)))
    exact hn.trans (.quiet (watched_foldl (f := fun s r => answerReq r .done .none s) (fun _ _ => rfl) _ _))
  · exact .refl s

theorem leads_takeWake (r : Req) (s : State) (h : s.ctc.node ≠ .storeFault) : Leads c s₀ s (takeWake r s) := by
  unfold takeWake
  have hn : Leads c s₀ s { s with
      ctc := { s.ctc with node := .waking }
      scs := { s.scs with mediaSleep := false, owed := decide (0 < s.scs.scrubbable), wake := some r } } :=
    .change (.node (w := watched s) .waking (by decide) (.inl h))
  exact hn.trans (leads_wakeComplete _)

/-- An aborted scrub, with no DORMANT waiting, ends with no result. -/
theorem endInFlight_aborted (tag : Byte) (i : Nat) (es : List Extent) (key : FullKey) (s : State)
    (h : s.scs.waitingDormant = none) : endInFlight ⟨tag, .scrub i es key⟩ .aborted s =
      { s with mar := { s.mar with inFlight := none, timer := none } } := by
  simp [endInFlight, handEnding, endScrub, endingResult, recheckDormant, h]

theorem leads_takeDormant (r : Req) (s : State) (hn : s.ctc.node ≠ .storeFault) (hw : s.scs.waitingDormant = none) :
    Leads c s₀ s (takeDormant r s) := by
  unfold takeDormant
  split
  · split
    · rw [endInFlight_aborted _ _ _ _ _ hw]
      exact (Leads.change .ended).trans (leads_enterDormant r (pulseAbort { s with
        mar := { s.mar with inFlight := none, timer := none } }) (.inl hn))
    · exact .change (.waitingDormant _ (.inr hn))
  · exact leads_enterDormant r s (.inl hn)

/-! ### The catalogue requests -/

theorem leads_acceptEntry (r : Req) (e : Entry) (s : State) (he : e.state = .lodging) (h₀ : s₀.ctc.freeList = s.ctc.freeList) :
    Leads c s₀ s (acceptEntry r e s) := by
  unfold acceptEntry
  split
  · exact .refl s
  · rename_i i rest hl
    dsimp only
    refine Leads.trans ?_ (.quiet (watched_passAccepted _ _))
    refine Leads.trans ?_ (leads_removeCandidate _ _)
    refine Leads.trans ?_ (leads_removeClaim _ _)
    refine Leads.trans ?_ (leads_queueWrite _ _)
    exact .change (.accept i rest e hl (by rw [h₀, hl]; simp) he)

theorem leads_acceptAdopt (r : Req) (key : FullKey) (cust : Custodian) (cls time : Nat) (es : List Extent) (s : State)
    (h₀ : s₀.ctc.freeList = s.ctc.freeList) : Leads c s₀ s (acceptAdopt r key cust cls time es s) := by
  unfold acceptAdopt
  split <;> exact leads_acceptEntry _ _ s rfl h₀

theorem leads_acceptRefill (r : Req) (i : Nat) (es : List Extent) (s : State) : Leads c s₀ s (acceptRefill r i es s) := by
  unfold acceptRefill
  refine (Leads.quiet (watched_placeRuns i .refill es s)).trans (leads_changeEntry ?_ _ _)
  exact workKept_plain (s := s) rfl rfl (sameIdentity_refl _) rfl

theorem leads_recheckDispose (r : Req) (i : Nat) (s : State) (h : (entryAt s i).state = .releasable) :
    Leads c s₀ s (recheckDispose r i s) := by
  have ho : (entryAt s i).state ≠ .free := by rw [h]; decide
  unfold recheckDispose
  dsimp only
  split
  · refine leads_commit_any ?_ _
    exact workKept_taken ho (sameIdentity_refl _) le_rfl (by simp)
  · refine (Leads.quiet (t := takeOrder (clearErases i s)) rfl).trans (leads_commit_any ?_ _)
    exact workKept_taken (s := s) ho (sameIdentity_refl _) le_rfl (by simp)

theorem leads_lookupKey (r : Req) (key : ShortKey) (s : State) : Leads c s₀ s (lookupKey r key s) := by
  unfold lookupKey
  split
  · exact .quiet (watched_lookupAt ..)
  · split
    · exact .quiet rfl
    · split
      · split
        · exact .quiet (watched_lookupAt ..)
        · exact .quiet rfl
      · exact .quiet rfl

theorem leads_lookupIndex (r : Req) (i : Nat) (s : State) : Leads c s₀ s (lookupIndex r i s) := by
  unfold lookupIndex
  split
  · exact .quiet rfl
  · split
    · exact .quiet rfl
    · exact .quiet (watched_lookupAt ..)

/-! ### The hold requests and frames -/

theorem leads_takePlace (r : Req) (m : Matter) (n : Nat) (pattern : BitVec 32) (s : State) :
    Leads c s₀ s (takePlace r m n pattern s) := by
  unfold takePlace
  split
  · unfold duplicateHold
    dsimp only
    split <;> exact .quiet rfl
  · split
    · exact (leads_enterHold ..).trans (leads_mediaTail _)
    · exact .quiet rfl

theorem leads_takeLift (i : Nat) (m : Matter) (purpose : SlotPurpose) (s : State) : Leads c s₀ s (takeLift i m purpose s) :=
  (Leads.quiet (watched_updateSlot ..)).trans (.quiet (watched_writeSlot _ _))

theorem leads_takeHold (sender : NodeId) (m : Matter) (n : Nat) (pattern : BitVec 32) (placed : Nat) (s : State) :
    Leads c s₀ s (takeHold sender m n pattern placed s) := by
  unfold takeHold
  split
  · exact .refl s
  · split
    · exact .quiet rfl
    · split
      · exact .refl s
      · split
        · exact (leads_enterHold ..).trans (leads_postNotice _ _)
        · exact .quiet rfl

theorem leads_takeLiftFrame (m : Matter) (time : Nat) (s : State) : Leads c s₀ s (takeLiftFrame m time s) := by
  unfold takeLiftFrame
  split
  · split
    · split
      · exact .refl s
      · split
        · exact leads_removeHold ..
        · exact leads_takeLift ..
    · exact .refl s
  · exact .refl s

/-! ### The gate -/

/-- Two runs of blocks that share none lie one before the other (R144). -/
theorem sharesBlock_eq_false (a b : Extent) :
    sharesBlock a b = false ↔ b.first + b.count ≤ a.first ∨ a.first + a.count ≤ b.first := by
  simp only [sharesBlock, Bool.and_eq_false_iff, decide_eq_false_iff_not, Nat.not_lt]
  rfl

theorem mayGate_of_checks {op : HostOp} {first count : Nat} (r : Req) (handle : BitVec 64) (seq : Nat)
    (h : firstFailing (gateChecks op first count s) = none) : MayGate s ⟨r, op, first, count, handle, seq⟩ := by
  rw [firstFailing_eq_none] at h
  simp only [gateChecks, afterLoading, List.cons_append, List.nil_append, List.mem_cons, List.not_mem_nil, or_false,
    forall_eq_or_imp, forall_eq, decide_eq_false_iff_not, Bool.and_eq_false_iff, not_not, not_or, Nat.not_lt,
    Bool.or_eq_false_iff] at h
  obtain ⟨-, -, -, hc, hm, hg, hp⟩ := h
  refine ⟨Nat.one_le_iff_ne_zero.2 hc.1, hc.2, hm, fun hop => ⟨hg.resolve_left (absurd · hop), ?_, ?_⟩⟩
  all_goals
    obtain ⟨h1, h2⟩ := hp.resolve_left (absurd · hop)
  · intro q hq
    have := List.any_eq_false.1 h1 q hq
    exact (sharesBlock_eq_false _ _).1 (by simpa using this)
  · intro p hp' hl ho x hx
    have := List.any_eq_false.1 h2 p hp'
    simp only [hl, Entry.occupied, ne_eq, ho, not_false_eq_true, decide_true, Bool.true_and, List.any_eq_true, not_exists, not_and] at this
    exact (sharesBlock_eq_false _ _).1 (by simpa using this x hx)

theorem leads_gateRequest (op : HostOp) (first : BitVec 40) (count : BitVec 32) (handle : BitVec 64) (r : Req) (s : State) :
    Leads c s (enterQueue r s) (gateRequest op first count handle r (enterQueue r s)) :=
  leads_checked _ _ _ _ fun h => Leads.trans
    (.change (.gate _ (mayGate_of_checks (s := s) r handle s.mar.hostSeq h)))
    (leads_mediaTail (gate op first.toNat count.toNat handle r (enterQueue r s)))

/-! ### The line -/

theorem leads_leaveSilent (s : State) : Leads c s₀ s (leaveSilent s) := by
  unfold leaveSilent
  have h1 : Leads c s₀ s (becomeVoiced s) := .change .voice
  dsimp only
  split
  · exact h1
  · refine Leads.trans ?_ (.quiet (watched_restartBeacon _))
    exact h1.trans ((leads_grantAll _).trans ((Leads.quiet (watched_readDone _)).trans (leads_offerBeacon _)))

theorem leads_leaveAt64 (s : State) : Leads c s₀ s (leaveAt64 s) := by
  unfold leaveAt64
  split
  · exact leads_leaveSilent s
  · exact .refl s

theorem leads_readGap (s : State) : Leads c s₀ s (readGap s) := by
  unfold readGap
  split
  · exact (Leads.quiet (watched_countGap s)).trans (leads_leaveAt64 _)
  · exact .refl s

theorem leads_storeFrame (sender : NodeId) (f : PeerFrame) (s : State) : Leads c s₀ s (storeFrame sender f s) := by
  unfold storeFrame
  split
  · exact .quiet rfl
  · rename_i h
    have h1 : Leads c s₀ s { s with pbc := { s.pbc with rxFifo := s.pbc.rxFifo ++ [⟨sender, f⟩] } } :=
      .change (.rxFifo _ (.inl (by simpa using Nat.lt_of_not_le h)))
    dsimp only
    split
    · exact h1.trans (.quiet rfl)
    · exact h1

theorem leads_takeFrame (kind : BitVec 3) (sender : NodeId) (payload : List Byte) (s : State) :
    Leads c s₀ s (takeFrame kind sender payload s) := by
  unfold takeFrame
  split
  · unfold takeOwnId
    split
    · exact .refl s
    · exact leads_emptyQueue (.change .dupId)
  · split
    · exact .quiet rfl
    · split
      · exact leads_storeFrame ..
      · exact .refl s

theorem leads_completeFrame (tail : Nat) (s : State) : Leads c s₀ s (completeFrame tail s) := by
  unfold completeFrame
  dsimp only
  generalize hu : countFrame _ _ = u
  have hw : watched u = watched s := by
    rw [← hu]
    unfold countFrame
    split <;> rfl
  exact (Leads.quiet hw).trans (leads_setCounts _ _ u (by omega))

theorem leads_popFifo (s : State) : Leads c s₀ s (popFifo s) :=
  .change (.rxFifo _ (.inr (by simp [watched, popFifo])))

theorem length_removeFirst {α : Type} (p : α → Bool) (l : List α) : (removeFirst p l).length ≤ l.length := by
  induction l with
  | nil => exact le_rfl
  | cons x xs ih => unfold removeFirst; split <;> simp [ih]

theorem leads_frameCountedSent (s : State) : Leads c s₀ s (frameCountedSent s) := by
  unfold frameCountedSent
  dsimp only
  have h1 := leads_setCounts (c := c) (s₀ := s₀) (s.pbc.sendCount - 1) s.pbc.recvCount s (by omega)
  generalize setCounts (s.pbc.sendCount - 1) s.pbc.recvCount s = u at h1
  have h2 : Leads c s₀ s (afterAttempt { u with pbc := { u.pbc with
      attempt := none, heldBeacon := false, errorSeq := none
      sendQueue := removeFirst SendItem.inAttempt u.pbc.sendQueue } }) :=
    h1.trans (.change (.queue _ none false (length_removeFirst _ _) (by simp) (by simp)))
  have h3 := h2.trans ((leads_grantOne _).trans (.quiet (watched_readDone _)))
  split
  · exact h3.trans (leads_offerBeacon _)
  · exact h3

theorem leads_countSendError (e : SendFault) (s : State) : Leads c s₀ s (countSendError e s) := by
  unfold countSendError
  split
  · exact .refl s
  · exact leads_raiseSend s

theorem watched_countErrored (e : RecvFault) (s : State) : watched (countErrored e s) = watched s := by
  unfold countErrored
  split <;> rfl

theorem leads_addHolder (i : Nat) (id : NodeId) (effects : List Effect) (s : State)
    (h : catWf s.ctc.work = true → (entryAt s i).state ≠ .free) : Leads c s₀ s (addHolder i id effects s) := by
  unfold addHolder
  dsimp only
  split
  · exact leads_runEffects ..
  · refine leads_commit_any (fun wf => ?_) _
    exact workKept_same (s := s) (h wf) rfl (sameIdentity_refl _) rfl wf

theorem leads_removeHolder (i : Nat) (id : NodeId) (effects : List Effect) (s : State)
    (h : catWf s.ctc.work = true → (entryAt s i).state ≠ .free) : Leads c s₀ s (removeHolder i id effects s) := by
  unfold removeHolder
  dsimp only
  split
  · refine leads_commit_any (fun wf => ?_) _
    exact workKept_same (s := s) (h wf) rfl (sameIdentity_refl _) rfl wf
  · exact leads_runEffects ..

theorem leads_takeHave (sender : NodeId) (key : ShortKey) (s : State) : Leads c s₀ s (takeHave sender key s) := by
  unfold takeHave
  dsimp only
  refine Leads.trans ?_ (leads_haveAtLists _ _ _)
  split
  · rename_i hf
    exact (leads_addHolder _ _ _ _ fun wf => occupied_of_findKey wf hf).trans (leads_testAppeal _ _)
  · exact .refl s

theorem leads_takeDrop (sender : NodeId) (key : ShortKey) (reason : DropReason) (s : State) :
    Leads c s₀ s (takeDrop sender key reason s) := by
  unfold takeDrop
  dsimp only
  refine Leads.trans ?_ (leads_dropAtLists _ _ _ _)
  split
  · rename_i hf
    exact leads_removeHolder _ _ _ _ fun wf => occupied_of_findKey wf hf
  · exact .refl s

theorem leads_takeWant (sender : NodeId) (w : Want) (s : State) : Leads c s₀ s (takeWant sender w s) := by
  unfold takeWant
  split
  · rename_i hf
    exact (leads_addHolder _ _ _ _ fun wf => occupied_of_findKey wf hf).trans (leads_appealHeard _ _)
  · exact leads_recruitCall w s

theorem leads_passDispatch (s : State) : Leads c s₀ s (passDispatch s) := by
  unfold passDispatch
  split
  · exact (leads_enterStoreFault s).trans ((leads_popFifo _).trans (leads_haveAtLists ..))
  · exact (leads_enterStoreFault s).trans ((leads_popFifo _).trans (leads_dropAtLists ..))
  · exact (leads_enterStoreFault s).trans (leads_popFifo _)
  · exact .refl s

theorem leads_stopLoadWalk (s : State) : Leads c s₀ s (stopLoadWalk s) := by
  have h := leads_enterStoreFault (c := c) (s₀ := s₀) s
  unfold stopLoadWalk
  generalize enterStoreFault s = u at h
  exact h.trans (.quiet rfl)

theorem leads_failRecord (i : Nat) (s : State) : Leads c s₀ s (failRecord i s) := by
  have h := leads_enterStoreFault (c := c) (s₀ := s₀) s
  unfold failRecord
  generalize enterStoreFault s = u at h
  exact h.trans (.quiet rfl)

theorem readFails_reset {r : StoreRead} (h : isResetRead r = true) (s : State) : readFails r s =
    if s.ctc.inForce.isNone then resetReadFails r (enterStoreFault s) else s := if_pos h

theorem readFails_loadVisit (s : State) : readFails .loadVisit s = match s.rwk.walk with
    | some ⟨.load, i, none⟩ => if i < catalogueSize then stopLoadWalk s else s
    | _ => s := by
  unfold readFails
  rw [if_neg (by decide)]
  rcases s.rwk.walk with _ | ⟨_ | _, i, _ | _⟩ <;> rfl

theorem readFails_refreshVisit (s : State) : readFails .refreshVisit s = match s.rwk.walk with
    | some ⟨.refresh _, low, none⟩ =>
      match nextOccupied s low with
      | some i => moveOn i (enterStoreFault s)
      | none => s
    | _ => s := by
  unfold readFails
  rw [if_neg (by decide)]
  rcases s.rwk.walk with _ | ⟨_ | _, i, _ | _⟩ <;> rfl

theorem leads_readFails (r : StoreRead) (s : State) : Leads (.storeReadFailed r) s₀ s (readFails r s) := by
  by_cases hr : isResetRead r = true
  · rw [readFails_reset hr]
    split
    · exact (leads_enterStoreFault s).trans (leads_resetReadFails r _ (enterStoreFault_node s) rfl)
    · exact .refl s
  · cases r with
    | loadVisit =>
      rw [readFails_loadVisit]
      split
      · split
        · exact leads_stopLoadWalk s
        · exact .refl s
      · exact .refl s
    | refreshVisit =>
      rw [readFails_refreshVisit]
      split
      · split
        · exact (leads_enterStoreFault s).trans (.quiet (watched_moveOn _ _))
        · exact .refl s
      · exact .refl s
    | dispatch => exact leads_passDispatch s
    | entry i => exact leads_failRecord _ s
    | _ => exact absurd rfl hr

/-! ### The round boundary -/

theorem leads_roundSlot (s : State) (i : Nat) : Leads c s₀ s (roundSlot s i) := by
  unfold roundSlot
  split
  · split
    · exact .refl s
    · split
      · exact (leads_enqueueFrame _ ‹_›).trans (.quiet (watched_updateSlot ..))
      · exact .quiet rfl
  · exact .refl s

theorem watched_countRound (s : State) : watched (countRound s) = watched s := by
  unfold countRound
  split
  · split
    · split
      · exact watched_trigger _
      · rfl
    · rfl
  · rfl

theorem leads_roundBoundary (s : State) : Leads c s₀ s (roundBoundary s) := by
  unfold roundBoundary
  have h1 (u : State) : Leads c s₀ u (ageRound u) := by
    refine .change (.lifted _ (.inr ?_))
    simp only [ageRound, List.length_map]
    exact List.length_filter_le ..
  exact ((Leads.foldl leads_roundSlot _ s).trans (h1 _)).trans (.quiet (watched_countRound _))

theorem leads_tickBalance (s : State) : Leads c s₀ s (tickBalance s) := by
  unfold tickBalance
  split
  · exact .refl s
  · split
    · exact .change (.balance _ (by simp only [watched]; omega))
    · exact .quiet rfl

end Sys2Proof.Machine
end

section
/-! PROOFS. The dispatch: every command but the resets and the loss of core power leads on by single changes; and a step
is such a command, an idle millisecond, a reset or a loss of core power. -/

namespace Sys2Proof.Machine

variable {c : Instr} {s t : State}

/-! ### The requests -/

theorem leads_execStart {tag choice : Byte} {record : BitVec 416} (h : execStart tag choice record s = .next t) :
    Leads c s s t := by
  refine leads_request h fun _ => leads_checked _ _ _ _ fun hf => leads_takeStart _ _ _ _ ?_
  rw [firstFailing_eq_none] at hf
  simpa using hf _ (List.mem_cons_of_mem _ (List.mem_cons_self ..))

theorem leads_execSetTime {tag : Byte} {time : BitVec 40} (h : execSetTime tag time s = .next t) : Leads c s s t := by
  refine leads_request h fun hp => leads_checked _ _ _ _ fun hf => ?_
  obtain ⟨hn, hf⟩ := running_of_runningOnly hf
  have hv : s.rck.rtValid = false := hf _ (List.mem_cons_self ..)
  have hlow := hf _ (List.mem_cons_of_mem _ (List.mem_cons_self ..))
  simp only [decide_eq_false_iff_not, not_or, Nat.not_lt] at hlow
  have hnode : s.ctc.node ≠ .storeFault := by rw [show s.ctc.node = .running from hn]; decide
  have ht : Leads c s (enterQueue ⟨tag, 2⟩ s) { enterQueue ⟨tag, 2⟩ s with
      rck := { s.rck with rt := time.toNat, rtValid := true } } :=
    .change (.setTime time.toNat hv hlow.1 (Nat.le_of_lt_succ time.isLt) hnode hp)
  exact (ht.trans (leads_recomputeBdt _)).trans (.quiet (watched_answerReq ..))

theorem leads_execDispose {tag : Byte} {index : BitVec 24} (h : execDispose tag index s = .next t) :
    Leads c s s t := by
  refine leads_request h fun _ => leads_checked _ _ _ _ fun hf => (leads_recheckDispose _ _ _ ?_).trans (leads_mediaTail _)
  obtain ⟨-, hf⟩ := running_of_runningOnly hf
  simpa using hf _ (List.mem_cons_of_mem _ (List.mem_cons_self ..))

theorem leads_execLookup {tag selector : Byte} {operand : BitVec 64} (h : execLookup tag selector operand s = .next t) :
    Leads c s s t := by
  refine leads_request h fun _ => leads_checked _ _ _ _ fun _ => ?_
  split
  · exact leads_lookupIndex ..
  · exact leads_lookupKey ..

theorem leads_acceptLodge (r : Req) (key : FullKey) (cust : Custodian) (cls : Nat) (es : List Extent) (s₀ s : State)
    (h₀ : s₀.ctc.freeList = s.ctc.freeList) : Leads c s₀ s (acceptLodge r key cust cls es s) := by
  unfold acceptLodge
  exact leads_acceptEntry _ _ s rfl h₀

theorem leads_execDormant {tag : Byte} (h : execDormant tag s = .next t) : Leads c s s t := by
  refine leads_request h fun _ => leads_checked _ _ _ _ fun hf => ?_
  obtain ⟨hn, hf⟩ := running_of_runningOnly hf
  have hb : dormantBusy s = false := hf _ (List.mem_cons_self ..)
  simp only [dormantBusy, Bool.or_eq_false_iff] at hb
  have hw : s.scs.waitingDormant = none := by simpa using hb.2
  have hd := leads_takeDormant (c := c) (s₀ := s) ⟨tag, 0x0F⟩ (enterQueue ⟨tag, 0x0F⟩ s) (by rw [hn]; decide) hw
  exact hd.trans (leads_mediaTail _)

theorem leads_execWake {tag : Byte} (h : execWake tag s = .next t) : Leads c s s t := by
  refine leads_request h fun _ => leads_checked _ _ _ _ fun hf => (leads_takeWake _ _ ?_).trans (leads_mediaTail _)
  rw [firstFailing_eq_none] at hf
  simpa using hf (decide _, .storeFault, .none) (by simp [wakeChecks])

theorem leads_execClearEvents {tag : Byte} {mask : BitVec 24} (h : execClearEvents tag mask s = .next t) :
    Leads c s s t := by
  refine leads_request h fun _ => .quiet ?_
  have hc (u : State) : watched (clearFlags mask u) = watched u := by
    unfold clearFlags
    dsimp only
    split <;> rfl
  exact hc _

/-- A request leads on by single changes, however it comes. -/
theorem leads_runRequest (i : Instr) (h : runRequest i s = .next t) : Leads c s s t := by
  cases i with
  | start => exact leads_execStart h
  | setTime => exact leads_execSetTime h
  | setSpace tag blocks =>
    replace h : execSetSpace tag blocks s = .next t := h
    exact leads_request h fun _ => leads_checked _ _ _ _ fun _ => .quiet rfl
  | lodge tag key n code cls k slots =>
    replace h : execLodge tag key n code cls k slots s = .next t := h
    unfold execLodge at h
    generalize usedSlots slots k.toNat = es at h
    exact leads_request h fun _ => leads_checked _ _ _ _ fun _ => leads_acceptLodge _ _ _ _ _ _ _ rfl
  | adopt tag key n code cls time k slots =>
    replace h : execAdopt tag key n code cls time k slots s = .next t := h
    unfold execAdopt at h
    generalize usedSlots slots k.toNat = es at h
    exact leads_request h fun _ => leads_checked _ _ _ _ fun _ => leads_acceptAdopt _ _ _ _ _ _ _ rfl
  | refill tag index k slots =>
    replace h : execRefill tag index k slots s = .next t := h
    unfold execRefill at h
    generalize usedSlots slots k.toNat = es at h
    exact leads_request h fun _ => leads_checked _ _ _ _ fun _ => leads_acceptRefill _ _ _ _
  | dispose => exact leads_execDispose h
  | placeHold tag m n pattern =>
    replace h : execPlaceHold tag m n pattern s = .next t := h
    exact leads_request h fun _ => leads_checked _ _ _ _ fun _ => leads_takePlace _ _ _ _ _
  | liftHold tag m =>
    replace h : execLiftHold tag m s = .next t := h
    exact leads_request h fun _ => leads_checked _ _ _ _ fun _ => leads_takeLift _ _ _ _
  | lookup => exact leads_execLookup h
  | listReleasable tag start n =>
    replace h : execListReleasable tag start n s = .next t := h
    exact leads_request h fun _ => leads_checked _ _ _ _ fun _ => .quiet rfl
  | mediaRead tag first count handle =>
    replace h : execMediaRead tag first count handle s = .next t := h
    exact leads_request h fun _ => leads_gateRequest ..
  | mediaWrite tag first count handle =>
    replace h : execMediaWrite tag first count handle s = .next t := h
    exact leads_request h fun _ => leads_gateRequest ..
  | mediaTrim tag first count handle =>
    replace h : execMediaTrim tag first count handle s = .next t := h
    exact leads_request h fun _ => leads_gateRequest ..
  | dormant => exact leads_execDormant h
  | wake => exact leads_execWake h
  | readStatus tag =>
    replace h : execReadStatus tag s = .next t := h
    exact leads_request h fun _ => .quiet rfl
  | clearEvents => exact leads_execClearEvents h
  | setEventEnables tag mask =>
    replace h : execSetEventEnables tag mask s = .next t := h
    exact leads_request h fun _ => .quiet rfl
  | _ =>
    obtain rfl := Host.Outcome.next.inj h
    exact .refl s

theorem leads_serve {f : State → State} (h : serve f s = .next t) (hf : watched (f s) = watched s) : Leads c s s t :=
  leads_powered h fun _ => by
    split
    · exact .quiet hf
    · exact .refl s

/-- A service command changes SLI alone. -/
theorem leads_runService (i : Instr) (h : runService i s = .next t) : Leads c s s t := by
  have hw (key : Option ShortKey) (u : State) : Leads c s u (takeWatch key u) := .change (.watchLog [] (.inl (by simp)))
  cases i with
  | inspectStatus => exact leads_serve h rfl
  | inspectEntry index =>
    replace h : execInspectEntry index s = .next t := h
    refine leads_serve h ?_
    split
    · rfl
    · split <;> rfl
  | inspectKey key =>
    replace h : execInspectKey key s = .next t := h
    refine leads_serve h ?_
    split <;> rfl
  | inspectHold slot =>
    replace h : execInspectHold slot s = .next t := h
    refine leads_serve h ?_
    split <;> rfl
  | inspectPeer id =>
    replace h : execInspectPeer id s = .next t := h
    refine leads_serve h ?_
    split <;> rfl
  | inspectClock => exact leads_serve h rfl
  | setWatch key =>
    refine leads_powered h fun _ => ?_
    split
    · exact (hw (some key) s).trans (.quiet rfl)
    · exact .refl s
  | clearWatch =>
    refine leads_powered h fun _ => ?_
    split
    · exact (hw none s).trans (.quiet rfl)
    · exact .refl s
  | _ =>
    obtain rfl := Host.Outcome.next.inj h
    exact .refl s

/-- A request runs as the dispatch of raw frames runs it. -/
theorem exec_eq_runRequest {i : Instr} (h : (requestOfCommand i).isSome = true) (s : State) : exec i s = runRequest i s := by
  cases i <;> first | rfl | exact absurd h Bool.false_ne_true

/-- A service command runs as the dispatch of raw frames runs it. -/
theorem exec_eq_runService {i : Instr} (h : isServiceCommand i = true) (s : State) : exec i s = runService i s := by
  cases i <;> first | rfl | exact absurd h Bool.false_ne_true

/-! ### The dispatch -/

/-- A reset or a loss of core power. -/
def resets : Instr → Bool
  | .coldStart .. | .warmReset _ | .corePowerLoss _ => true
  | _ => false

theorem leads_frameDone (f : TxFrame) (s : State) : Leads c s s (frameDone f s) := by
  unfold frameDone
  split
  · refine .change (.requests _ (.inr ?_))
    show (if _ then _ else _ : List Req).length ≤ s.rli.requests.length
    split
    · exact List.length_erase_le
    · exact le_rfl
  · exact .change (.notices _ (.inr (by simp [watched])))

theorem leads_execGuardAsserted (h : execGuardAsserted s = .next t) : Leads .guardAsserted s s t := by
  unfold execGuardAsserted at h
  have hp : Leads .guardAsserted s s { s with pins := { s.pins with guardAsserted := true } } :=
    .change (.guard true fun _ => ⟨rfl, rfl⟩)
  obtain rfl := Host.Outcome.next.inj h
  split
  · split
    · exact hp
    · exact hp.trans (.quiet rfl)
  · exact hp

theorem leads_execGuardReleased (h : execGuardReleased s = .next t) : Leads .guardReleased s s t := by
  unfold execGuardReleased at h
  have hp : Leads .guardReleased s s { s with pins := { s.pins with guardAsserted := false } } :=
    .change (.guard false (by simp))
  obtain rfl := Host.Outcome.next.inj h
  split
  · exact hp.trans (leads_mediaTail _)
  · exact hp

theorem leads_execMediaReadyRise {size} (h : execMediaReadyRise size s = .next t) :
    Leads (.mediaReadyRise size) s s t := by
  unfold execMediaReadyRise at h
  have hp : Leads (.mediaReadyRise size) s s { s with
    pins := { s.pins with mediaReady := true, presentedSize := size.toNat } } := .quiet rfl
  obtain rfl := Host.Outcome.next.inj h
  split
  · exact hp.trans ((Leads.quiet (watched_takeMediaSize _)).trans ((leads_maybeRunning _).trans
      ((leads_wakeComplete _).trans ((leads_mediaTail _).trans (leads_linkEnd _)))))
  · exact hp

theorem leads_execMediaReadyFall (h : execMediaReadyFall s = .next t) : Leads .mediaReadyFall s s t := by
  obtain rfl := Host.Outcome.next.inj h
  split <;> exact .quiet rfl

theorem leads_execSvcEnRise (h : execSvcEnRise s = .next t) : Leads .svcEnRise s s t := by
  obtain rfl := Host.Outcome.next.inj h
  split <;> exact .quiet rfl

theorem leads_execSvcEnFall (h : execSvcEnFall s = .next t) : Leads .svcEnFall s s t := by
  obtain rfl := Host.Outcome.next.inj h
  split <;> exact .quiet rfl

theorem leads_execStartAccepted (h : execStartAccepted s = .next t) : Leads .startAccepted s s t := by
  refine leads_powered h fun _ => ?_
  split
  · exact (leads_startWritten ‹_›).trans (leads_linkEnd _)
  · exact .refl s

theorem leads_execTransmitFrameDone (h : execTransmitFrameDone s = .next t) : Leads .transmitFrameDone s s t := by
  refine leads_powered h fun _ => ?_
  split
  · exact (leads_frameDone _ s).trans (leads_linkEnd _)
  · exact .refl s

theorem leads_execServiceAnswerSent (h : execServiceAnswerSent s = .next t) : Leads .serviceAnswerSent s s t := by
  exact leads_powered h fun _ => .quiet rfl

theorem leads_execFrameReceived {kind sender payload} (h : execFrameReceived kind sender payload s = .next t) :
    Leads (.frameReceived kind sender payload) s s t := by
  refine leads_powered h fun _ => ?_
  split
  · exact (leads_readGap s).trans ((leads_completeFrame _ _).trans (leads_takeFrame ..))
  · exact .refl s

theorem leads_execBeaconDispatch (h : execBeaconDispatch s = .next t) : Leads .beaconDispatch s s t := by
  refine leads_powered h fun _ => ?_
  split
  · exact (leads_popFifo s).trans (leads_takeBeacon ..)
  · exact .refl s

theorem leads_execHoldDispatch (h : execHoldDispatch s = .next t) : Leads .holdDispatch s s t := by
  refine leads_powered h fun _ => ?_
  split
  · exact (leads_popFifo s).trans ((leads_takeHold ..).trans ((leads_mediaTail _).trans (leads_linkEnd _)))
  · exact .refl s

theorem leads_execLiftDispatch (h : execLiftDispatch s = .next t) : Leads .liftDispatch s s t := by
  refine leads_powered h fun _ => ?_
  split
  · exact (leads_popFifo s).trans ((leads_takeLiftFrame ..).trans (leads_mediaTail _))
  · exact .refl s

theorem leads_execHaveDispatch (h : execHaveDispatch s = .next t) : Leads .haveDispatch s s t := by
  refine leads_powered h fun _ => ?_
  split
  · exact (leads_popFifo s).trans (leads_takeHave ..)
  · exact .refl s

theorem leads_execDropDispatch (h : execDropDispatch s = .next t) : Leads .dropDispatch s s t := by
  refine leads_powered h fun _ => ?_
  split
  · exact (leads_popFifo s).trans (leads_takeDrop ..)
  · exact .refl s

theorem leads_execWantDispatch (h : execWantDispatch s = .next t) : Leads .wantDispatch s s t := by
  refine leads_powered h fun _ => ?_
  split
  · exact (leads_popFifo s).trans ((leads_takeWant ..).trans (leads_linkEnd _))
  · exact .refl s

theorem leads_execClaimDispatch (h : execClaimDispatch s = .next t) : Leads .claimDispatch s s t := by
  refine leads_powered h fun _ => ?_
  split
  · exact (leads_popFifo s).trans (leads_updateCandidate ..)
  · exact .refl s

theorem leads_execAttemptStart (h : execAttemptStart s = .next t) : Leads .attemptStart s s t := by
  refine leads_powered h fun _ => ?_
  split
  · split
    · rename_i q qs hq
      exact .change (.queue _ _ _ (by rw [show (watched s).sendQueue = _ from hq]; exact le_rfl)
        (fun _ => .inr (by rw [show (watched s).sendQueue = _ from hq]; simp)) (fun hb => .inl hb))
    · exact .refl s
  · exact .refl s

theorem leads_execArbitrationLost {winner} (h : execArbitrationLost winner s = .next t) :
    Leads (.arbitrationLost winner) s s t := by
  refine leads_powered h fun _ => ?_
  split
  · split
    · exact leads_endAttempt s
    · exact .refl s
  · exact .refl s

theorem leads_execFrameSent (h : execFrameSent s = .next t) : Leads .frameSent s s t := by
  refine leads_powered h fun _ => ?_
  split
  · exact leads_frameCountedSent s
  · exact .refl s

theorem leads_execSendError {e} (h : execSendError e s = .next t) : Leads (.sendError e) s s t := by
  refine leads_powered h fun _ => ?_
  split
  · exact (leads_endAttempt s).trans ((leads_countSendError e _).trans (.quiet rfl))
  · exact .refl s

theorem leads_execReceiveError {e} (h : execReceiveError e s = .next t) : Leads (.receiveError e) s s t := by
  refine leads_powered h fun _ => ?_
  split
  · refine (leads_readGap s).trans (Leads.trans (.quiet ?_) ((leads_raiseRecv _).trans
      ((Leads.quiet (watched_countErrored e _)).trans (.quiet (watched_beginErrorSeq ..)))))
    rfl
  · exact .refl s

theorem leads_execDominantRunError (h : execDominantRunError s = .next t) : Leads .dominantRunError s s t := by
  refine leads_powered h fun _ => ?_
  split
  · rename_i q _
    split
    · exact .refl s
    · have hq : Leads .dominantRunError s s
          { s with pbc := { s.pbc with errorSeq := some { q with dominantRun := true } } } := .quiet rfl
      dsimp only
      split
      · split
        · exact .quiet rfl
        · exact hq.trans (Leads.trans (.quiet (by unfold countToDominant; rfl)) (leads_leaveAt64 _))
      · split
        · exact hq.trans (leads_raiseSend _)
        · exact hq.trans (leads_raiseRecv _)
  · exact .refl s

theorem leads_execLeaveSilent (h : execLeaveSilent s = .next t) : Leads .leaveSilent s s t := by
  exact leads_powered h fun _ => leads_readGap s

theorem leads_execBitRateChange (h : execBitRateChange s = .next t) : Leads .bitRateChange s s t := by
  refine leads_powered h fun _ => ?_
  split
  · split <;> exact .quiet rfl
  · exact .refl s

theorem leads_execElevenRecessiveBitsRead (h : execElevenRecessiveBitsRead s = .next t) :
    Leads .elevenRecessiveBitsRead s s t := by
  exact leads_powered h fun _ => .quiet rfl

theorem leads_execRtAdvance (h : execRtAdvance s = .next t) : Leads .rtAdvance s s t := by
  unfold execRtAdvance at h
  dsimp only at h
  split at h <;> obtain rfl := Host.Outcome.next.inj h
  · refine (leads_advanceRt s).trans (Leads.trans (.quiet ?_) (leads_recomputeBdt _))
    split <;> rfl
  · exact leads_advanceRt s
  · exact .refl s

theorem leads_execFloorWriteComplete (h : execFloorWriteComplete s = .next t) : Leads .floorWriteComplete s s t := by
  refine leads_powered h fun _ => ?_
  split
  · refine Leads.trans (.change (.floorDone _ _ ‹_›)) (.quiet (watched_trigger _))
  · exact .refl s

theorem leads_execBeaconTimerExpiry (h : execBeaconTimerExpiry s = .next t) : Leads .beaconTimerExpiry s s t := by
  refine leads_powered h fun _ => ?_
  split
  · refine Leads.trans ?_ (leads_offerBeacon _)
    exact .quiet rfl
  · exact .refl s

theorem leads_execPresenceWindowEnd {id} (h : execPresenceWindowEnd id s = .next t) :
    Leads (.presenceWindowEnd id) s s t := by
  refine leads_powered h fun _ => ?_
  split
  · refine leads_changePresence id .absent s (by decide) ?_
    rw [presence_of_windowOver ‹_›]
    decide
  · exact .refl s

theorem leads_execRoundBoundary (h : execRoundBoundary s = .next t) : Leads .roundBoundary s s t := by
  refine leads_powered h fun _ => ?_
  split
  · refine Leads.trans ?_ (leads_roundBoundary _)
    exact .quiet rfl
  · exact .refl s

theorem leads_execHoldSlotWriteComplete {slot} (h : execHoldSlotWriteComplete slot s = .next t) :
    Leads (.holdSlotWriteComplete slot) s s t := by
  exact leads_powered h fun _ => (leads_completeSlot _ s).trans ((leads_mediaTail _).trans (leads_linkEnd _))

theorem leads_execSettlePeriodEnd (h : execSettlePeriodEnd s = .next t) : Leads .settlePeriodEnd s s t := by
  refine leads_powered h fun _ => ?_
  split
  · exact .quiet (watched_trigger _)
  · exact .refl s

theorem leads_execLoadVisit (h : execLoadVisit s = .next t) : Leads .loadVisit s s t := by
  exact leads_powered h fun _ => (leads_loadVisit s).trans ((leads_mediaTail _).trans (leads_linkEnd _))

theorem leads_execRefreshVisit (h : execRefreshVisit s = .next t) : Leads .refreshVisit s s t := by
  exact leads_powered h fun _ => (leads_refreshVisit s).trans ((leads_mediaTail _).trans (leads_linkEnd _))

theorem leads_execEntryWriteComplete {index} (h : execEntryWriteComplete index s = .next t) :
    Leads (.entryWriteComplete index) s s t := by
  refine leads_powered h fun _ => ?_
  split
  · exact (leads_completeEntry _ s).trans ((leads_mediaTail _).trans (leads_linkEnd _))
  · exact .refl s

theorem leads_execStoreWriteFailed {record} (h : execStoreWriteFailed record s = .next t) :
    Leads (.storeWriteFailed record) s s t := by
  refine leads_powered h fun _ => ?_
  split
  · exact (leads_enterStoreFault s).trans ((leads_mediaTail _).trans (leads_linkEnd _))
  · exact .refl s

theorem leads_execStoreReadFailed {record} (h : execStoreReadFailed record s = .next t) :
    Leads (.storeReadFailed record) s s t := by
  exact leads_powered h fun _ => (leads_readFails record s).trans ((leads_mediaTail _).trans (leads_linkEnd _))

theorem leads_execMediaCompletion {tag result} (h : execMediaCompletion tag result s = .next t) :
    Leads (.mediaCompletion tag result) s s t := by
  refine leads_powered h fun _ => ?_
  split
  · split
    · exact (leads_endInFlight _ _ s fun hw => .inr ⟨rfl, .inr hw⟩).trans ((leads_mediaTail _).trans (leads_linkEnd _))
    · exact .refl s
  · exact .refl s

theorem leads_execMediaTimerExpiry (h : execMediaTimerExpiry s = .next t) : Leads .mediaTimerExpiry s s t := by
  refine leads_powered h fun _ => ?_
  split
  · split
    · rename_i f _ _
      have hend := leads_endInFlight (c := .mediaTimerExpiry) f .timeout s fun hw => .inr ⟨rfl, .inr hw⟩
      refine Leads.trans ?_ ((leads_mediaTail _).trans (leads_linkEnd _))
      exact hend.trans (.quiet rfl)
    · exact .refl s
  · exact .refl s

theorem leads_execScrubTick (h : execScrubTick s = .next t) : Leads .scrubTick s s t := by
  refine leads_powered h fun _ => ?_
  split
  · refine Leads.trans ?_ ((leads_tickBalance _).trans (leads_mediaTail _))
    exact .quiet rfl
  · exact .refl s

theorem leads_execAppealTimerExpiry {index} (h : execAppealTimerExpiry index s = .next t) :
    Leads (.appealTimerExpiry index) s s t := by
  refine leads_powered h fun _ => leads_atAppeal _ _ ?_
  unfold withRecord
  split
  · exact .quiet rfl
  · exact leads_appealOrLeave ..

theorem leads_execAppealRearm {index} (h : execAppealRearm index s = .next t) : Leads (.appealRearm index) s s t := by
  refine leads_powered h fun _ => leads_atAppeal _ _ ?_
  unfold withRecord
  split
  · exact .quiet rfl
  · exact leads_rearmOrLeave ..

theorem leads_execRecruitTimerExpiry {key} (h : execRecruitTimerExpiry key s = .next t) :
    Leads (.recruitTimerExpiry key) s s t := by
  exact leads_powered h fun _ => (leads_recruitExpire key s).trans (leads_linkEnd _)

theorem leads_execCandidateExpiry {key} (h : execCandidateExpiry key s = .next t) :
    Leads (.candidateExpiry key) s s t := by
  exact leads_powered h fun _ => .change (.candidates _ (.inr (List.length_filter_le ..)))

theorem leads_execClaimLifetimeExpiry {key} (h : execClaimLifetimeExpiry key s = .next t) :
    Leads (.claimLifetimeExpiry key) s s t := by
  exact leads_powered h fun _ => (leads_claimLapse key s).trans (leads_linkEnd _)

theorem leads_execUnknownRequestFrame {bytes} (h : execUnknownRequestFrame bytes s = .next t) :
    Leads (.unknownRequestFrame bytes) s s t := by
  unfold execUnknownRequestFrame at h
  split at h
  · obtain rfl := Host.Outcome.next.inj h
    exact .refl s
  · exact leads_powered h fun _ => Leads.trans (by exact .quiet rfl) (leads_linkEnd _)
  · exact leads_runRequest _ h

theorem leads_execUnknownServiceCommand {bytes} (h : execUnknownServiceCommand bytes s = .next t) :
    Leads (.unknownServiceCommand bytes) s s t := by
  unfold execUnknownServiceCommand at h
  split at h
  · obtain rfl := Host.Outcome.next.inj h
    exact .refl s
  · exact leads_serve h rfl
  · exact leads_runService _ h

/-- Every command but the resets and the loss of core power leads on by single changes. -/
theorem leads_exec (hc : resets c = false) (h : exec c s = .next t) : Leads c s s t := by
  by_cases hr : (requestOfCommand c).isSome = true
  · exact leads_runRequest c (exec_eq_runRequest hr s ▸ h)
  by_cases hs : isServiceCommand c = true
  · exact leads_runService c (exec_eq_runService hs s ▸ h)
  cases c with
  | coldStart _ _ | warmReset _ | corePowerLoss _ => simp [resets] at hc
  | start | setTime | setSpace | lodge | adopt | refill | dispose | placeHold | liftHold | lookup | listReleasable | mediaRead
  | mediaWrite | mediaTrim | dormant | wake | readStatus | clearEvents | setEventEnables => exact absurd rfl hr
  | inspectStatus | inspectEntry | inspectKey | inspectHold | inspectPeer | inspectClock | setWatch | clearWatch =>
    exact absurd rfl hs
  | guardAsserted => exact leads_execGuardAsserted h
  | guardReleased => exact leads_execGuardReleased h
  | mediaReadyRise => exact leads_execMediaReadyRise h
  | mediaReadyFall => exact leads_execMediaReadyFall h
  | svcEnRise => exact leads_execSvcEnRise h
  | svcEnFall => exact leads_execSvcEnFall h
  | startAccepted => exact leads_execStartAccepted h
  | transmitFrameDone => exact leads_execTransmitFrameDone h
  | serviceAnswerSent => exact leads_execServiceAnswerSent h
  | frameReceived => exact leads_execFrameReceived h
  | beaconDispatch => exact leads_execBeaconDispatch h
  | holdDispatch => exact leads_execHoldDispatch h
  | liftDispatch => exact leads_execLiftDispatch h
  | haveDispatch => exact leads_execHaveDispatch h
  | dropDispatch => exact leads_execDropDispatch h
  | wantDispatch => exact leads_execWantDispatch h
  | claimDispatch => exact leads_execClaimDispatch h
  | attemptStart => exact leads_execAttemptStart h
  | arbitrationLost => exact leads_execArbitrationLost h
  | frameSent => exact leads_execFrameSent h
  | sendError => exact leads_execSendError h
  | receiveError => exact leads_execReceiveError h
  | dominantRunError => exact leads_execDominantRunError h
  | leaveSilent => exact leads_execLeaveSilent h
  | bitRateChange => exact leads_execBitRateChange h
  | elevenRecessiveBitsRead => exact leads_execElevenRecessiveBitsRead h
  | rtAdvance => exact leads_execRtAdvance h
  | floorWriteComplete => exact leads_execFloorWriteComplete h
  | beaconTimerExpiry => exact leads_execBeaconTimerExpiry h
  | presenceWindowEnd => exact leads_execPresenceWindowEnd h
  | roundBoundary => exact leads_execRoundBoundary h
  | holdSlotWriteComplete => exact leads_execHoldSlotWriteComplete h
  | settlePeriodEnd => exact leads_execSettlePeriodEnd h
  | loadVisit => exact leads_execLoadVisit h
  | refreshVisit => exact leads_execRefreshVisit h
  | entryWriteComplete => exact leads_execEntryWriteComplete h
  | storeWriteFailed => exact leads_execStoreWriteFailed h
  | storeReadFailed => exact leads_execStoreReadFailed h
  | mediaCompletion => exact leads_execMediaCompletion h
  | mediaTimerExpiry => exact leads_execMediaTimerExpiry h
  | scrubTick => exact leads_execScrubTick h
  | appealTimerExpiry => exact leads_execAppealTimerExpiry h
  | appealRearm => exact leads_execAppealRearm h
  | recruitTimerExpiry => exact leads_execRecruitTimerExpiry h
  | candidateExpiry => exact leads_execCandidateExpiry h
  | claimLifetimeExpiry => exact leads_execClaimLifetimeExpiry h
  | unknownRequestFrame => exact leads_execUnknownRequestFrame h
  | unknownServiceCommand => exact leads_execUnknownServiceCommand h

/-! ### The step -/

theorem watched_idle (s : State) : watched (idle s) = watched s := by
  unfold idle
  split
  · have hl (u : State) : watched (quietLine u) = watched u := by
      unfold quietLine
      dsimp only
      split <;> rfl
    have hc (u : State) : watched (cursorWritten u) = watched u := by
      unfold cursorWritten
      split <;> rfl
    exact (hc _).trans (hl { s with coreMs := s.coreMs + 1 })
  · rfl

/-- What a step makes of the watched part: it runs the command at the front of the queue, by single changes or as a reset
or a loss of core power, or nothing. -/
theorem step_cases (h : step s = .next t) :
    (s.pending = [] ∧ watched t = watched s) ∨
    ∃ c rest, s.pending = c :: rest ∧ exec c { s with pending := rest } = .next t ∧
      (resets c = true ∨ Leads c { s with pending := rest } { s with pending := rest } t) := by
  unfold step at h
  split at h
  · rename_i c rest hp
    refine .inr ⟨c, rest, hp, h, ?_⟩
    cases hc : resets c
    · exact .inr (leads_exec hc h)
    · exact .inl rfl
  · rename_i hp
    obtain rfl := Host.Outcome.next.inj h
    exact .inl ⟨hp, watched_idle s⟩

end Sys2Proof.Machine
end

section
/-! PROOFS. The laws that every step keeps: each is kept by the single changes of the watched part, and by the resets and the
losses of power, and so by every step. -/

namespace Sys2Proof.Machine

variable {c : Instr} {s₀ s t : State} {w w' : Watched}

/-! ### Resets and losses of power -/

/-- What a reset or a loss of core power makes of a state. -/
inductive Restarts (c : Instr) (s : State) : State → Prop
  | boot (slot : NodeId) (rt : Nat) (valid : Bool) (hc : c = .warmReset slot ∨ ∃ kept, c = .coldStart slot kept)
      (h : rt = s.rck.rt ∧ valid = s.rck.rtValid ∨ rt = 0 ∧ valid = false) : Restarts c s (boot slot rt valid (cutWrites s))
  | powerOff (kept : Bool) (battery : Bool) (hc : c = .corePowerLoss battery) : Restarts c s (powerOff kept (cutWrites s))
  | lost (battery : Bool) (hc : c = .corePowerLoss battery) : Restarts c s (Machine.powerOff false s)
  | same : Restarts c s s

theorem restarts_of_resets (hc : resets c = true) (h : exec c s = .next t) : Restarts c s t := by
  cases c with
  | coldStart slot kept =>
    replace h : execColdStart slot kept s = .next t := h
    obtain rfl := Host.Outcome.next.inj h
    refine .boot slot _ _ (.inr ⟨kept, rfl⟩) ?_
    cases kept && decide (s.pins.power ≠ .offLost)
    · exact .inr ⟨rfl, rfl⟩
    · exact .inl ⟨rfl, rfl⟩
  | warmReset slot =>
    replace h : execWarmReset slot s = .next t := h
    unfold execWarmReset powered at h
    obtain rfl := Host.Outcome.next.inj h
    split
    · exact .boot slot _ _ (.inl rfl) (.inl ⟨rfl, rfl⟩)
    · exact .same
  | corePowerLoss battery =>
    replace h : execCorePowerLoss battery s = .next t := h
    unfold execCorePowerLoss at h
    split at h <;> obtain rfl := Host.Outcome.next.inj h
    · exact .powerOff _ battery rfl
    · split
      · exact .same
      · exact .lost battery rfl
    · exact .same
  | _ => simp [resets] at hc

/-- A step idles, runs a command by single changes, or resets the part. -/
theorem step_runs (h : step s = .next t) :
    watched t = watched s ∨ ∃ c rest, s.pending = c :: rest ∧
      (Restarts c { s with pending := rest } t ∨ Leads c { s with pending := rest } { s with pending := rest } t) := by
  obtain ⟨-, hw⟩ | ⟨c, rest, hp, he, hr | hl⟩ := step_cases h
  · exact .inl hw
  · exact .inr ⟨c, rest, hp, .inl (restarts_of_resets hr he)⟩
  · exact .inr ⟨c, rest, hp, .inr hl⟩

/-- What every single change keeps, and every reset and loss of power, every step keeps. -/
theorem step_keeps {P : Watched → Prop} (hc : ∀ c s₀ w w', P (watched s₀) → Change c s₀ w w' → P w → P w')
    (hr : ∀ c s t, P (watched s) → Restarts c s t → P (watched t)) (h : step s = .next t) (hs : P (watched s)) :
    P (watched t) := by
  obtain hw | ⟨c, rest, -, hx | hl⟩ := step_runs h
  · rwa [hw]
  · exact hr c { s with pending := rest } t hs hx
  · exact hl.keeps (fun w w' => hc c _ w w' hs) hs

theorem watched_boot (slot : NodeId) (rt : Nat) (valid : Bool) (s : State) : watched (boot slot rt valid s) =
    { watched State.reset with
      power := .on, guard := s.pins.guardAsserted, header := s.store.header, storedRf := s.store.rf
      entries := s.store.entries, work := s.store.entries
      rck := ⟨rt, valid, if s.store.header then s.store.rf else 0, if s.store.header then s.store.rf else 0, []⟩
      ownId := slot, peers := freshPeers slot } := rfl

theorem watched_powerOff (kept : Bool) (s : State) : watched (powerOff kept s) =
    { watched State.reset with
      power := if kept then .offKept else .offLost
      guard := s.pins.guardAsserted, header := s.store.header, storedRf := s.store.rf, entries := s.store.entries
      rck := ⟨if kept then s.rck.rt else 0, kept && s.rck.rtValid, 0, 0, []⟩ } := rfl

/-- A law that speaks of nothing that a reset or a loss of power leaves otherwise than at its reset value is kept by them. -/
theorem restarts_keeps {P : Watched → Prop}
    (hP : ∀ power guard header rf es work rck id peers, P { watched State.reset with
      power := power, guard := guard, header := header, storedRf := rf, entries := es, work := work, rck := rck, ownId := id
      peers := peers }) (hs : P (watched s)) (h : Restarts c s t) : P (watched t) := by
  cases h with
  | boot => rw [watched_boot]; exact hP ..
  | powerOff => rw [watched_powerOff]; exact hP ..
  | lost => rw [watched_powerOff]; exact hP ..
  | same => exact hs

/-! ### The media port -/

/-- The media port carries one command at a time, with its timer. -/
def OnePort (w : Watched) : Prop :=
  (w.inFlight = none ∨ w.grantedErase = none) ∧ (w.timer.isSome ↔ w.inFlight.isSome)

theorem onePort_reset : OnePort (watched State.reset) := by
  unfold OnePort
  decide

theorem change_onePort (h : Change c s₀ w w') (hw : OnePort w) : OnePort w' := by
  cases h with
  | release _ _ _ _ hg _ => exact ⟨.inr hg, by simp⟩
  | releaseGranted => exact ⟨.inr rfl, by simp⟩
  | grantErase _ hi _ => exact ⟨.inl hi, hw.2⟩
  | ended => exact ⟨.inl rfl, by simp⟩
  | fault => exact ⟨.inr rfl, hw.2⟩
  | _ => exact hw

theorem step_oneAtPort (hs : OneAtPort s) (h : step s = .next t) : OneAtPort t :=
  step_keeps (P := OnePort) (fun _ _ _ _ _ => change_onePort)
    (fun _ _ _ => restarts_keeps fun _ _ _ _ _ _ _ _ _ => onePort_reset) h hs

/-! ### The Peer Table -/

/-- The Peer Table has its 16 slots, with SELF at the own id and nowhere else. -/
def PeersInForm (w : Watched) : Prop :=
  w.peers.length = 16 ∧ ∀ id : NodeId, (w.peers.getD id.toNat {}).presence = .self ↔ id = w.ownId

theorem change_peersInForm (h : Change c s₀ w w') (hw : PeersInForm w) : PeersInForm w' := by
  cases h with
  | peer id p hp =>
    obtain ⟨hlen, hself⟩ := hw
    refine ⟨by simpa using hlen, fun j => ?_⟩
    rw [← hself j]
    show ((w.peers.set id.toNat p).getD j.toNat {}).presence = .self ↔ _
    by_cases hj : id.toNat = j.toNat
    · rw [← hj, getD_set_self, if_pos (by have := id.isLt; omega)]
      obtain heq | ⟨hne, hne'⟩ := hp
      · rw [heq]
      · exact iff_of_false hne hne'
    · rw [getD_set_of_ne _ _ hj]
  | _ => exact hw

theorem freshPeers_self (own id : NodeId) : ((freshPeers own).getD id.toNat {}).presence = .self ↔ id = own := by
  revert own id
  decide

theorem restarts_peersInForm (hs : PeersInForm (watched s)) (h : Restarts c s t) : PeersInForm (watched t) := by
  cases h with
  | boot slot => exact ⟨by simp [watched_boot, freshPeers, allNodes], fun id => freshPeers_self slot id⟩
  | powerOff => exact ⟨rfl, freshPeers_self 0⟩
  | lost => exact ⟨rfl, freshPeers_self 0⟩
  | same => exact hs

theorem step_peersKept (hs : PeersKept s) (h : step s = .next t) : PeersKept t :=
  step_keeps (P := PeersInForm) (fun _ _ _ _ _ => change_peersInForm) (fun _ _ _ => restarts_peersInForm) h hs

/-- Settles O54: no single change grants the port while it is taken, and none touches SELF. -/
theorem portAndPeersStayInForm : Obligations.PortAndPeersStayInForm := by
  unfold Obligations.PortAndPeersStayInForm
  exact ⟨fun _ _ => step_oneAtPort, fun _ _ => step_peersKept⟩

/-! ### The line -/

/-- A muted node has no frame to send. -/
def Mute (w : Watched) : Prop :=
  w.confinement = .silent ∨ w.dupId = true → w.sendQueue = [] ∧ w.attempt = none ∧ w.heldBeacon = false

theorem mute_reset : Mute (watched State.reset) := by
  unfold Mute
  decide

theorem change_mute (h : Change c s₀ w w') (hw : Mute w) : Mute w' := by
  cases h with
  | enqueue q hl hd hs => exact fun hm => absurd hm (by simp [hd, hs])
  | queue q a held hl ha hh =>
    intro hm
    obtain ⟨hq, hat, hb⟩ := hw hm
    refine ⟨by simpa [hq] using hl, ?_, ?_⟩
    · by_contra hne
      simpa [hq, hat] using ha hne
    · cases held with
      | false => rfl
      | true =>
        obtain ⟨hd, hs⟩ := (hh rfl).resolve_left (by simp [hb])
        exact absurd hm (by simp [hd, hs])
  | counts send recv conf hsil hc _ => exact fun hm => hw (.inr (hm.resolve_left hc))
  | silence => exact fun _ => ⟨rfl, rfl, rfl⟩
  | voice => exact fun hm => hw (.inr (hm.resolve_left (by simp)))
  | dupId => exact fun _ => ⟨rfl, rfl, rfl⟩
  | _ => exact hw

/-- Settles O53: a frame comes into the Send Queue of a node that is neither SILENT nor in DUP_ID alone, and what makes the
node so empties the queue. -/
theorem mutedNodesStayMute : Obligations.MutedNodesStayMute := by
  unfold Obligations.MutedNodesStayMute
  exact fun s t hs h => step_keeps (P := Mute) (fun _ _ _ _ _ => change_mute)
    (fun _ _ _ => restarts_keeps fun _ _ _ _ _ _ _ _ _ => mute_reset) h hs

/-! ### Counts, queues and lists -/

/-- The error counts stand in their ranges. -/
def CountsRanged (w : Watched) : Prop :=
  w.sendCount ≤ 240 ∧ w.recvCount ≤ 200 ∧ (w.confinement = .silent → w.sendCount = 240)

theorem countsRanged_reset : CountsRanged (watched State.reset) := by
  unfold CountsRanged
  decide

theorem change_countsRanged (h : Change c s₀ w w') (hw : CountsRanged w) : CountsRanged w' := by
  obtain ⟨hsend, hrecv, hsil⟩ := hw
  cases h with
  | counts send recv conf _ hc h =>
    obtain ⟨hs, hr⟩ := h hsend hrecv
    exact ⟨hs, hr, fun he => absurd he hc⟩
  | silence send recv hs h => exact ⟨hs.le, h hsend hrecv, fun _ => hs⟩
  | voice => exact ⟨by simp, by simp, by simp⟩
  | _ => exact ⟨hsend, hrecv, hsil⟩

/-- The scrub balance stands within -8 to +8. -/
def BalanceRanged (w : Watched) : Prop := -8 ≤ w.balance ∧ w.balance ≤ 8

theorem balanceRanged_reset : BalanceRanged (watched State.reset) := by
  unfold BalanceRanged
  decide

theorem change_balanceRanged (h : Change c s₀ w w') (hw : BalanceRanged w) : BalanceRanged w' := by
  cases h with
  | balance b h => exact h hw.1 hw.2
  | _ => exact hw

theorem Within.length_le {α : Type} {n : Nat} {old new : List α} (h : Within n old new) (ho : old.length ≤ n) :
    new.length ≤ n :=
  h.elim id fun h => h.trans ho

theorem length_insertSend (q : SendItem) (l : List SendItem) : (insertSend q l).length = l.length + 1 := by
  induction l with
  | nil => rfl
  | cons x xs ih =>
    unfold insertSend
    split
    · rfl
    · simp [ih]

/-- The queues stand within their sizes. -/
def QueuesBounded (w : Watched) : Prop :=
  w.sendQueue.length ≤ 16 ∧ w.rxFifo.length ≤ 24 ∧ w.requests.length ≤ 32 ∧ w.notices.length ≤ 32 ∧ w.watchLog.length ≤ 8

theorem queuesBounded_reset : QueuesBounded (watched State.reset) := by
  unfold QueuesBounded
  decide

theorem change_queuesBounded (h : Change c s₀ w w') (hw : QueuesBounded w) : QueuesBounded w' := by
  obtain ⟨hsend, hfifo, hreq, hnot, hlog⟩ := hw
  cases h with
  | enqueue q hl => exact ⟨(length_insertSend q _).trans_le hl, hfifo, hreq, hnot, hlog⟩
  | queue q a held hl => exact ⟨hl.trans hsend, hfifo, hreq, hnot, hlog⟩
  | silence => exact ⟨by simp, hfifo, hreq, hnot, hlog⟩
  | dupId => exact ⟨by simp, hfifo, hreq, hnot, hlog⟩
  | rxFifo l h => exact ⟨hsend, h.length_le hfifo, hreq, hnot, hlog⟩
  | requests l h => exact ⟨hsend, hfifo, h.length_le hreq, hnot, hlog⟩
  | notices l h => exact ⟨hsend, hfifo, hreq, h.length_le hnot, hlog⟩
  | watchLog l h => exact ⟨hsend, hfifo, hreq, hnot, h.length_le hlog⟩
  | _ => exact ⟨hsend, hfifo, hreq, hnot, hlog⟩

/-- The lists of CNU and the Lifted List stand within their sizes, and the Appeal List names no index twice. -/
def ListsBounded (w : Watched) : Prop :=
  w.appeals.length ≤ 16 ∧ w.candidates.length ≤ 32 ∧ w.claims.length ≤ 4 ∧ w.repairs.length ≤ 16 ∧ w.lifted.length ≤ 16 ∧
    (w.appeals.map Appeal.index).Nodup

theorem listsBounded_reset : ListsBounded (watched State.reset) := by
  unfold ListsBounded
  decide

theorem change_listsBounded (h : Change c s₀ w w') (hw : ListsBounded w) : ListsBounded w' := by
  obtain ⟨happ, hcand, hclaim, hrep, hlift, hnodup⟩ := hw
  cases h with
  | lifted l h => exact ⟨happ, hcand, hclaim, hrep, h.length_le hlift, hnodup⟩
  | appeals l h => exact ⟨by simpa using h.length_le.trans (by simpa using happ), hcand, hclaim, hrep, hlift, h.nodup hnodup⟩
  | appeal a hl h =>
    refine ⟨by simpa using hl, hcand, hclaim, hrep, hlift, ?_⟩
    show ((w.appeals ++ [a]).map Appeal.index).Nodup
    rw [List.map_append, List.nodup_append]
    refine ⟨hnodup, by simp, fun i hi j hj => ?_⟩
    obtain ⟨x, hx, rfl⟩ := List.mem_map.mp hi
    obtain rfl : j = a.index := by simpa using hj
    exact h x hx
  | candidates l h => exact ⟨happ, h.length_le hcand, hclaim, hrep, hlift, hnodup⟩
  | claims l h => exact ⟨happ, hcand, h.length_le hclaim, hrep, hlift, hnodup⟩
  | repairs l h => exact ⟨happ, hcand, hclaim, h.length_le hrep, hlift, hnodup⟩
  | _ => exact ⟨happ, hcand, hclaim, hrep, hlift, hnodup⟩

/-- Settles O52: each single change that makes a count, queue or list grow is bounded where it is made. -/
theorem countsAndQueuesStayInRange : Obligations.CountsAndQueuesStayInRange := by
  unfold Obligations.CountsAndQueuesStayInRange
  refine ⟨⟨fun s t hs h => ?_, fun s t hs h => ?_⟩, fun s t hs h => ?_, fun s t hs h => ?_⟩
  · exact step_keeps (P := CountsRanged) (fun _ _ _ _ _ => change_countsRanged)
      (fun _ _ _ => restarts_keeps fun _ _ _ _ _ _ _ _ _ => countsRanged_reset) h hs
  · exact step_keeps (P := BalanceRanged) (fun _ _ _ _ _ => change_balanceRanged)
      (fun _ _ _ => restarts_keeps fun _ _ _ _ _ _ _ _ _ => balanceRanged_reset) h hs
  · exact step_keeps (P := QueuesBounded) (fun _ _ _ _ _ => change_queuesBounded)
      (fun _ _ _ => restarts_keeps fun _ _ _ _ _ _ _ _ _ => queuesBounded_reset) h hs
  · exact step_keeps (P := ListsBounded) (fun _ _ _ _ _ => change_listsBounded)
      (fun _ _ _ => restarts_keeps fun _ _ _ _ _ _ _ _ _ => listsBounded_reset) h hs

end Sys2Proof.Machine
end

section
/-! PROOFS. The laws of the catalogue, of the clocks, of the gate and of the entries that a step keeps. -/

namespace Sys2Proof.Machine

variable {c : Instr} {s₀ s t : State} {w w' : Watched}

/-! ### The catalogue's form -/

/-- The catalogue is in canonical form, in the working copies and in the store. -/
def Canonical (w : Watched) : Prop := catWf w.work = true ∧ catWf w.entries = true

theorem change_canonical (h : Change c s₀ w w') (hw : Canonical w) : Canonical w' := by
  obtain ⟨hwork, hstore⟩ := hw
  cases h with
  | work i e _ => exact ⟨catWf_catSet i e hwork, hstore⟩
  | owe i e _ => exact ⟨catWf_catSet i e hwork, hstore⟩
  | accept i rest e => exact ⟨catWf_catSet i e hwork, hstore⟩
  | store es h => exact ⟨hwork, h hstore⟩
  | prepare => exact ⟨rfl, rfl⟩
  | fault rf es _ hes => exact ⟨hwork, hes hstore⟩
  | _ => exact ⟨hwork, hstore⟩

theorem cutWrites_canonical (h : catWf s.store.entries = true) : catWf (cutWrites s).store.entries = true := by
  obtain ⟨rf, es, hw, -, hes⟩ := watched_cutWrites s
  have he : (cutWrites s).store.entries = es := congrArg Watched.entries hw
  rw [he]
  exact hes h

theorem restarts_canonical (hs : Canonical (watched s)) (h : Restarts c s t) : Canonical (watched t) := by
  obtain ⟨hwork, hstore⟩ := hs
  cases h with
  | boot => exact ⟨cutWrites_canonical hstore, cutWrites_canonical hstore⟩
  | powerOff => exact ⟨rfl, cutWrites_canonical hstore⟩
  | lost => exact ⟨rfl, hstore⟩
  | same => exact ⟨hwork, hstore⟩

/-- The free-entry list rises, and names free entries that owe no DROP alone. -/
def FreeInForm (w : Watched) : Prop :=
  Canonical w ∧ w.freeList.Pairwise (· < ·) ∧ ∀ i ∈ w.freeList, Listable (catGet w.work i)

theorem mem_insertIndex {i j : Nat} {l : List Nat} : j ∈ insertIndex i l ↔ j = i ∨ j ∈ l := by
  induction l with
  | nil => simp [insertIndex]
  | cons k ks ih =>
    unfold insertIndex
    split
    · simp
    · split
      · simp_all
      · simp only [List.mem_cons, ih]
        tauto

theorem pairwise_insertIndex {i : Nat} {l : List Nat} (h : l.Pairwise (· < ·)) : (insertIndex i l).Pairwise (· < ·) := by
  induction l with
  | nil => simp [insertIndex]
  | cons k ks ih =>
    obtain ⟨hk, hks⟩ := List.pairwise_cons.mp h
    unfold insertIndex
    split
    · rename_i hi
      exact List.pairwise_cons.mpr ⟨fun j hj => (List.mem_cons.mp hj).elim (fun h => h ▸ hi) fun h => hi.trans (hk j h), h⟩
    · split
      · exact h
      · refine List.pairwise_cons.mpr ⟨fun j hj => ?_, ih hks⟩
        obtain rfl | hj := mem_insertIndex.mp hj
        · omega
        · exact hk j hj

theorem change_freeInForm (h : Change c s₀ w w') (hw : FreeInForm w) : FreeInForm w' := by
  have hcan := change_canonical h hw.1
  obtain ⟨⟨hwork, hstore⟩, hsorted, hlist⟩ := hw
  have hnodup : w.freeList.Nodup := hsorted.imp (fun h => Nat.ne_of_lt h)
  refine ⟨hcan, ?_⟩
  cases h with
  | work i e he =>
    refine ⟨hsorted, fun j hj => ?_⟩
    by_cases hji : j = i
    · subst hji
      simpa [catGet_catSet_self _ e hwork] using (he hwork).listable (hlist j hj)
    · simpa [catGet_catSet_ne e hji] using hlist j hj
  | owe i e _ =>
    refine ⟨hsorted.sublist List.erase_sublist, fun j hj => ?_⟩
    obtain ⟨hji, hj⟩ := hnodup.mem_erase_iff.mp hj
    simpa [catGet_catSet_ne e hji] using hlist j hj
  | accept i rest e hf =>
    rw [hf] at hsorted hnodup
    refine ⟨hsorted.of_cons, fun j hj => ?_⟩
    have hji : j ≠ i := fun h => (List.nodup_cons.mp hnodup).1 (h ▸ hj)
    simpa [catGet_catSet_ne e hji] using hlist j (hf ▸ List.mem_cons_of_mem i hj)
  | list i hi =>
    refine ⟨pairwise_insertIndex hsorted, fun j hj => ?_⟩
    obtain rfl | hj := mem_insertIndex.mp hj
    · exact hi
    · exact hlist j hj
  | prepare => exact ⟨hsorted, fun _ _ => listable_freeEntry⟩
  | _ => exact ⟨hsorted, hlist⟩

theorem restarts_freeInForm (hs : FreeInForm (watched s)) (h : Restarts c s t) : FreeInForm (watched t) := by
  refine ⟨restarts_canonical hs.1 h, ?_⟩
  obtain ⟨-, hsorted, hlist⟩ := hs
  cases h with
  | boot => exact ⟨.nil, fun _ hi => absurd hi List.not_mem_nil⟩
  | powerOff => exact ⟨.nil, fun _ hi => absurd hi List.not_mem_nil⟩
  | lost => exact ⟨.nil, fun _ hi => absurd hi List.not_mem_nil⟩
  | same => exact ⟨hsorted, hlist⟩

/-- Settles O51: the writes of single entries keep the form, and a listed index stays that of a FREE entry. -/
theorem catalogueStaysCanonical : Obligations.CatalogueStaysCanonical := by
  unfold Obligations.CatalogueStaysCanonical
  refine ⟨fun s t hs h => ?_, fun s t hc hs h => ?_⟩
  · exact step_keeps (P := Canonical) (fun _ _ _ _ _ => change_canonical) (fun _ _ _ => restarts_canonical) h hs
  · exact (step_keeps (P := FreeInForm) (fun _ _ _ _ _ => change_freeInForm) (fun _ _ _ => restarts_freeInForm) h
      ⟨hc, hs⟩).2

/-! ### The clocks -/

/-- The clocks stand in order (`ClockInOrder`). -/
structure ClocksOrdered (w : Watched) : Prop where
  rt_le : w.rck.rt ≤ rtMax
  rf_le : w.rck.rf ≤ w.rck.bdt
  bdt_le : w.rck.rtValid = true → w.rck.bdt ≤ w.rck.rt
  floor_le : ∀ v ∈ w.rck.floorWrites, v ≤ w.rck.bdt
  rising : (w.rck.rf :: w.rck.floorWrites).Pairwise (· < ·)
  rf_day : daySeconds ∣ w.rck.rf
  stored_day : daySeconds ∣ w.storedRf
  floor_day : ∀ v ∈ w.rck.floorWrites, daySeconds ∣ v
  bdt_eq : w.rck.rtValid = false → w.rck.bdt = w.rck.rf
  stored_le_rt : w.rck.rtValid = true → w.header = true → w.storedRf ≤ w.rck.rt
  stored_le_rf : w.power = .on → w.node ≠ .storeFault → w.header = true → w.storedRf ≤ w.rck.rf
  fault : w.node = .storeFault → w.rck.floorWrites = [] ∧ w.starting = none ∧ w.waitingDormant = none

theorem clocksOrdered_iff (s : State) : ClocksOrdered (watched s) ↔ ClockInOrder s :=
  ⟨fun ⟨h1, h2, h3, h4, h5, h6, h7, h8, h9, h10, h11, h12⟩ => ⟨h1, h2, h3, h4, h5, h6, h7, h8, h9, h10, h11, h12⟩,
   fun ⟨h1, h2, h3, h4, h5, h6, h7, h8, h9, h10, h11, h12⟩ => ⟨h1, h2, h3, h4, h5, h6, h7, h8, h9, h10, h11, h12⟩⟩

/-- The floor value that a cut store holds: the stored one, or the oldest that was being written. -/
theorem ClocksOrdered.cut_floor (h : ClocksOrdered w) {rf : Nat} (hrf : rf = w.storedRf ∨ w.rck.floorWrites.head? = some rf) :
    daySeconds ∣ rf ∧ (w.rck.rtValid = true → w.header = true → rf ≤ w.rck.rt) := by
  obtain rfl | hv := hrf
  · exact ⟨h.stored_day, h.stored_le_rt⟩
  · have hmem := List.mem_of_mem_head? hv
    exact ⟨h.floor_day rf hmem, fun hvalid _ => (h.floor_le rf hmem).trans (h.bdt_le hvalid)⟩

theorem change_clocksOrdered (h₀ : ClocksOrdered (watched s₀)) (h : Change c s₀ w w') (hw : ClocksOrdered w) :
    ClocksOrdered w' := by
  cases h with
  | prepare =>
    exact { hw with
      stored_day := dvd_zero _, stored_le_rt := fun _ _ => Nat.zero_le _, stored_le_rf := fun _ _ _ => Nat.zero_le _ }
  | node n hn h =>
    refine { hw with stored_le_rf := fun hp _ => hw.stored_le_rf hp ?_, fault := fun he => absurd he hn }
    intro hf
    obtain hne | ⟨heq, hs⟩ := h
    · exact hne hf
    · obtain ⟨-, hst, hwd⟩ := h₀.fault (show s₀.ctc.node = _ from heq ▸ hf)
      exact hs.elim (fun h => h hst) fun h => h hwd
  | fault rf es hrf _ =>
    obtain ⟨hday, hle⟩ := hw.cut_floor hrf
    exact { hw with
      floor_le := by simp, rising := by simp, stored_day := hday, floor_day := by simp, stored_le_rt := hle
      stored_le_rf := fun _ hn => absurd rfl hn, fault := fun _ => ⟨rfl, rfl, rfl⟩ }
  | tick =>
    have hstep : w.rck.rt ≤ min rtMax (w.rck.rt + 1) := le_min hw.rt_le (Nat.le_succ _)
    exact { hw with
      rt_le := min_le_left _ _, bdt_le := fun hv => (hw.bdt_le hv).trans hstep
      stored_le_rt := fun hv hh => (hw.stored_le_rt hv hh).trans hstep }
  | setTime time hv hrf hmax hn hp =>
    exact { hw with
      rt_le := hmax, bdt_le := fun _ => (hw.bdt_eq hv).trans_le hrf, bdt_eq := fun h => absurd h (by simp)
      stored_le_rt := fun _ hh => (hw.stored_le_rf hp hn hh).trans hrf }
  | bound b hv hlow hhigh =>
    exact { hw with
      rf_le := hw.rf_le.trans hlow, bdt_le := fun _ => hhigh.trans (max_le (hw.bdt_le hv) le_rfl)
      floor_le := fun v hm => (hw.floor_le v hm).trans hlow
      bdt_eq := fun h => absurd hv (by simp [show w.rck.rtValid = false from h]) }
  | floor b hn hb hrf hv hd =>
    refine { hw with floor_le := ?_, rising := ?_, floor_day := ?_, fault := fun h => absurd h hn }
    · exact fun v hm => (List.mem_append.mp hm).elim (hw.floor_le v) fun h => by simpa [List.mem_singleton.mp h] using hb
    · show ((w.rck.rf :: w.rck.floorWrites) ++ [b]).Pairwise (· < ·)
      refine List.pairwise_append.mpr ⟨hw.rising, by simp, fun x hx y hy => ?_⟩
      obtain rfl := List.mem_singleton.mp hy
      exact (List.mem_cons.mp hx).elim (fun h => h ▸ hrf) (hv x)
    · exact fun v hm => (List.mem_append.mp hm).elim (hw.floor_day v) fun h => List.mem_singleton.mp h ▸ hd
  | floorDone v rest hf =>
    have hmem : v ∈ w.rck.floorWrites := by simp [hf]
    have hrest : ∀ x ∈ rest, x ∈ w.rck.floorWrites := fun x hx => by simp [hf, hx]
    obtain ⟨hlt, hrising⟩ := List.pairwise_cons.mp hw.rising
    rw [hf] at hrising
    exact { hw with
      rf_le := hw.floor_le v hmem, floor_le := fun x hx => hw.floor_le x (hrest x hx), rising := hrising
      rf_day := hw.floor_day v hmem, stored_day := hw.floor_day v hmem, floor_day := fun x hx => hw.floor_day x (hrest x hx)
      bdt_eq := fun hv => absurd (hw.floor_le v hmem) (by rw [hw.bdt_eq hv]; exact (hlt v hmem).not_ge)
      stored_le_rt := fun hv _ => (hw.floor_le v hmem).trans (hw.bdt_le hv), stored_le_rf := fun _ _ _ => le_rfl
      fault := fun hn => absurd (hw.fault hn).1 (by simp [hf]) }
  | losesFloors hn _ =>
    have hnil : w.rck.floorWrites = [] := (hw.fault hn).1
    exact { hw with
      rf_le := le_rfl, bdt_le := fun _ => Nat.zero_le _, floor_le := by simp [hnil], rising := by simp [hnil]
      rf_day := dvd_zero _, bdt_eq := fun _ => rfl, stored_le_rf := fun _ h => absurd hn h }
  | waitingDormant r h =>
    exact { hw with fault := fun hn => ⟨(hw.fault hn).1, (hw.fault hn).2.1, h.resolve_right (not_not.mpr hn)⟩ }
  | starting st h =>
    exact { hw with fault := fun hn => ⟨(hw.fault hn).1, h.resolve_right (not_not.mpr hn), (hw.fault hn).2.2⟩ }
  | _ => exact { hw with }

theorem restarts_clocksOrdered (hs : ClocksOrdered (watched s)) (h : Restarts c s t) : ClocksOrdered (watched t) := by
  obtain ⟨rf, es, hcut, hrf, -⟩ := watched_cutWrites s
  have hrck : (cutWrites s).rck = s.rck := congrArg Watched.rck hcut
  have hstored : (cutWrites s).store.rf = rf := congrArg Watched.storedRf hcut
  have hhead : (cutWrites s).store.header = s.store.header := congrArg Watched.header hcut
  obtain ⟨hday, hle⟩ := hs.cut_floor hrf
  cases h with
  | boot slot rt valid _ hrt =>
    rw [watched_boot, hstored, hhead]
    have hread : daySeconds ∣ (if s.store.header then rf else 0) := by split <;> simp [hday]
    have hlert : valid = true → (if s.store.header then rf else 0) ≤ rt := by
      obtain ⟨rfl, rfl⟩ | ⟨-, rfl⟩ := hrt
      · intro hv
        split
        · exact hle hv ‹_›
        · exact Nat.zero_le _
      · simp
    refine ⟨?_, le_rfl, hlert, by simp, by simp, hread, hday, by simp, fun _ => rfl, fun hv hh => ?_, fun _ _ hh => ?_,
      fun _ => ⟨rfl, rfl, rfl⟩⟩
    · obtain ⟨rfl, -⟩ | ⟨rfl, -⟩ := hrt
      · exact hs.rt_le
      · exact Nat.zero_le _
    · exact (if_pos (show s.store.header = true from hh)).ge.trans (hlert hv)
    · exact (if_pos (show s.store.header = true from hh)).ge
  | powerOff kept =>
    rw [watched_powerOff, hstored, hhead, hrck]
    refine ⟨?_, le_rfl, fun _ => Nat.zero_le _, by simp, by simp, dvd_zero _, hday, by simp, fun _ => rfl, fun hv hh => ?_,
      fun hp => absurd hp (by cases kept <;> simp), fun _ => ⟨rfl, rfl, rfl⟩⟩
    · cases kept
      · exact Nat.zero_le _
      · exact hs.rt_le
    · obtain ⟨rfl, hv⟩ := Bool.and_eq_true_iff.mp hv
      exact hle hv hh
  | lost =>
    rw [watched_powerOff]
    exact ⟨Nat.zero_le _, le_rfl, fun _ => Nat.zero_le _, by simp, by simp, dvd_zero _, hs.stored_day, by simp,
      fun _ => rfl, fun hv => absurd hv (by simp), fun hp => absurd hp (by simp), fun _ => ⟨rfl, rfl, rfl⟩⟩
  | same => exact hs

/-- Nothing but a failed read of a floor value makes RF fall while core power stays on. -/
theorem change_rf_le (h : Change c s₀ w w') (hw : ClocksOrdered w)
    (hc : c ≠ .storeReadFailed .floor ∧ c ≠ .storeReadFailed .highWater) : w.rck.rf ≤ w'.rck.rf := by
  cases h with
  | floorDone v rest hf => exact ((List.pairwise_cons.mp hw.rising).1 v (by simp [hf])).le
  | losesFloors _ hl => exact absurd hl (by simp [hc.1, hc.2])
  | _ => exact le_rfl

/-- Settles O50: `ClockInOrder` is kept by every single change, and RF rises with the floor values written. -/
theorem clocksStayInOrder : Obligations.ClocksStayInOrder := by
  unfold Obligations.ClocksStayInOrder
  refine ⟨fun s t hs h => ?_, fun s t hs _ h hwarm hcold hloss hfloor hhigh => ?_⟩
  · rw [← clocksOrdered_iff] at hs ⊢
    exact step_keeps (P := ClocksOrdered) (fun _ _ _ _ h₀ => change_clocksOrdered h₀) (fun _ _ _ => restarts_clocksOrdered)
      h hs
  · rw [← clocksOrdered_iff] at hs
    obtain hw | ⟨c, rest, hp, hx | hl⟩ := step_runs h
    · exact (congrArg (fun w => w.rck.rf) hw).ge
    · cases hx with
      | boot slot _ _ hc =>
        obtain rfl | ⟨kept, rfl⟩ := hc
        · exact absurd hp (hwarm slot rest)
        · exact absurd hp (hcold slot kept rest)
      | powerOff _ battery hc => exact absurd (hc ▸ hp) (hloss battery rest)
      | lost battery hc => exact absurd (hc ▸ hp) (hloss battery rest)
      | same => exact le_rfl
    · have hc : c ≠ .storeReadFailed .floor ∧ c ≠ .storeReadFailed .highWater :=
        ⟨fun hc => hfloor rest (hc ▸ hp), fun hc => hhigh rest (hc ▸ hp)⟩
      exact (hl.keeps (P := fun w => ClocksOrdered w ∧ s.rck.rf ≤ w.rck.rf)
        (fun w w' h ⟨ho, hle⟩ =>
          ⟨change_clocksOrdered (s₀ := { s with pending := rest }) hs h ho, hle.trans (change_rf_le h ho hc)⟩)
        ⟨hs, le_rfl⟩).2

/-! ### The gate -/

/-- Settles O10: the single change that gates a command carries the checks it has passed. -/
theorem gateAdmitsNoProtectedBlock : Obligations.GateAdmitsNoProtectedBlock := by
  unfold Obligations.GateAdmitsNoProtectedBlock
  refine ⟨fun s => rfl, fun s t h x hx hnew => ?_⟩
  have hgate {c : Instr} (u : State) (hl : Leads c u u t) (hu : u.mar.gated = s.mar.gated) : MayGate u x :=
    (hl.keeps (P := fun w => ∀ y ∈ w.gated, y ∈ s.mar.gated ∨ MayGate u y) (fun w w' hc hw => by
      cases hc with
      | gated l hsub => exact fun y hy => hw y (hsub y hy)
      | gate y hy => exact fun z hz => (List.mem_append.mp hz).elim (hw z) fun h => .inr (List.mem_singleton.mp h ▸ hy)
      | _ => exact hw) (fun y hy => .inl (hu ▸ hy)) x hx).resolve_left hnew
  obtain hw | ⟨c, rest, -, hr | hl⟩ := step_runs h
  · have hg : t.mar.gated = s.mar.gated := congrArg Watched.gated hw
    exact absurd (hg ▸ hx) hnew
  · cases hr with
    | same => exact absurd hx hnew
    | _ => exact absurd hx List.not_mem_nil
  · exact hgate { s with pending := rest } hl rfl

/-- The disposition ERASEs at the port are those of a state. -/
def ErasesOf (s : State) (w : Watched) : Prop :=
  w.guard = true →
    (∀ tag e, w.inFlight = some ⟨tag, .erase e⟩ → s.mar.inFlight = some ⟨tag, .erase e⟩ ∨ s.mar.grantedErase = some e) ∧
      ∀ e, w.grantedErase = some e → s.mar.grantedErase = some e

theorem change_erasesOf (hi : s₀.mar.inFlight = s.mar.inFlight) (hg : s₀.mar.grantedErase = s.mar.grantedErase)
    (h : Change c s₀ w w') (hw : ErasesOf s w) : ErasesOf s w' := by
  cases h with
  | release tag cmd d _ _ he =>
    intro hguard
    refine ⟨fun tag' e hf => ?_, (hw hguard).2⟩
    obtain ⟨-, rfl⟩ : tag = tag' ∧ cmd = .erase e := by simpa using hf
    exact absurd hguard (by simp [he e rfl])
  | releaseGranted tag e d hge =>
    intro hguard
    refine ⟨fun tag' e' hf => ?_, fun e' hf => absurd hf (by simp)⟩
    obtain ⟨-, rfl⟩ : tag = tag' ∧ e = e' := by simpa using hf
    exact .inr ((hw hguard).2 e hge)
  | grantErase e _ he => exact fun hguard => absurd hguard (by simp [show w.guard = false from he])
  | ended => exact fun hguard => ⟨fun _ _ hf => absurd hf (by simp), (hw hguard).2⟩
  | fault => exact fun hguard => ⟨(hw hguard).1, fun _ hf => absurd hf (by simp)⟩
  | guard b hb =>
    intro hguard
    obtain ⟨hfl, hge⟩ := hb hguard
    exact ⟨fun tag e hf => .inl (by rw [← hi, ← hfl]; exact hf), fun e hf => by rw [← hg, ← hge]; exact hf⟩
  | _ => exact hw

/-- Settles O9: the changes that grant an ERASE ask for a released GUARD_N, and the granted one goes to the media. -/
theorem guardHoldsBackErases : Obligations.GuardHoldsBackErases := by
  unfold Obligations.GuardHoldsBackErases
  intro s t h hs ht
  have hstart : ErasesOf s (watched s) := fun _ => ⟨fun _ _ => .inl, fun _ => id⟩
  suffices hkept : ErasesOf s (watched t) from hkept ht
  obtain hw | ⟨c, rest, -, hr | hl⟩ := step_runs h
  · rwa [hw]
  · cases hr with
    | same => exact hstart
    | _ =>
      exact fun _ => ⟨fun _ _ hf => absurd hf (Option.some_ne_none _).symm, fun _ hf => absurd hf (Option.some_ne_none _).symm⟩
  · exact hl.keeps (fun w w' => change_erasesOf rfl rfl) hstart

/-! ### The entries -/

/-- Entry `i`, while it is taken, is the entry of the start, with no lower expiry. -/
def StaysTaken (s : State) (i : Nat) (w : Watched) : Prop :=
  catWf w.work = true ∧ ((catGet w.work i).state ≠ .free →
    (entryAt s i).state ≠ .free ∧ (entryAt s i).expiry ≤ (catGet w.work i).expiry ∧
      SameIdentity (entryAt s i) (catGet w.work i))

theorem SameIdentity.trans {a b d : Entry} (h : SameIdentity a b) (g : SameIdentity b d) : SameIdentity a d := by
  obtain ⟨h1, h2, h3, h4, h5, h6⟩ := h
  obtain ⟨g1, g2, g3, g4, g5, g6⟩ := g
  exact ⟨g1.trans h1, g2.trans h2, g3.trans h3, g4.trans h4, g5.trans h5, g6.trans h6⟩

theorem change_staysTaken {i : Nat} (hi : i ∉ s₀.ctc.freeList) (h : Change c s₀ w w') (hw : StaysTaken s i w) :
    StaysTaken s i w' := by
  obtain ⟨hwf, hkept⟩ := hw
  cases h with
  | work j e he =>
    refine ⟨catWf_catSet j e hwf, fun hs => ?_⟩
    by_cases hij : i = j
    · subst hij
      simp only [catGet_catSet_self _ e hwf] at hs ⊢
      obtain ⟨ho, hle, hid⟩ := (he hwf).identity hs
      obtain ⟨hfree, hle', hid'⟩ := hkept ho
      exact ⟨hfree, hle'.trans hle, hid'.trans hid⟩
    · simp only [catGet_catSet_ne e hij] at hs ⊢
      exact hkept hs
  | owe j e he =>
    refine ⟨catWf_catSet j e hwf, fun hs => ?_⟩
    by_cases hij : i = j
    · subst hij
      exact absurd he (by simpa [catGet_catSet_self _ e hwf] using hs)
    · simp only [catGet_catSet_ne e hij] at hs ⊢
      exact hkept hs
  | accept j rest e _ hj =>
    refine ⟨catWf_catSet j e hwf, fun hs => ?_⟩
    have hij : i ≠ j := fun h => hi (h ▸ hj)
    simp only [catGet_catSet_ne e hij] at hs ⊢
    exact hkept hs
  | prepare => exact ⟨rfl, fun hs => absurd rfl hs⟩
  | _ => exact ⟨hwf, hkept⟩

/-- Settles O49: a single change of a taken entry keeps its identity and raises its expiry, and a freed index is not taken
again in the same step. -/
theorem expiryNeverFalls : Obligations.ExpiryNeverFalls := by
  unfold Obligations.ExpiryNeverFalls
  intro s t i hwf h hlist hwarm hcold _ ht
  have hstart : StaysTaken s i (watched s) := ⟨hwf, fun hs => ⟨hs, le_rfl, sameIdentity_refl _⟩⟩
  have hkept : (entryAt s i).expiry ≤ (entryAt t i).expiry ∧ SameIdentity (entryAt s i) (entryAt t i) := by
    obtain hw | ⟨c, rest, hp, hr | hl⟩ := step_runs h
    · exact ((hw ▸ hstart).2 ht).2
    · cases hr with
      | boot slot _ _ hc =>
        obtain rfl | ⟨kept, rfl⟩ := hc
        · exact absurd hp (hwarm slot rest)
        · exact absurd hp (hcold slot kept rest)
      | powerOff => exact absurd rfl ht
      | lost => exact absurd rfl ht
      | same => exact (hstart.2 ht).2
    · exact ((hl.keeps (fun w w' => change_staysTaken hlist) hstart).2 ht).2
  exact hkept

/-- Entry `i` has become RELEASABLE by a release of R74 alone. -/
def BecomesReleasable (c : Instr) (s : State) (i : Nat) (w : Watched) : Prop :=
  catWf w.work = true ∧ ((catGet w.work i).state = .releasable → Released c s i (catGet w.work i))

theorem freeEntry_not_releasable : freeEntry.state ≠ .releasable := by decide

theorem change_becomesReleasable {i : Nat} (hs : (entryAt s₀ i).state ≠ .releasable) (h : Change c s₀ w w')
    (hw : BecomesReleasable c s₀ i w) : BecomesReleasable c s₀ i w' := by
  obtain ⟨hwf, hrel⟩ := hw
  have hset (j : Nat) (e : Entry) (h : i = j → e.state = .releasable → Released c s₀ i e) :
      BecomesReleasable c s₀ i { w with work := catSet w.work j e } := by
    refine ⟨catWf_catSet j e hwf, fun he => ?_⟩
    by_cases hij : i = j
    · subst hij
      simp only [catGet_catSet_self _ e hwf] at he ⊢
      exact h rfl he
    · simp only [catGet_catSet_ne e hij] at he ⊢
      exact hrel he
  cases h with
  | work j e he =>
    refine hset j e fun hij hstate => ?_
    subst hij
    obtain ⟨ho, hexp | hr⟩ | hr := (he hwf).release hstate
    · obtain ⟨h1, h2, h3, h4⟩ := hrel ho
      exact ⟨h1, h2, hexp ▸ h3, h4⟩
    · exact absurd hr hs
    · exact hr
  | owe j e he => exact hset j e fun _ hstate => absurd (he ▸ hstate) (by decide)
  | accept j rest e _ _ he => exact hset j e fun _ hstate => absurd (he ▸ hstate) (by decide)
  | prepare => exact ⟨rfl, fun hstate => absurd hstate freeEntry_not_releasable⟩
  | _ => exact ⟨hwf, hrel⟩

theorem doubtStands_eq_false (h : doubtStands s = false) : s.hdu.doubt = ⟨false, false, false⟩ := by
  simp only [doubtStands, Bool.or_eq_false_iff] at h
  obtain ⟨⟨hstart, hloss⟩, hover⟩ := h
  exact congr (congr (congrArg Doubt.mk hstart) hloss) hover

/-- Settles O48: the one change that makes an entry RELEASABLE is that of the refresh visit, under R74. -/
theorem onlyRefreshVisitsRelease : Obligations.OnlyRefreshVisitsRelease := by
  unfold Obligations.OnlyRefreshVisitsRelease
  intro s t i hwf h hs ht
  obtain hw | ⟨c, rest, hp, hr | hl⟩ := step_runs h
  · have he : entryAt t i = entryAt s i := congrArg (fun w : Watched => catGet w.work i) hw
    exact absurd (he ▸ ht) hs
  · cases hr with
    | boot slot _ _ hc =>
      obtain rfl | ⟨kept, rfl⟩ := hc
      · exact .inl ⟨slot, rest, hp⟩
      · exact .inr (.inl ⟨slot, kept, rest, hp⟩)
    | powerOff => exact absurd ht freeEntry_not_releasable
    | lost => exact absurd ht freeEntry_not_releasable
    | same => exact absurd ht hs
  · have hstart : BecomesReleasable c { s with pending := rest } i (watched s) := ⟨hwf, fun he => absurd he hs⟩
    obtain ⟨rfl, hret, hexp, hold, hform, hholds, hdoubt, hnode, hwalk⟩ :=
      (hl.keeps (fun w w' => change_becomesReleasable hs) hstart).2 ht
    exact .inr (.inr ⟨⟨rest, hp⟩, hret, hexp, hold, hform, hholds, (holdsMatchByLeadingBits.1 s _).2.mp hholds, hdoubt,
      doubtStands_eq_false hdoubt, hnode, hwalk⟩)

/-! ### Right after a reset -/

/-- Settles O55: each law is checked on the reset state. -/
theorem lawsHoldAfterReset : Obligations.LawsHoldAfterReset := by
  unfold Obligations.LawsHoldAfterReset
  have hfree : FreeListInForm State.reset := ⟨.nil, fun _ hi => absurd hi List.not_mem_nil⟩
  have hpeers : PeersKept State.reset := ⟨rfl, freshPeers_self 0⟩
  have hclocks : ClockInOrder State.reset := by
    unfold ClockInOrder
    decide
  exact ⟨⟨rfl, rfl⟩, hfree, countsRanged_reset, balanceRanged_reset, mute_reset, queuesBounded_reset, listsBounded_reset,
    onePort_reset, hpeers, hclocks⟩

/-- Settles O1: by the definition of a step. -/
theorem stepTakesTheFront : Obligations.StepTakesTheFront := by
  unfold Obligations.StepTakesTheFront
  exact fun c rest s => rfl

end Sys2Proof.Machine
end

section
/-! PROOFS. The machine's steps: every command answers; an idle millisecond; and the part without core power. -/

namespace Sys2Proof.Machine

variable {s t : State}

/-! ### Every command answers -/

/-- A command has an outcome that is a next state. -/
def Goes (o : Host.Outcome State Fault Refusal) : Prop := ∃ t, o = .next t

theorem goes_next (t : State) : Goes (.next t) := ⟨t, rfl⟩

theorem goes_powered (s : State) (f : State → State) : Goes (powered s f) := ⟨_, rfl⟩

theorem goes_runRequest (i : Instr) (s : State) : Goes (runRequest i s) := by
  cases i <;> exact ⟨_, rfl⟩

theorem goes_runService (i : Instr) (s : State) : Goes (runService i s) := by
  cases i <;> exact ⟨_, rfl⟩

theorem goes_exec (c : Instr) (s : State) : Goes (exec c s) := by
  cases c with
  | corePowerLoss battery =>
    show Goes (execCorePowerLoss battery s)
    unfold execCorePowerLoss
    split <;> exact goes_next _
  | rtAdvance =>
    show Goes (execRtAdvance s)
    unfold execRtAdvance
    split <;> exact goes_next _
  | unknownRequestFrame bytes =>
    show Goes (execUnknownRequestFrame bytes s)
    unfold execUnknownRequestFrame
    split
    · exact goes_next s
    · exact goes_powered s _
    · exact goes_runRequest _ s
  | unknownServiceCommand bytes =>
    show Goes (execUnknownServiceCommand bytes s)
    unfold execUnknownServiceCommand
    split
    · exact goes_next s
    · exact goes_powered s _
    · exact goes_runService _ s
  | _ => exact ⟨_, rfl⟩

/-! ### An idle millisecond -/

theorem isDue_iff (s : State) (d : Option Nat) : isDue s d = true ↔ ∃ t, d = some t ∧ t ≤ s.coreMs := by
  cases d <;> simp [isDue]

theorem isDue_some (s : State) (d : Nat) : isDue s (some d) = true ↔ d ≤ s.coreMs := by simp [isDue]

theorem mem_dueIf {b : Bool} {i j : Instr} : j ∈ dueIf b i ↔ b = true ∧ j = i := by
  cases b <;> simp [dueIf]

theorem settleDue_iff (s : State) : settleDue s = true ↔ ∃ d, s.rwk.settle = .until d ∧ d ≤ s.coreMs := by
  unfold settleDue
  split <;> simp_all

theorem windowOver_iff (s : State) (id : NodeId) : windowOver s id = true ↔
    (peerAt s id).presence = .present ∧ ∃ h, (peerAt s id).heardAt = some h ∧ h + presenceWindow s ≤ s.coreMs := by
  unfold windowOver
  split <;> simp_all

/-- The commands that fall due, by kind. -/
theorem mem_dueCommands (u : State) (i : Instr) : i ∈ dueCommands u ↔
    i ∈ dueLine u ∨ (∃ id, windowOver u id = true ∧ i = .presenceWindowEnd id) ∨ i ∈ dueTimers u ∨ i ∈ dueCensus u := by
  have hw : (∃ id, (id ∈ allNodes ∧ windowOver u id = true) ∧ Instr.presenceWindowEnd id = i) ↔
      ∃ id, windowOver u id = true ∧ i = .presenceWindowEnd id := by
    simp only [mem_allNodes, true_and, eq_comm]
  simp only [dueCommands, List.mem_append, List.mem_map, List.mem_filter, hw, or_assoc]

theorem mem_dueLine (u : State) (i : Instr) : i ∈ dueLine u ↔
    u.pbc.awaitingEleven = true ∧ i = .elevenRecessiveBitsRead ∨
      (u.pbc.confinement = .silent ∧ 64 ≤ u.pbc.recoveryCount) ∧ i = .leaveSilent := by
  simp [dueLine, mem_dueIf]

theorem mem_dueTimers (u : State) (i : Instr) : i ∈ dueTimers u ↔
    isDue u u.pbc.beaconTimer = true ∧ i = .beaconTimerExpiry ∨ isDue u u.hdu.roundTimer = true ∧ i = .roundBoundary ∨
      settleDue u = true ∧ i = .settlePeriodEnd ∨ isDue u u.scs.tickTimer = true ∧ i = .scrubTick ∨
      isDue u u.mar.timer = true ∧ i = .mediaTimerExpiry := by
  simp [dueTimers, mem_dueIf]

theorem mem_dueCensus (u : State) (i : Instr) : i ∈ dueCensus u ↔
    (∃ a ∈ u.cnu.appeals, .appealTimerExpiry (BitVec.ofNat 17 a.index) = i ∧ isDue u a.timer = true ∨
      .appealRearm (BitVec.ofNat 17 a.index) = i ∧ a.appealed = true ∧ a.appealTime + claimLifetime u ≤ u.coreMs) ∨
    (∃ c ∈ u.cnu.candidates, .recruitTimerExpiry c.key = i ∧ isDue u c.timer = true ∨
      .candidateExpiry c.key = i ∧ c.lastWant + claimLifetime u ≤ u.coreMs) ∨
    ∃ c ∈ u.cnu.claims, .claimLifetimeExpiry c.key = i ∧ c.deadline ≤ u.coreMs := by
  simp only [dueCensus, List.mem_append, List.mem_flatMap, mem_dueIf, or_assoc, Bool.and_eq_true, rearmTime, unwantedTime,
    isDue_some, eq_comm (a := i), and_comm]

/-- The line of a quiet millisecond: no error sequence, no restrained wait, and a SILENT node has counted its bits. -/
def afterQuiet (b : Pbc) : Pbc :=
  if b.confinement = .silent then
    { b with
      errorSeq := none, restrainedWait := false
      runCount := (b.runCount + bitsPerMs b.bitRate) % 16
      recoveryCount := min 64 (b.recoveryCount + (b.runCount + bitsPerMs b.bitRate) / 16) }
  else { b with errorSeq := none, restrainedWait := false }

theorem quietLine_eq (s : State) : quietLine s = { s with pbc := afterQuiet s.pbc } := by
  by_cases h : s.pbc.confinement = .silent
  · simp [quietLine, afterQuiet, h, countRecessive]
  · simp [quietLine, afterQuiet, h]

theorem cursorWritten_eq (s : State) : cursorWritten s = { s with
    scs := { s.scs with cursorWrites := s.scs.cursorWrites.tail }
    store := { s.store with cursor := s.scs.cursorWrites.headD s.store.cursor } } := by
  unfold cursorWritten
  split <;> rename_i h <;> simp [h]
  rw [← h]

/-- The part after an idle millisecond, before the due commands are queued. -/
def quietMs (s : State) : State :=
  { s with
    coreMs := s.coreMs + 1, pbc := afterQuiet s.pbc
    scs := { s.scs with cursorWrites := s.scs.cursorWrites.tail }
    store := { s.store with cursor := s.scs.cursorWrites.headD s.store.cursor } }

theorem idle_eq (hp : Powered s) : idle s = { quietMs s with pending := s.pending ++ dueCommands (quietMs s) } := by
  have hq : cursorWritten (quietLine { s with coreMs := s.coreMs + 1 }) = quietMs s := by
    rw [quietLine_eq, cursorWritten_eq]
    rfl
  unfold idle
  rw [if_pos hp, hq]
  rfl

theorem afterQuiet_kept (b : Pbc) : afterQuiet b = { b with
    runCount := (afterQuiet b).runCount, recoveryCount := (afterQuiet b).recoveryCount
    errorSeq := none, restrainedWait := false } := by
  unfold afterQuiet
  split <;> rfl

theorem quietMs_pbc (s : State) : (quietMs s).pbc = afterQuiet s.pbc := rfl

theorem afterQuiet_recoveryCount_le {b : Pbc} (h : b.confinement = .silent) : (afterQuiet b).recoveryCount ≤ 64 := by
  unfold afterQuiet
  rw [if_pos h]
  exact min_le_left _ _

theorem peerAt_quietMs (s : State) (id : NodeId) : peerAt (quietMs s) id = peerAt s id := by
  show (afterQuiet s.pbc).peers.getD id.toNat {} = _
  rw [afterQuiet_kept]
  rfl

theorem step_idle (h : s.pending = []) : step s = .next (idle s) := by
  unfold step
  rw [h]

/-- Settles O2: every command runs to a next state, and the idle millisecond is `quietMs` with the due commands queued. -/
theorem everyStepAnswersAndIdlesAMillisecond : Obligations.EveryStepAnswersAndIdlesAMillisecond := by
  unfold Obligations.EveryStepAnswersAndIdlesAMillisecond
  refine ⟨fun s => ?_, fun s hs => ⟨fun hp => ?_, fun hp => ⟨_, step_idle hs, ?_⟩⟩⟩
  · unfold step
    split
    · exact goes_exec _ _
    · exact goes_next _
  · rw [step_idle hs]
    unfold idle
    rw [if_neg hp]
  · rw [idle_eq hp, hs, List.nil_append]
    refine ⟨rfl, ?_, fun hsil => ?_, ?_, ?_, fun hsil => ?_, ?_, ?_⟩
    · show (match s.scs.cursorWrites with
        | [] => s.scs.cursorWrites.tail = [] ∧ s.scs.cursorWrites.headD s.store.cursor = s.store.cursor
        | v :: rest => s.scs.cursorWrites.tail = rest ∧ s.scs.cursorWrites.headD s.store.cursor = v)
      cases s.scs.cursorWrites <;> exact ⟨rfl, rfl⟩
    · exact if_neg hsil
    · exact congrArg Pbc.errorSeq (afterQuiet_kept s.pbc)
    · exact congrArg Pbc.restrainedWait (afterQuiet_kept s.pbc)
    · show (afterQuiet s.pbc).recoveryCount = _ ∧ (afterQuiet s.pbc).runCount = _
      unfold afterQuiet
      rw [if_pos hsil]
      exact ⟨rfl, rfl⟩
    · have hpbc : { afterQuiet s.pbc with
          runCount := s.pbc.runCount, recoveryCount := s.pbc.recoveryCount
          errorSeq := s.pbc.errorSeq, restrainedWait := s.pbc.restrainedWait } = s.pbc := by
        unfold afterQuiet
        split <;> rfl
      show { s with
        pbc := { afterQuiet s.pbc with
          runCount := s.pbc.runCount, recoveryCount := s.pbc.recoveryCount
          errorSeq := s.pbc.errorSeq, restrainedWait := s.pbc.restrainedWait }
        pending := [] } = s
      rw [hpbc, ← hs]
    · have hb : (quietMs s).pbc.beaconTimer = s.pbc.beaconTimer := by
        rw [quietMs_pbc, afterQuiet_kept]
      have he : (quietMs s).pbc.awaitingEleven = s.pbc.awaitingEleven := by
        rw [quietMs_pbc, afterQuiet_kept]
      have hc : (quietMs s).pbc.confinement = s.pbc.confinement := by
        rw [quietMs_pbc, afterQuiet_kept]
      have hs : settleDue (quietMs s) = true ↔ ∃ d, s.rwk.settle = .until d ∧ d ≤ s.coreMs + 1 := settleDue_iff _
      have hr : (quietMs s).hdu.roundTimer = s.hdu.roundTimer := rfl
      have ht : (quietMs s).scs.tickTimer = s.scs.tickTimer := rfl
      have hm : (quietMs s).mar.timer = s.mar.timer := rfl
      have hn : (quietMs s).cnu = s.cnu := rfl
      have hl : claimLifetime (quietMs s) = claimLifetime s := rfl
      have hw : presenceWindow (quietMs s) = presenceWindow s := rfl
      have hms : (quietMs s).coreMs = s.coreMs + 1 := rfl
      simp only [mem_dueCommands, mem_dueLine, mem_dueTimers, mem_dueCensus, isDue_iff, windowOver_iff, hs, hb, he, hc, hr, ht,
        hm, hn, hl, hw, hms, peerAt_quietMs]
      refine ⟨by simp, by simp, by simp, by simp, by simp, fun id => by simp, fun key => by simp, fun key => by simp,
        fun key => by simp, fun i => by simp, fun i => by simp, by simp, ?_⟩
      have hle : s.pbc.confinement = .silent → (quietMs s).pbc.recoveryCount ≤ 64 := afterQuiet_recoveryCount_le
      simp only [reduceCtorEq, and_false, or_false, false_or, and_true, exists_false, false_and]
      exact and_congr_right fun hsil => ⟨fun h => le_antisymm (hle hsil) h, fun h => h.ge⟩

/-! ### Without core power -/

theorem powered_off (hp : ¬ Powered s) (f : State → State) : powered s f = .next s := by
  unfold powered
  rw [if_neg hp]

theorem runRequest_off (hp : ¬ Powered s) (i : Instr) : runRequest i s = .next s := by
  cases i <;> first | rfl | exact congrArg Host.Outcome.next (if_neg hp)

theorem runService_off (hp : ¬ Powered s) (i : Instr) : runService i s = .next s := by
  cases i <;> first | rfl | exact congrArg Host.Outcome.next (if_neg hp)

theorem execRtAdvance_off (hp : ¬ Powered s) : execRtAdvance s =
    .next (if s.pins.power = .offKept then { s with rck := { s.rck with rt := min rtMax (s.rck.rt + 1) } } else s) := by
  unfold execRtAdvance
  rcases h : s.pins.power
  · exact absurd h hp
  · rfl
  · rfl

theorem execUnknownRequestFrame_off (hp : ¬ Powered s) (bytes : List Byte) : execUnknownRequestFrame bytes s = .next s := by
  unfold execUnknownRequestFrame
  split
  · rfl
  · exact powered_off hp _
  · exact runRequest_off hp _

theorem execUnknownServiceCommand_off (hp : ¬ Powered s) (bytes : List Byte) :
    execUnknownServiceCommand bytes s = .next s := by
  unfold execUnknownServiceCommand
  split
  · rfl
  · exact powered_off hp _
  · exact runService_off hp _

/-- Settles O3: a command runs on a powered part alone, but for the pins, RT, and the losses and returns of power. -/
theorem unpoweredPartIsInert : Obligations.UnpoweredPartIsInert := by
  unfold Obligations.UnpoweredPartIsInert
  intro c s hp hcold hloss
  cases c with
  | coldStart slot kept => exact absurd rfl (hcold slot kept)
  | corePowerLoss battery => exact absurd rfl (hloss battery)
  | rtAdvance => rw [if_pos rfl]; exact execRtAdvance_off hp
  | unknownRequestFrame bytes => exact execUnknownRequestFrame_off hp bytes
  | unknownServiceCommand bytes => exact execUnknownServiceCommand_off hp bytes
  | _ => exact congrArg Host.Outcome.next (if_neg hp)

end Sys2Proof.Machine
end

section
/-! PROOFS. How a command that ends with the request link ends, from its own part: the answers it gives, and the checks of a
request. -/

namespace Sys2Proof.Machine

variable {c : Instr} {s u e : State} {tag kind : Byte}

/-! ### Answers given one after another -/

/-- The answers become ready, in their order. -/
def pushAnswers (as : List Answer) (s : State) : State :=
  { s with rli := { s.rli with answers := s.rli.answers ++ as.map (ReadyAnswer.mk s.rli.moment) } }

theorem pushAnswers_nil (s : State) : pushAnswers [] s = s := by simp [pushAnswers]

theorem pushAnswers_cons (a : Answer) (as : List Answer) (s : State) :
    pushAnswers (a :: as) s = pushAnswers as (pushAnswer a s) := by
  simp [pushAnswers, pushAnswer]

theorem answerReq_eq (r : Req) (o : Reply) (res : Results) (s : State) :
    answerReq r o res s = pushAnswers [⟨r, true, o, res⟩] s := rfl

theorem pushAnswers_given (as : List Answer) (s : State) (a : Answer) :
    Given (pushAnswers as s) a ↔ Given s a ∨ a ∈ as := by
  induction as generalizing s with
  | nil => simp [pushAnswers_nil]
  | cons b bs ih => rw [pushAnswers_cons, ih, pushAnswer_given, List.mem_cons, or_assoc]

theorem mediaTail_rli (s : State) : (mediaTail s).rli = s.rli := by
  have h := mediaTail_only s
  unfold MediaOnly at h
  have hl := congrArg State.rli h
  exact hl

theorem mediaTail_pushAnswers (as : List Answer) (s : State) :
    mediaTail (pushAnswers as s) = pushAnswers as (mediaTail s) := by
  show mediaTail (onLink { s.rli with answers := s.rli.answers ++ as.map (ReadyAnswer.mk s.rli.moment) } s) = _
  rw [mediaTail_onLink, pushAnswers, mediaTail_rli]
  rfl

theorem mediaTail_enterQueue (r : Req) (s : State) : mediaTail (enterQueue r s) = enterQueue r (mediaTail s) := by
  show mediaTail (onLink { s.rli with requests := s.rli.requests ++ [r] } s) = _
  rw [mediaTail_onLink, enterQueue, mediaTail_rli]
  rfl

/-! ### How commands end -/

/-- A command that gives these answers on a part otherwise left as `e`. -/
theorem ends_pushAnswers {as : List Answer} (hx : exec c s = .next (linkEnd (pushAnswers as e))) (htx : e.rli.tx = s.rli.tx)
    (ha : e.rli.answers = s.rli.answers) : Ends c s e as := by
  refine ends_linkEnd hx rfl rfl rfl rfl htx fun a => ?_
  rw [pushAnswers_given]
  simp only [Given, htx, ha]

/-- A command that gives no answer, on a part left as `e`, with the request link's part at its end. -/
theorem ends_linkEnd_same (hx : exec c s = .next (linkEnd e)) (hr : e.rli = s.rli) : Ends c s e [] :=
  ends_pushAnswers (as := []) (by rw [pushAnswers_nil, hx]) (by rw [hr]) (by rw [hr])

theorem answers_of {r : Req} {o : Reply} {res : Results}
    (hx : exec c s = .next (linkEnd (pushAnswers [⟨r, true, o, res⟩] (enterQueue r e)))) (hr : e.rli = s.rli) :
    Answers c s r o res e :=
  ends_pushAnswers hx (show e.rli.tx = _ by rw [hr]) (show e.rli.answers = _ by rw [hr])

theorem takes_of {r : Req} (hx : exec c s = .next (linkEnd (enterQueue r e))) (hr : e.rli = s.rli) : Takes c s r e :=
  ends_pushAnswers (as := []) (by rw [pushAnswers_nil, hx]) (show e.rli.tx = _ by rw [hr]) (show e.rli.answers = _ by rw [hr])

/-- As `answers_of`, from the part that the request's owner leaves. -/
theorem answers_eq {r : Req} {o : Reply} {res : Results} (hx : exec c s = .next (linkEnd u))
    (hu : u = pushAnswers [⟨r, true, o, res⟩] (enterQueue r e)) (hr : e.rli = s.rli) : Answers c s r o res e :=
  answers_of (hu ▸ hx) hr

theorem takes_eq {r : Req} (hx : exec c s = .next (linkEnd u)) (hu : u = enterQueue r e) (hr : e.rli = s.rli) :
    Takes c s r e :=
  takes_of (hu ▸ hx) hr

/-! ### The checks of a request -/

theorem firstFailing_cons_false (o : Reply × Results) (rest : List (Bool × Reply × Results)) {b : Bool} (h : b = false) :
    firstFailing ((b, o) :: rest) = firstFailing rest := by
  rw [firstFailing, if_neg (by simp [h])]

/-- The outcome of a request's checks: the first that fails answers, and one that passes them all is accepted. -/
def Checked (c : Instr) (s : State) (r : Req) (checks : List (Bool × Reply × Results)) (accepted : Prop) : Prop :=
  (∀ o res, firstFailing checks = some (o, res) → Refuses c s r o res) ∧ (firstFailing checks = none → accepted)

theorem request_checked {checks : State → List (Bool × Reply × Results)} {accept : Req → State → State} (h : Accepting s tag)
    (hx : exec c s = request tag kind true s fun r s => checked r (checks s) (accept r) s) :
    Checked c s ⟨tag, kind⟩ (checks (enterQueue ⟨tag, kind⟩ s))
      (exec c s = .next (linkEnd (accept ⟨tag, kind⟩ (enterQueue ⟨tag, kind⟩ s)))) := by
  rw [request_accepted h] at hx
  unfold checked at hx
  refine ⟨fun o res hf => ?_, fun hf => ?_⟩
  · rw [hf] at hx
    exact answers_of hx rfl
  · rw [hf] at hx
    exact hx

section Chains

variable {r : Req} {o : Reply} {res : Results} {rest : List (Bool × Reply × Results)} {accepted X Y P : Prop}

theorem Checked.nil (h : Checked c s r [] accepted) : accepted := h.2 rfl

/-- One check of the chain, with what its failing says. -/
theorem Checked.cons_of [Decidable P] {b : Bool} (h : Checked c s r ((b, o, res) :: rest) accepted) (hb : b = true ↔ P)
    (hY : P → Refuses c s r o res → Y) (hX : ¬ P → Checked c s r rest accepted → X) : if P then Y else X := by
  split
  · rename_i hP
    exact hY hP (h.1 o res (by rw [firstFailing, if_pos (hb.mpr hP)]))
  · rename_i hP
    have hrest : firstFailing ((b, o, res) :: rest) = firstFailing rest :=
      firstFailing_cons_false _ _ (by simpa using mt hb.mp hP)
    exact hX hP ⟨fun o' res' hf => h.1 o' res' (hrest ▸ hf), fun hf => h.2 (hrest ▸ hf)⟩

/-- One check of the chain. -/
theorem Checked.cons [Decidable P] {b : Bool} (h : Checked c s r ((b, o, res) :: rest) accepted) (hb : b = true ↔ P)
    (hX : ¬ P → Checked c s r rest accepted → X) : if P then Refuses c s r o res else X :=
  h.cons_of hb (fun _ => id) hX

/-- The first check of a request that needs the load walk ended (R15). -/
theorem Checked.afterLoading (h : Checked c s r (Machine.afterLoading s ++ rest) accepted)
    (hX : ¬ (s.ctc.node = .awaitingStart ∨ s.ctc.node = .loading) → Checked c s r rest accepted → X) :
    if s.ctc.node = .awaitingStart ∨ s.ctc.node = .loading then Refuses c s r .notReady (.node s.ctc.node) else X :=
  h.cons decide_eq_true_iff hX

/-- The first checks of a request that is taken in RUNNING alone. -/
theorem Checked.running (h : Checked c s r (runningOnly s ++ rest) accepted)
    (hX : s.ctc.node = .running → Checked c s r rest accepted → X) :
    if s.ctc.node = .awaitingStart ∨ s.ctc.node = .loading then Refuses c s r .notReady (.node s.ctc.node)
    else if s.ctc.node = .dormant ∨ s.ctc.node = .waking then Refuses c s r .notNow (.node s.ctc.node)
    else if s.ctc.node = .storeFault then Refuses c s r .storeFault .none
    else X :=
  h.cons decide_eq_true_iff fun h1 h => h.cons decide_eq_true_iff fun h2 h => h.cons decide_eq_true_iff fun h3 h =>
    hX (by
      rcases hn : s.ctc.node <;> simp_all) h

end Chains

end Sys2Proof.Machine
end

section
/-! PROOFS. The requests of the clock, of CNU's space, of EVU and of the transmitter. -/

namespace Sys2Proof.Machine

variable {c : Instr} {s u e : State} {tag kind : Byte}

/-! ### SET TIME and SET SPACE -/

/-- RT set and BDT recomputed, in a RUNNING node. -/
theorem takeTime_eq {time : Nat} {cfg : Settings} (r : Req) (hn : s.ctc.node ≠ .storeFault) (hc : s.ctc.inForce = some cfg)
    {bdt : Nat} (hb : bdt = boundedTime { s with rck := { s.rck with rt := time } } cfg.q) :
    takeTime r time s = answerReq r .done .none { s with rck := { s.rck with
      rt := time, rtValid := true, bdt := bdt
      floorWrites :=
        if s.rck.rf < bdt / 86400 * 86400 ∧ ∀ v ∈ s.rck.floorWrites, v < bdt / 86400 * 86400 then
          s.rck.floorWrites ++ [bdt / 86400 * 86400] else s.rck.floorWrites } } := by
  subst hb
  have hfloor (t : State) (ht : t.ctc.node ≠ .storeFault) : requestFloor t = { t with rck := { t.rck with floorWrites :=
      if t.rck.rf < t.rck.bdt / 86400 * 86400 ∧ ∀ v ∈ t.rck.floorWrites, v < t.rck.bdt / 86400 * 86400 then
        t.rck.floorWrites ++ [t.rck.bdt / 86400 * 86400] else t.rck.floorWrites } } := by
    unfold requestFloor dayAtOrBelow
    simp only [ht, ne_eq, not_false_eq_true, true_and, daySeconds]
    split <;> rfl
  unfold takeTime recomputeBdt
  simp only [hc, if_true]
  rw [hfloor]
  · rfl
  · exact hn

/-- Settles O17. -/
theorem setTimeAndSetSpace : Obligations.SetTimeAndSetSpace := by
  unfold Obligations.SetTimeAndSetSpace
  refine ⟨fun tag time s h c r hc hr => ?_, fun tag blocks s h c r hc hr => ?_⟩
  · subst hc hr
    have hch := request_checked (c := .setTime tag time) (kind := 0x02) (checks := setTimeChecks time.toNat)
      (accept := fun r => takeTime r time.toNat) h rfl
    refine Checked.running hch fun hn hch => ?_
    have hres : Results.node .running = .node s.ctc.node := by rw [hn]
    rw [hres]
    refine hch.cons Iff.rfl fun _ hch => hch.cons decide_eq_true_iff fun _ hch => ?_
    intro cfg bdt hcfg hbdt
    refine answers_of (hch.nil.trans ?_) rfl
    rw [takeTime_eq (s := enterQueue ⟨tag, 0x02⟩ s) (cfg := cfg) ⟨tag, 0x02⟩
      (show s.ctc.node ≠ _ by rw [hn]; decide) hcfg (hbdt.trans rfl)]
    rfl
  · subst hc hr
    have hch := request_checked (c := .setSpace tag blocks) (kind := 0x03) (checks := afterLoading)
      (accept := fun r => takeSpace r blocks.toNat) h rfl
    exact Checked.afterLoading (rest := []) hch fun _ hch => answers_of hch.nil rfl

end Sys2Proof.Machine
end

section
/-! PROOFS. The checks of LODGE and ADOPT, and the requests DORMANT and WAKE. -/

namespace Sys2Proof.Machine

variable {c : Instr} {s u e : State} {tag kind : Byte}

/-! ### The checks of LODGE and ADOPT -/

theorem findFullKey_isSome (s : State) (key : FullKey) :
    (findFullKey s key).isSome = true ↔ ∃ p ∈ s.ctc.work, p.2.state ≠ .free ∧ p.2.fullKey = key := by
  simp [findFullKey, List.find?_isSome, Entry.occupied]

/-- The index a full key is found at is that of an entry that holds it. -/
theorem findFullKey_mem {key : FullKey} (h : (findFullKey s key).isSome = true) :
    ∃ p ∈ s.ctc.work, p.2.state ≠ .free ∧ p.2.fullKey = key ∧ p.1 = (findFullKey s key).getD 0 := by
  obtain ⟨i, hi⟩ := Option.isSome_iff_exists.mp h
  obtain ⟨p, hp, rfl⟩ := Option.map_eq_some_iff.mp hi
  have hkey := List.find?_some hp
  simp only [Entry.occupied, Bool.and_eq_true, decide_eq_true_eq] at hkey
  exact ⟨p, List.mem_of_find?_eq_some hp, hkey.1, hkey.2, by rw [hi]; rfl⟩

theorem findKey_isSome {key : ShortKey} (h : s.ctc.loadStopped = false) :
    (findKey s key).isSome = true ↔ ∃ p ∈ s.ctc.work, p.2.state ≠ .free ∧ p.2.shortKey = key := by
  simp [findKey, readableCat, h, catFind, List.find?_isSome, Entry.occupied]

theorem sharesBlock_iff (a b : Extent) :
    sharesBlock a b = true ↔ a.first < b.first + b.count ∧ b.first < a.first + a.count := by
  unfold sharesBlock
  rw [Bool.and_eq_true, decide_eq_true_iff, decide_eq_true_iff]
  rfl

theorem selfOverlap_iff (es : List Extent) : selfOverlap es = true ↔
    ¬ es.Pairwise fun x y => x.first + x.count ≤ y.first ∨ y.first + y.count ≤ x.first := by
  induction es with
  | nil => simp [selfOverlap]
  | cons x xs ih =>
    simp only [selfOverlap, Bool.or_eq_true, List.any_eq_true, sharesBlock_iff, ih, List.pairwise_cons, not_and_or, not_forall]
    refine or_congr_left (exists_congr fun y => ?_)
    constructor
    · rintro ⟨hy, h1, h2⟩
      exact ⟨hy, by omega⟩
    · rintro ⟨hy, h⟩
      exact ⟨hy, by omega, by omega⟩

theorem overlapsMap_iff (s : State) (es : List Extent) : overlapsMap s es = true ↔
    (∃ x ∈ es, ∃ q ∈ s.exg.runs, q.first < x.first + x.count ∧ x.first < q.first + q.count) ∨
      ¬ es.Pairwise fun x y => x.first + x.count ≤ y.first ∨ y.first + y.count ≤ x.first := by
  simp only [overlapsMap, Bool.or_eq_true, selfOverlap_iff, List.any_eq_true, isProtected, sharesBlock_iff, Run.extent]

theorem beyondMedia_iff (s : State) (es : List Extent) :
    beyondMedia s es = true ↔ ∃ x ∈ es, mediaSize s < x.first + x.count := by
  unfold beyondMedia
  rw [List.any_eq_true]
  exact exists_congr fun x => and_congr_right fun _ => decide_eq_true_iff

/-- What passing every check of R17 comes to. -/
theorem lodgePasses_of_checks {key : FullKey} {custLen cls : Nat} {es : List Extent} (hn : s.ctc.node = .running)
    (hfield : ¬ (custLen < 1 ∨ 4 < custLen ∨ 15 < cls)) (hrt : ¬ s.rck.rtValid = false) (hguard : ¬ s.pins.guardAsserted = true)
    (hfull : ¬ ∃ p ∈ s.ctc.work, p.2.state ≠ .free ∧ p.2.fullKey = key)
    (hshort : ¬ ∃ p ∈ s.ctc.work, p.2.state ≠ .free ∧ p.2.shortKey = shortKeyOf key) (hfree : ¬ s.ctc.freeList = [])
    (hbeyond : ¬ ∃ x ∈ es, mediaSize s < x.first + x.count)
    (hoverlap : ¬ ((∃ x ∈ es, ∃ q ∈ s.exg.runs, q.first < x.first + x.count ∧ x.first < q.first + q.count) ∨
      ¬ es.Pairwise fun x y => x.first + x.count ≤ y.first ∨ y.first + y.count ≤ x.first)) :
    LodgePasses s key custLen cls es := by
  rw [not_or, not_not] at hoverlap
  obtain ⟨hruns, hpair⟩ := hoverlap
  refine ⟨hn, by omega, by omega, by omega, by simpa using hrt, by simpa using hguard, fun p hp ho => ⟨?_, ?_⟩, hfree,
    fun x hx => ?_, fun x hx q hq => ?_, hpair⟩
  · exact fun he => hfull ⟨p, hp, ho, he⟩
  · exact fun he => hshort ⟨p, hp, ho, he⟩
  · exact not_lt.mp fun hlt => hbeyond ⟨x, hx, hlt⟩
  · by_contra h
    exact hruns ⟨x, hx, q, hq, by omega⟩

/-- Settles O20: the checks of R17, one after the other. -/
theorem lodgeAndAdoptAreChecked : Obligations.LodgeAndAdoptAreChecked := by
  unfold Obligations.LodgeAndAdoptAreChecked
  intro tag key custLen cust cls time n slots s h hfit hload es hes c r hcr
  have hch : ∃ accepted, Checked c s r (lodgeChecks key custLen.toNat cls.toNat es s) accepted := by
    obtain ⟨rfl, rfl⟩ | ⟨rfl, rfl⟩ : c = .lodge tag key custLen cust cls n slots ∧ r = ⟨tag, 0x04⟩ ∨
        c = .adopt tag key custLen cust cls time n slots ∧ r = ⟨tag, 0x05⟩ := by simpa using hcr
    · exact ⟨_, request_checked (kind := 0x04) (checks := lodgeChecks key custLen.toNat cls.toNat es)
        (accept := fun r => acceptLodge r key (custodianOf custLen.toNat cust) cls.toNat es) h (by rw [hes, ← hfit]; rfl)⟩
    · exact ⟨_, request_checked (kind := 0x05) (checks := lodgeChecks key custLen.toNat cls.toNat es)
        (accept := fun r => acceptAdopt r key (custodianOf custLen.toNat cust) cls.toNat time.toNat es) h
        (by rw [hes, ← hfit]; rfl)⟩
  obtain ⟨accepted, hch⟩ := hch
  refine hch.running fun hn hch => hch.cons decide_eq_true_iff fun hfield hch => hch.cons (by simp) fun hrt hch =>
    hch.cons Iff.rfl fun hguard hch => hch.cons_of (findFullKey_isSome s key) (fun hsome hr => ?_) fun hfull hch => ?_
  · obtain ⟨p, hp, ho, hk, hi⟩ := findFullKey_mem ((findFullKey_isSome s key).mpr hsome)
    exact ⟨p, hp, ho, hk, hi ▸ hr⟩
  · have hstop : s.ctc.loadStopped = false := by
      by_contra hs
      have hfault := hload (by simpa using hs)
      rw [hn] at hfault
      exact absurd hfault (by decide)
    exact hch.cons (findKey_isSome hstop) fun hshort hch => hch.cons List.isEmpty_iff fun hfree hch =>
      hch.cons (beyondMedia_iff s es) fun hbeyond hch => hch.cons (overlapsMap_iff s es) fun hoverlap _ =>
      lodgePasses_of_checks hn hfield hrt hguard hfull hshort hfree hbeyond hoverlap

/-! ### DORMANT (R167 to R169) -/

/-- The work that stands in the way of DORMANT, but for a command in flight (R167 <2>). -/
def WorkWaits (s : State) : Prop :=
  (∃ p ∈ s.ctc.work, p.2.state = .lodging ∨ p.2.refill ≠ none) ∨ s.mar.erases ≠ [] ∨ s.mar.grantedErase ≠ none ∨
    s.mar.gated ≠ [] ∨ s.cnu.claims ≠ [] ∨ s.scs.waitingDormant ≠ none

/-- A host command or a disposition ERASE is in flight. -/
def HostOrEraseInFlight (s : State) : Prop :=
  ∃ n, (∃ h, s.mar.inFlight = some ⟨n, .host h⟩) ∨ ∃ e, s.mar.inFlight = some ⟨n, .erase e⟩

theorem eraseOutstanding_iff (s : State) : eraseOutstanding s = true ↔
    s.mar.erases ≠ [] ∨ s.mar.grantedErase ≠ none ∨ ∃ n e, s.mar.inFlight = some ⟨n, .erase e⟩ := by
  unfold eraseOutstanding
  rw [Bool.or_eq_true, Bool.or_eq_true, Option.isSome_iff_ne_none]
  split <;> simp_all

theorem hostOutstanding_iff (s : State) : hostOutstanding s = true ↔
    s.mar.gated ≠ [] ∨ ∃ n h, s.mar.inFlight = some ⟨n, .host h⟩ := by
  unfold hostOutstanding outstandingHost
  split <;> simp_all

theorem dormantBusy_iff (s : State) : dormantBusy s = true ↔ WorkWaits s ∨ HostOrEraseInFlight s := by
  have hwork : (s.ctc.work.any fun p => decide (p.2.state = .lodging) || p.2.refill.isSome) = true ↔
      ∃ p ∈ s.ctc.work, p.2.state = .lodging ∨ p.2.refill ≠ none := by
    simp [Option.isSome_iff_ne_none]
  have hclaims : (!s.cnu.claims.isEmpty) = true ↔ s.cnu.claims ≠ [] := by simp
  have hwait : s.scs.waitingDormant.isSome = true ↔ s.scs.waitingDormant ≠ none := Option.isSome_iff_ne_none
  unfold dormantBusy
  rw [Bool.or_eq_true, Bool.or_eq_true, Bool.or_eq_true, Bool.or_eq_true, hwork, eraseOutstanding_iff, hostOutstanding_iff,
    hclaims, hwait]
  constructor
  · rintro ((((h | h | h | ⟨n, e, h⟩) | h | ⟨n, x, h⟩) | h) | h)
    · exact .inl (.inl h)
    · exact .inl (.inr (.inl h))
    · exact .inl (.inr (.inr (.inl h)))
    · exact .inr ⟨n, .inr ⟨e, h⟩⟩
    · exact .inl (.inr (.inr (.inr (.inl h))))
    · exact .inr ⟨n, .inl ⟨x, h⟩⟩
    · exact .inl (.inr (.inr (.inr (.inr (.inl h)))))
    · exact .inl (.inr (.inr (.inr (.inr (.inr h)))))
  · rintro ((h | h | h | h | h | h) | ⟨n, ⟨x, h⟩ | ⟨e, h⟩⟩)
    · exact .inl (.inl (.inl (.inl h)))
    · exact .inl (.inl (.inl (.inr (.inl h))))
    · exact .inl (.inl (.inl (.inr (.inr (.inl h)))))
    · exact .inl (.inl (.inr (.inl h)))
    · exact .inl (.inr h)
    · exact .inr h
    · exact .inl (.inl (.inr (.inr ⟨n, x, h⟩)))
    · exact .inl (.inl (.inl (.inr (.inr (.inr ⟨n, e, h⟩)))))

theorem takeDormant_plain (r q : Req) (h : ∀ n i es key, s.mar.inFlight ≠ some ⟨n, .scrub i es key⟩) :
    takeDormant r (enterQueue q s) = pushAnswers [⟨r, true, .done, .none⟩] (enterQueue q { s with
      ctc := { s.ctc with node := .dormant }
      scs := { s.scs with mediaSleep := true, request := none, waitingDormant := none } }) := by
  unfold takeDormant
  split
  · rename_i n i es key hf
    exact absurd hf (h n i es key)
  · rfl

theorem takeDormant_waits (r q : Req) {n : Byte} {i : Nat} {es : List Extent} {key : FullKey}
    (hf : s.mar.inFlight = some ⟨n, .scrub i es key⟩) (ha : inForceOr s Settings.scrubAbort false = false) :
    takeDormant r (enterQueue q s) =
      enterQueue q { s with scs := { s.scs with waitingDormant := some r, request := none } } := by
  have ha' : inForceOr (enterQueue q s) Settings.scrubAbort false = false := ha
  unfold takeDormant
  rw [show (enterQueue q s).mar.inFlight = _ from hf]
  dsimp only
  rw [ha', if_neg (by decide)]
  rfl

theorem takeDormant_aborts (r q : Req) {n : Byte} {i : Nat} {es : List Extent} {key : FullKey}
    (hf : s.mar.inFlight = some ⟨n, .scrub i es key⟩) (ha : inForceOr s Settings.scrubAbort false = true)
    (hw : s.scs.waitingDormant = none) :
    takeDormant r (enterQueue q s) = pushAnswers [⟨r, true, .done, .none⟩] (enterQueue q { s with
      ctc := { s.ctc with node := .dormant }
      mar := { s.mar with inFlight := none, timer := none }
      pins := { s.pins with mediaAborts := s.pins.mediaAborts + 1 }
      scs := { s.scs with mediaSleep := true, request := none, waitingDormant := none } }) := by
  have ha' : inForceOr (enterQueue q s) Settings.scrubAbort false = true := ha
  unfold takeDormant
  rw [show (enterQueue q s).mar.inFlight = _ from hf]
  dsimp only
  rw [ha', if_pos rfl, endInFlight_aborted _ _ _ _ (enterQueue q s) hw]
  rfl

theorem dormant_outcomes (h : Accepting s tag) :
    if s.ctc.node = .awaitingStart ∨ s.ctc.node = .loading then
      Refuses (.dormant tag) s ⟨tag, 0x0F⟩ .notReady (.node s.ctc.node)
    else if s.ctc.node = .dormant ∨ s.ctc.node = .waking then
      Refuses (.dormant tag) s ⟨tag, 0x0F⟩ .notNow (.node s.ctc.node)
    else if s.ctc.node = .storeFault then Refuses (.dormant tag) s ⟨tag, 0x0F⟩ .storeFault .none
    else if (∃ p ∈ s.ctc.work, p.2.state = .lodging ∨ p.2.refill ≠ none) ∨ s.mar.erases ≠ [] ∨ s.mar.grantedErase ≠ none ∨
        s.mar.gated ≠ [] ∨ s.cnu.claims ≠ [] ∨ s.scs.waitingDormant ≠ none then
      Refuses (.dormant tag) s ⟨tag, 0x0F⟩ .busy .none
    else
      (∀ f, s.mar.inFlight = some f → (∀ v, f.cmd ≠ .verify v) → (∀ i es key, f.cmd ≠ .scrub i es key) →
        Refuses (.dormant tag) s ⟨tag, 0x0F⟩ .busy .none) ∧
      (s.scs.owed = true → (s.mar.inFlight = none ∨ ∃ n i es key, s.mar.inFlight = some ⟨n, .scrub i es key⟩) →
        Refuses (.dormant tag) s ⟨tag, 0x0F⟩ .scrubOwed .none) ∧
      (s.scs.owed = false → s.mar.inFlight = none →
        Answers (.dormant tag) s ⟨tag, 0x0F⟩ .done .none (mediaTail { s with
          ctc := { s.ctc with node := .dormant }
          scs := { s.scs with mediaSleep := true, request := none, waitingDormant := none } })) ∧
      (∀ n i es key, s.scs.owed = false → s.mar.inFlight = some ⟨n, .scrub i es key⟩ →
        (inForceOr s Settings.scrubAbort false = false →
          Takes (.dormant tag) s ⟨tag, 0x0F⟩
            (mediaTail { s with scs := { s.scs with waitingDormant := some ⟨tag, 0x0F⟩, request := none } })) ∧
        (inForceOr s Settings.scrubAbort false = true →
          Answers (.dormant tag) s ⟨tag, 0x0F⟩ .done .none (mediaTail { s with
            ctc := { s.ctc with node := .dormant }
            mar := { s.mar with inFlight := none, timer := none }
            pins := { s.pins with mediaAborts := s.pins.mediaAborts + 1 }
            scs := { s.scs with mediaSleep := true, request := none, waitingDormant := none } }))) := by
  have hch := request_checked (c := .dormant tag) (kind := 0x0F) (checks := fun s => runningOnly s ++ dormantChecks s)
    (accept := fun r s => mediaTail (takeDormant r s)) h rfl
  refine Checked.running hch fun _ hch => ?_
  have hbusy : dormantBusy s = true → Refuses (.dormant tag) s ⟨tag, 0x0F⟩ .busy .none := fun hb =>
    hch.1 _ _ (if_pos (show dormantBusy (enterQueue ⟨tag, 0x0F⟩ s) = true from hb))
  have howed (hb : dormantBusy s = false) (ho : s.scs.owed = true) :
      Refuses (.dormant tag) s ⟨tag, 0x0F⟩ .scrubOwed .none :=
    hch.1 _ _ ((firstFailing_cons_false _ _ (show dormantBusy (enterQueue ⟨tag, 0x0F⟩ s) = false from hb)).trans (if_pos ho))
  have haccept (hb : dormantBusy s = false) (ho : s.scs.owed = false) :=
    hch.2 ((firstFailing_cons_false _ _ (show dormantBusy (enterQueue ⟨tag, 0x0F⟩ s) = false from hb)).trans
      (firstFailing_cons_false _ _ ho))
  have hfree (hw : ¬ WorkWaits s) (hp : ∀ f, s.mar.inFlight = some f → ∃ i es key, f.cmd = .scrub i es key) :
      dormantBusy s = false := by
    rw [← Bool.not_eq_true, dormantBusy_iff, not_or]
    refine ⟨hw, ?_⟩
    rintro ⟨n, ⟨x, hx⟩ | ⟨x, hx⟩⟩ <;> obtain ⟨i, es, key, hk⟩ := hp _ hx <;> exact absurd hk (by simp)
  split
  · rename_i hw
    exact hbusy ((dormantBusy_iff s).mpr (.inl hw))
  · rename_i hw
    replace hw : ¬ WorkWaits s := hw
    have hwait : s.scs.waitingDormant = none := by
      by_contra hn
      exact hw (.inr (.inr (.inr (.inr (.inr hn)))))
    refine ⟨fun f hf hv hs => hbusy ((dormantBusy_iff s).mpr (.inr ?_)), fun ho hf => ?_, fun ho hf => ?_,
      fun n i es key ho hf => ⟨fun ha => ?_, fun ha => ?_⟩⟩
    · obtain ⟨n, cmd⟩ := f
      cases cmd with
      | host x => exact ⟨n, .inl ⟨x, hf⟩⟩
      | erase x => exact ⟨n, .inr ⟨x, hf⟩⟩
      | verify v => exact absurd rfl (hv v)
      | scrub i es key => exact absurd rfl (hs i es key)
    · refine howed (hfree hw fun f hff => ?_) ho
      obtain hn | ⟨n, i, es, key, hs⟩ := hf
      · exact absurd (hn ▸ hff) (by simp)
      · obtain rfl := Option.some.inj (hs.symm.trans hff)
        exact ⟨i, es, key, rfl⟩
    · have hx := haccept (hfree hw fun f hff => absurd (hf ▸ hff) (by simp)) ho
      rw [takeDormant_plain _ _ (by simp [hf]), mediaTail_pushAnswers, mediaTail_enterQueue] at hx
      exact answers_of hx (mediaTail_rli _)
    · have hx := haccept (hfree hw fun f hff => ⟨i, es, key, by rw [← Option.some.inj (hf.symm.trans hff)]⟩) ho
      rw [takeDormant_waits _ _ hf ha, mediaTail_enterQueue] at hx
      exact takes_of hx (mediaTail_rli _)
    · have hx := haccept (hfree hw fun f hff => ⟨i, es, key, by rw [← Option.some.inj (hf.symm.trans hff)]⟩) ho
      rw [takeDormant_aborts _ _ hf ha hwait, mediaTail_pushAnswers, mediaTail_enterQueue] at hx
      exact answers_of hx (mediaTail_rli _)

/-! ### WAKE (R171, R172) -/

theorem wakeComplete_ready (h : s.pins.mediaReady = true) (hn : s.ctc.node = .waking) {r : Req} (hw : s.scs.wake = some r) :
    wakeComplete s = answerReq r .done .none { s with
      ctc := { s.ctc with node := .running }, scs := { s.scs with wake := none } } := by
  unfold wakeComplete
  rw [if_pos ⟨hn, h⟩, hw]
  rfl

theorem wakeComplete_waits (h : ¬ (s.ctc.node = .waking ∧ s.pins.mediaReady = true)) : wakeComplete s = s := by
  unfold wakeComplete
  rw [if_neg h]

theorem takeWake_runs (r q : Req) (h : s.pins.mediaReady = true) :
    takeWake r (enterQueue q s) = pushAnswers [⟨r, true, .done, .none⟩] (enterQueue q { s with
      ctc := { s.ctc with node := .running }
      scs := { s.scs with mediaSleep := false, owed := decide (0 < s.scs.scrubbable), wake := none } }) := by
  unfold takeWake
  refine (wakeComplete_ready (r := r) ?_ ?_ ?_).trans ?_
  · exact h
  · rfl
  · rfl
  · rfl

theorem takeWake_waits (r q : Req) (h : s.pins.mediaReady = false) : takeWake r (enterQueue q s) = enterQueue q { s with
    ctc := { s.ctc with node := .waking }
    scs := { s.scs with mediaSleep := false, owed := decide (0 < s.scs.scrubbable), wake := some r } } := by
  unfold takeWake
  rw [wakeComplete_waits]
  · rfl
  · exact fun hw => absurd (show s.pins.mediaReady = true from hw.2) (by simp [h])

theorem wake_outcomes (h : Accepting s tag) :
    if s.ctc.node = .awaitingStart ∨ s.ctc.node = .loading then
      Refuses (.wake tag) s ⟨tag, 0x10⟩ .notReady (.node s.ctc.node)
    else if s.ctc.node = .running then Refuses (.wake tag) s ⟨tag, 0x10⟩ .done .none
    else if s.ctc.node = .waking then Refuses (.wake tag) s ⟨tag, 0x10⟩ .busy .none
    else if s.ctc.node = .storeFault then Refuses (.wake tag) s ⟨tag, 0x10⟩ .storeFault .none
    else if s.pins.mediaReady = false then
      Takes (.wake tag) s ⟨tag, 0x10⟩ (mediaTail { s with
        ctc := { s.ctc with node := .waking }
        scs := { s.scs with mediaSleep := false, owed := decide (0 < s.scs.scrubbable), wake := some ⟨tag, 0x10⟩ } })
    else
      Answers (.wake tag) s ⟨tag, 0x10⟩ .done .none (mediaTail { s with
        ctc := { s.ctc with node := .running }
        scs := { s.scs with mediaSleep := false, owed := decide (0 < s.scs.scrubbable), wake := none } }) := by
  have hch := request_checked (c := .wake tag) (kind := 0x10) (checks := wakeChecks)
    (accept := fun r s => mediaTail (takeWake r s)) h rfl
  refine Checked.afterLoading hch fun _ hch => hch.cons decide_eq_true_iff fun _ hch => hch.cons decide_eq_true_iff fun _ hch =>
    hch.cons decide_eq_true_iff fun _ hch => ?_
  have hx := hch.nil
  split
  · rename_i hr
    rw [takeWake_waits _ _ hr, mediaTail_enterQueue] at hx
    exact takes_of hx (mediaTail_rli _)
  · rename_i hr
    rw [takeWake_runs _ _ (by simpa using hr), mediaTail_pushAnswers, mediaTail_enterQueue] at hx
    exact answers_of hx (mediaTail_rli _)

/-- Settles O45. -/
theorem dormantAndWake : Obligations.DormantAndWake := by
  unfold Obligations.DormantAndWake
  refine ⟨fun tag s h c r hc hr => ?_, fun tag s h c r hc hr => ?_⟩
  · subst hc hr
    exact dormant_outcomes h
  · subst hc hr
    exact wake_outcomes h

end Sys2Proof.Machine
end

section
/-! PROOFS. The status block, the events, and the transmitter of the request link. -/

namespace Sys2Proof.Machine

variable {c : Instr} {s u e : State} {tag kind : Byte}

/-! ### The top code (R186) -/

theorem mem_allEvents (e : Event) : e ∈ allEvents := by cases e <;> decide

theorem allEvents_rising : allEvents.Pairwise fun a b => a.code < b.code := by decide

theorem isPending_iff (s : State) (e : Event) :
    isPending s e = true ↔ s.evu.flags.getLsbD e.bit = true ∧ s.evu.enables.getLsbD e.bit = true := by
  simp [isPending, latched]

theorem alertLow_iff (s : State) : alertLow s = true ↔ ∃ e, isPending s e = true := by
  simp [alertLow, mem_allEvents]

/-- In a list of rising codes, the first pending event is the one of the least code. -/
theorem find?_isPending_iff {l : List Event} (hl : l.Pairwise fun a b => a.code < b.code) (e : Event) :
    l.find? (isPending s) = some e ↔ e ∈ l ∧ isPending s e = true ∧ ∀ d ∈ l, d.code < e.code → isPending s d = false := by
  induction l with
  | nil => simp
  | cons a l ih =>
    obtain ⟨ha, hl⟩ := List.pairwise_cons.mp hl
    cases hp : isPending s a with
    | true =>
      rw [List.find?_cons_of_pos hp, Option.some_inj]
      constructor
      · rintro rfl
        refine ⟨List.mem_cons_self, hp, fun d hd hlt => ?_⟩
        obtain rfl | hd := List.mem_cons.mp hd
        · exact absurd hlt (lt_irrefl _)
        · exact absurd (ha d hd) hlt.not_gt
      · rintro ⟨he, -, hleast⟩
        obtain rfl | he := List.mem_cons.mp he
        · rfl
        · exact absurd hp (by simp [hleast a List.mem_cons_self (ha e he)])
    | false =>
      rw [List.find?_cons_of_neg (by simp [hp]), ih hl]
      constructor
      · rintro ⟨he, hpe, hleast⟩
        refine ⟨List.mem_cons_of_mem a he, hpe, fun d hd hlt => ?_⟩
        obtain rfl | hd := List.mem_cons.mp hd
        · exact hp
        · exact hleast d hd hlt
      · rintro ⟨he, hpe, hleast⟩
        obtain rfl | he := List.mem_cons.mp he
        · exact absurd hpe (by simp [hp])
        · exact ⟨he, hpe, fun d hd => hleast d (List.mem_cons_of_mem a hd)⟩

theorem Event.code_pos (e : Event) : 0 < e.code := by cases e <;> decide

theorem Event.code_injective (d e : Event) : d.code = e.code → d = e := by
  have hnodup : (allEvents.map Event.code).Nodup := by decide
  exact List.inj_on_of_nodup_map hnodup (mem_allEvents d) (mem_allEvents e)

theorem topCode_eq_iff (s : State) (e : Event) : topCode s = e.code ↔
    isPending s e = true ∧ ∀ d : Event, d.code < e.code → ¬ isPending s d = true := by
  have hfind := find?_isPending_iff (s := s) allEvents_rising
  have hiff : topCode s = e.code ↔ allEvents.find? (isPending s) = some e := by
    unfold topCode
    split
    · rename_i d hd
      exact ⟨fun h => Event.code_injective d e h ▸ hd, fun h => congrArg Event.code (Option.some.inj (hd.symm.trans h))⟩
    · rename_i hn
      exact ⟨fun h => absurd h e.code_pos.ne, fun h => absurd (hn.symm.trans h) (by simp)⟩
  rw [hiff, hfind e]
  simp [mem_allEvents]

theorem topCode_eq_zero_iff (s : State) : topCode s = 0 ↔ alertLow s = false := by
  unfold topCode
  split
  · rename_i d hd
    have ha : alertLow s = true := (alertLow_iff s).mpr ⟨d, List.find?_some hd⟩
    exact iff_of_false d.code_pos.ne' (by simp [ha])
  · rename_i hn
    refine iff_of_true rfl ?_
    rw [← Bool.not_eq_true, alertLow_iff]
    rintro ⟨e, he⟩
    exact List.find?_eq_none.mp hn e (mem_allEvents e) he

/-! ### The requests of EVU -/

/-- The block that `BlockShows` describes is the status block. -/
theorem eq_statusBlock {b : StatusBlock} (h : BlockShows s b) : b = statusBlock s := by
  obtain ⟨h1, h2, h3, h4, h5, h6, h7, h8, h9, h10, h11, h12, h13, h14, h15, h16, h17, h18, h19, h20⟩ := h
  cases b
  simp_all only [statusBlock, mediaSize]

/-- The flags that CLEAR EVENTS leaves: GUARD stays raised while GUARD_N is asserted (R148). -/
def clearedFlags (mask : EventMask) (s : State) : EventMask :=
  if s.pins.guardAsserted = true ∧ s.evu.flags.getLsbD 16 = true then (s.evu.flags &&& ~~~mask) ||| 0x010000
  else s.evu.flags &&& ~~~mask

theorem or_guard_eq {flags mask : EventMask} (hf : flags.getLsbD 16 = true) (hm : mask.getLsbD 16 = false) :
    (flags &&& ~~~mask) ||| 0x010000 = flags &&& ~~~mask := by
  apply BitVec.eq_of_getLsbD_eq
  intro i hi
  by_cases h16 : i = 16
  · subst h16
    rw [BitVec.getLsbD_or, BitVec.getLsbD_and, BitVec.getLsbD_not, hf, hm]
    rfl
  · have hbit : (0x010000 : EventMask).getLsbD i = false := by
      revert h16
      revert i
      decide
    rw [BitVec.getLsbD_or, hbit, Bool.or_false]

theorem clearFlags_eq (mask : EventMask) (s : State) :
    clearFlags mask s = { s with evu := { s.evu with flags := clearedFlags mask s } } := by
  have hbit : Event.guard.bit = 16 := rfl
  unfold clearFlags clearedFlags latched
  rw [hbit]
  cases s.pins.guardAsserted
  · rfl
  · cases hf : s.evu.flags.getLsbD 16
    · cases mask.getLsbD 16 <;> rfl
    · cases hm : mask.getLsbD 16
      · rw [or_guard_eq hf hm]
        simp only [Bool.and_false, Bool.false_and, Bool.false_eq_true, if_false, ite_self]
      · rfl

theorem topCode_congr {t : State} (h : t.evu = s.evu) : topCode t = topCode s := by
  unfold topCode
  have hp : isPending t = isPending s := by
    funext e
    unfold isPending latched
    rw [h]
  rw [hp]

theorem answerEvents_eq (r q : Req) (v : Evu) (s : State) : answerEvents r { enterQueue q s with evu := v } =
    pushAnswers [⟨r, true, .done, .events v.flags v.enables (topCode { s with evu := v })⟩]
      (enterQueue q { s with evu := v }) := by
  unfold answerEvents eventResults
  rw [topCode_congr (s := { s with evu := v }) rfl]
  rfl

theorem statusBlock_enterQueue (r : Req) (s : State) : statusBlock (enterQueue r s) = statusBlock s := by
  have ht : topCode (enterQueue r s) = topCode s := topCode_congr rfl
  unfold statusBlock
  rw [ht]
  rfl

/-- Settles O18. -/
theorem eventRequestsAndTopCode : Obligations.EventRequestsAndTopCode := by
  unfold Obligations.EventRequestsAndTopCode
  refine ⟨fun tag mask s h => ⟨fun b hb => ?_, fun flags hf e he => ?_, fun e he => ?_⟩, fun s => ⟨?_, ?_, fun e => ?_⟩⟩
  · have hx : execReadStatus tag s = _ := request_accepted (kind := 0x11) h
    rw [statusBlock_enterQueue, ← eq_statusBlock hb] at hx
    exact answers_of hx rfl
  · have hx : execClearEvents tag mask s = _ := request_accepted (kind := 0x12) h
    rw [clearFlags_eq] at hx
    subst hf he
    exact answers_eq hx (answerEvents_eq _ _ _ s) rfl
  · have hx : execSetEventEnables tag mask s = _ := request_accepted (kind := 0x13) h
    subst he
    exact answers_eq hx (answerEvents_eq _ _ _ s) rfl
  · simp only [alertLow_iff, isPending_iff]
  · exact topCode_eq_zero_iff s
  · simp only [topCode_eq_iff, isPending_iff]

/-! ### The transmitter (R173, R174, R183) -/

theorem SameButLink.trans {t : State} (h : SameButLink t u) (g : SameButLink u s) : SameButLink t s := by
  unfold SameButLink at h g ⊢
  have ht : ({ t with rli := s.rli, free := s.free } : State) =
      { ({ t with rli := u.rli, free := u.free } : State) with rli := s.rli, free := s.free } := rfl
  rw [ht, h, g]

theorem earliestFrames_eq_nil (s : State) : earliestFrames s = [] ↔ waitingFrames s = [] := by
  constructor
  · intro he
    by_contra hne
    have hsome : (waitingFrames s).argmin Prod.fst ≠ none := fun h => hne (List.argmin_eq_none.mp h)
    obtain ⟨w, hw⟩ := Option.ne_none_iff_exists'.mp hsome
    have hmin : (waitingFrames s).all (fun v => decide (w.1 ≤ v.1)) = true := by
      rw [List.all_eq_true]
      exact fun v hv => decide_eq_true (List.le_of_mem_argmin hv hw)
    have hmem : w ∈ earliestFrames s := List.mem_filter.mpr ⟨List.argmin_mem hw, hmin⟩
    exact List.not_mem_nil (he ▸ hmem)
  · intro hw
    simp [earliestFrames, hw]

theorem mem_earliestFrames {w : Nat × TxFrame} (h : w ∈ earliestFrames s) :
    w ∈ waitingFrames s ∧ ∀ v ∈ waitingFrames s, w.1 ≤ v.1 := by
  obtain ⟨hw, hall⟩ := List.mem_filter.mp h
  exact ⟨hw, by simpa using hall⟩

/-- An idle transmitter begins one of the frames that became ready earliest, if any waits. -/
theorem startTx_begins (h : s.rli.tx = none) : (waitingFrames s = [] ∧ startTx s = s) ∨
    ∃ w ∈ earliestFrames s, ∃ n, startTx s = beginTx w { s with free := n } := by
  unfold startTx
  rw [h]
  split
  · rename_i hs
    exact absurd hs (by simp)
  · split
    · rename_i he
      exact .inl ⟨(earliestFrames_eq_nil s).mp he, rfl⟩
    · rename_i w he
      exact .inr ⟨w, by simp [he], s.free, rfl⟩
    · rename_i w ws _ he
      refine .inr ⟨_, ?_, s.free + 1, rfl⟩
      have hlt : Config.firstToSend s.free % (ws.length + 1) < (w :: ws).length := Nat.mod_lt _ (by simp)
      rw [he, List.getD_eq_getElem _ _ hlt]
      exact List.getElem_mem hlt

theorem mem_waitingFrames_answer {n : Nat} {a : Answer} :
    (n, TxFrame.answer a) ∈ waitingFrames s ↔ ReadyAnswer.mk n a ∈ s.rli.answers := by
  unfold waitingFrames
  rw [List.mem_append, List.mem_map]
  constructor
  · rintro (⟨x, hx, he⟩ | h)
    · simp only [Prod.mk.injEq, TxFrame.answer.injEq] at he
      obtain ⟨rfl, rfl⟩ := he
      exact hx
    · split at h <;> simp at h
  · exact fun h => .inl ⟨_, h, rfl⟩

theorem mem_waitingFrames_notice {n : Nat} {x : Notice} :
    (n, TxFrame.notice x) ∈ waitingFrames s ↔ n = s.rli.noticeStamp ∧ s.rli.notices.head? = some x := by
  unfold waitingFrames
  rw [List.mem_append, List.mem_map]
  cases s.rli.notices <;> simp [eq_comm]

theorem waitingFrames_eq_nil (s : State) : waitingFrames s = [] ↔ s.rli.answers = [] ∧ s.rli.notices = [] := by
  unfold waitingFrames
  cases s.rli.notices <;> simp

/-- What the link's part at the end of a command sends, when the transmitter is idle. -/
theorem linkEnd_tx {t : State} (ht : t = linkEnd s) (h : s.rli.tx = none) :
    (t.rli.tx = none ↔ s.rli.answers = [] ∧ s.rli.notices = []) ∧
    (∀ a, t.rli.tx = some (.answer a) → ∃ n, ReadyAnswer.mk n a ∈ s.rli.answers ∧
      t.rli.answers = s.rli.answers.erase ⟨n, a⟩ ∧ (∀ x ∈ s.rli.answers, n ≤ x.stamp) ∧
      (s.rli.notices ≠ [] → n ≤ t.rli.noticeStamp)) ∧
    (∀ n, t.rli.tx = some (.notice n) → t.rli.answers = s.rli.answers ∧ s.rli.notices.head? = some n ∧
      ∀ x ∈ s.rli.answers, t.rli.noticeStamp ≤ x.stamp) := by
  obtain ⟨-, hnot, -, htx, hans⟩ := closeMoment_rli s
  have hstamp : (closeMoment s).rli.noticeStamp = s.rli.noticeStamp := by
    unfold closeMoment
    split <;> rfl
  unfold linkEnd at ht
  generalize closeMoment s = u at *
  rw [← hnot, ← hans]
  obtain ⟨hw, hs⟩ | ⟨⟨k, f⟩, hw, n, hs⟩ := startTx_begins (htx.trans h)
  · rw [hs] at ht
    subst ht
    have hidle : t.rli.tx = none := htx.trans h
    exact ⟨iff_of_true hidle ((waitingFrames_eq_nil t).mp hw), by simp [hidle], by simp [hidle]⟩
  · obtain ⟨hmem, hmin⟩ := mem_earliestFrames hw
    rw [hs] at ht
    have hsome : ¬ (u.rli.answers = [] ∧ u.rli.notices = []) := fun hn =>
      List.not_mem_nil ((waitingFrames_eq_nil u).mpr hn ▸ hmem)
    have hleast (x : ReadyAnswer) (hx : x ∈ u.rli.answers) : k ≤ x.stamp := hmin _ (mem_waitingFrames_answer.mpr hx)
    cases f with
    | answer a =>
      subst ht
      refine ⟨iff_of_false (by simp [beginTx]) hsome, fun b hb => ?_, fun b hb => absurd hb (by simp [beginTx])⟩
      obtain rfl : a = b := by simpa [beginTx] using hb
      refine ⟨k, mem_waitingFrames_answer.mp hmem, rfl, hleast, fun hn => ?_⟩
      obtain ⟨x, xs, hx⟩ := List.exists_cons_of_ne_nil hn
      exact hmin (_, .notice x) (mem_waitingFrames_notice.mpr ⟨rfl, by rw [hx]; rfl⟩)
    | notice x =>
      subst ht
      refine ⟨iff_of_false (by simp [beginTx]) hsome, fun b hb => absurd hb (by simp [beginTx]), fun b hb => ?_⟩
      obtain rfl : x = b := by simpa [beginTx] using hb
      obtain ⟨rfl, hhead⟩ := mem_waitingFrames_notice.mp hmem
      exact ⟨rfl, hhead, hleast⟩

theorem frameDone_same (f : TxFrame) (s : State) : SameButLink (frameDone f s) s := by
  unfold frameDone
  split <;> rfl

theorem frameDone_rli (f : TxFrame) (s : State) :
    (frameDone f s).rli.tx = none ∧ (frameDone f s).rli.starting = s.rli.starting ∧
      (frameDone f s).rli.answers = s.rli.answers := by
  unfold frameDone
  split <;> exact ⟨rfl, rfl, rfl⟩

/-- Settles O19. -/
theorem transmitterTakesTheNextFrame : Obligations.TransmitterTakesTheNextFrame := by
  unfold Obligations.TransmitterTakesTheNextFrame
  intro s hp
  have hx : exec .transmitFrameDone s = .next (match s.rli.tx with
      | some f => linkEnd (frameDone f s)
      | none => s) := congrArg Host.Outcome.next (if_pos hp)
  refine ⟨fun hnone => ?_, fun f hf => ⟨linkEnd (frameDone f s), ?_, ?_⟩⟩
  · rw [hx, hnone]
  · rw [hx, hf]
  · obtain ⟨hreq, hnot, hst, -, -⟩ := linkEnd_link (frameDone f s)
    obtain ⟨htx, hst', hans⟩ := frameDone_rli f s
    obtain ⟨hidle, hanswer, hnotice⟩ := linkEnd_tx rfl htx
    rw [hans] at hidle hanswer hnotice
    rw [← hnot] at hidle hanswer hnotice
    refine ⟨(linkEnd_same _).trans (frameDone_same f s), hst.trans hst', ?_, hidle, hanswer, hnotice⟩
    cases f with
    | answer a => exact ⟨hreq, hnot⟩
    | notice n => exact ⟨hreq, hnot⟩

end Sys2Proof.Machine
end

section
/-! PROOFS. The service line, and the raw frames of both links. -/

namespace Sys2Proof.Machine

variable {c : Instr} {s u e : State}

/-! ### The service line (R188 to R191) -/

/-- SLI takes a command. -/
theorem serve_taken (hp : Powered s) (hsvc : s.pins.svcEn = true) (hans : s.sli.answer = none) (f : State → State) :
    serve f s = .next (f s) := by
  unfold serve powered
  dsimp only
  rw [if_pos hp, hsvc, hans]
  rfl

/-- A command is ignored with SVC_EN low, or while an answer is being sent. -/
theorem serve_ignored (h : s.pins.svcEn = false ∨ s.sli.answer ≠ none) (f : State → State) : serve f s = .next s := by
  have hb : (s.pins.svcEn && s.sli.answer.isNone) = false := by
    obtain h | h := h
    · simp [h]
    · simp [Option.isNone_eq_false_iff, Option.isSome_iff_ne_none, h]
  unfold serve powered
  dsimp only
  rw [hb]
  split <;> rfl

theorem runService_ignored (h : s.pins.svcEn = false ∨ s.sli.answer ≠ none) (hc : isServiceCommand c = true) :
    exec c s = .next s := by
  cases c with
  | inspectStatus => exact (serve_ignored h _ : execInspectStatus s = _)
  | inspectEntry index => exact (serve_ignored h _ : execInspectEntry index s = _)
  | inspectKey key => exact (serve_ignored h _ : execInspectKey key s = _)
  | inspectHold slot => exact (serve_ignored h _ : execInspectHold slot s = _)
  | inspectPeer id => exact (serve_ignored h _ : execInspectPeer id s = _)
  | inspectClock => exact (serve_ignored h _ : execInspectClock s = _)
  | setWatch key => exact (serve_ignored h _ : execSetWatch key s = _)
  | clearWatch => exact (serve_ignored h _ : execClearWatch s = _)
  | _ => exact (Bool.false_ne_true hc).elim

theorem eq_inspection {b : Inspection} (h : InspectionShows s b) : b = inspection s := by
  obtain ⟨h1, h2, h3, h4, h5, h6, h7, h8, h9, h10, h11⟩ := h
  have hd : b.settleEnded = decide (s.rwk.settle = .ended) := by
    rw [Bool.eq_iff_iff, h7, decide_eq_true_iff]
  cases b
  simp_all only [inspection]

theorem indexFits_eq_false (index : BitVec 24) : (!indexFits index) = true ↔ 131071 < index.toNat := by
  rw [indexFits, Bool.not_eq_true', decide_eq_false_iff_not]
  exact ⟨fun h => Nat.lt_of_succ_le (not_lt.mp h), fun h => not_lt.mpr h⟩

/-- The search of INSPECT KEY, over the records that SLI reports (log 26). -/
theorem catFind_shown (s : State) (limit : Nat) (key : ShortKey) :
    catFind ((shownCat s).filter fun p => decide (p.1 < limit)) key =
      ((if s.ctc.node = .storeFault then s.ctc.work else s.store.entries).find? fun p =>
        decide (p.1 < limit) && decide (p.2.state ≠ .free) && decide (p.2.shortKey = key)).map Prod.fst := by
  unfold catFind shownCat Entry.occupied
  rw [List.find?_filter]
  simp only [Bool.and_assoc, Bool.decide_and, Bool.decide_eq_true]

theorem shownSlot_eq (s : State) (i : Nat) : shownSlot s i =
    if s.ctc.node = .storeFault then slotAt s i
    else match s.store.holds.getD i none with
      | none => none
      | some h => some (match slotAt s i with
        | some w => ⟨h, w.lifting, w.heard, w.sendOwed⟩
        | none => ⟨h, false, false, false⟩) := by
  unfold shownSlot
  cases s.store.holds.getD i none <;> rfl

/-- Settles O46. -/
theorem serviceCommandsInspect : Obligations.ServiceCommandsInspect := by
  unfold Obligations.ServiceCommandsInspect
  intro s hp
  refine ⟨fun c hc h => runService_ignored h hc, congrArg Host.Outcome.next (if_pos hp), ?_⟩
  intro hsvc hans answered hanswered limit hlimit changing hchanging shown hshown
  have hserve := serve_taken hp hsvc hans
  have hsvcAnswer (ch : Bool) (o : Reply) (b : SvcBody) : svcAnswer ch o b s = answered ch o b := (hanswered ch o b).symm
  have hlim : shownLimit s = limit := by
    rw [hlimit]
    rfl
  have hch : entryChanging s = changing := by
    funext i
    rw [Bool.eq_iff_iff, entryChanging_iff, hchanging]
  have hsh : shownEntry = shown := by
    funext e
    rw [shownEntry_eq, hshown]
  have hentry (i : Nat) : answerEntry i s = answered (changing i) .done
      (.entry i (shown (catGet (if s.ctc.node = .storeFault then s.ctc.work else s.store.entries) i))) := by
    unfold answerEntry
    rw [hsvcAnswer, hch, hsh]
    rfl
  refine ⟨fun b r hb hr => ?_, ?_, fun index => ?_, fun key => ?_, fun slot => ?_, fun id => ?_, fun key => ?_, ?_⟩
  · rw [eq_statusBlock hb, eq_inspection hr, ← hsvcAnswer]
    exact (hserve _ : execInspectStatus s = _)
  · rw [← hsvcAnswer]
    exact (hserve _ : execInspectClock s = _)
  · refine (hserve _ : execInspectEntry index s = _).trans (congrArg Host.Outcome.next ?_)
    simp only [indexFits_eq_false, hsvcAnswer, hlim, hentry]
  · refine (hserve _ : execInspectKey key s = _).trans (congrArg Host.Outcome.next ?_)
    simp only [hsvcAnswer, hlim, hentry, catFind_shown]
    cases ((if s.ctc.node = .storeFault then s.ctc.work else s.store.entries).find? fun p =>
      decide (p.1 < limit) && decide (p.2.state ≠ .free) && decide (p.2.shortKey = key)) <;> rfl
  · refine (hserve _ : execInspectHold slot s = _).trans (congrArg Host.Outcome.next ?_)
    simp only [hsvcAnswer, shownSlot_eq] <;> rfl
  · refine (hserve _ : execInspectPeer id s = _).trans (congrArg Host.Outcome.next ?_)
    simp only [hsvcAnswer]
  · exact (hserve _ : execSetWatch key s = _)
  · exact (hserve _ : execClearWatch s = _)

/-! ### Raw frames (log 10) -/

theorem requestOf_isRequest {tag kind : Byte} {b : List Byte} {i : Instr} (h : requestOf tag kind b = some i) :
    (requestOfCommand i).isSome = true := by
  unfold requestOf at h
  split at h
  all_goals first
    | obtain rfl := Option.some.inj h
      rfl
    | exact absurd h (by simp)

theorem svcCommandOf_isService {kind : Byte} {b : List Byte} {i : Instr} (h : svcCommandOf kind b = some i) :
    isServiceCommand i = true := by
  unfold svcCommandOf at h
  split at h
  all_goals first
    | obtain rfl := Option.some.inj h
      rfl
    | exact absurd h (by simp)

theorem readLinkFrame_request {bytes : List Byte} {i : Instr} (h : readLinkFrame bytes = .request i) :
    (requestOfCommand i).isSome = true := by
  unfold readLinkFrame at h
  dsimp only at h
  repeat' split at h
  all_goals first
    | obtain rfl := LinkRead.request.inj h
      exact requestOf_isRequest ‹_›
    | exact absurd h (by simp)

theorem readLinkFrame_badField {bytes : List Byte} {tag kind : Byte} (h : readLinkFrame bytes = .badField tag kind) :
    tag ≠ 0 := by
  unfold readLinkFrame at h
  dsimp only at h
  repeat' split at h
  all_goals first
    | obtain ⟨rfl, -⟩ := LinkRead.badField.inj h
      assumption
    | exact absurd h (by simp)

theorem readSvcFrame_command {bytes : List Byte} {i : Instr} (h : readSvcFrame bytes = .command i) :
    isServiceCommand i = true := by
  unfold readSvcFrame at h
  dsimp only at h
  repeat' split at h
  all_goals first
    | obtain rfl := SvcRead.command.inj h
      exact svcCommandOf_isService ‹_›
    | exact absurd h (by simp)

/-- Settles O47. -/
theorem rawFramesAreRead : Obligations.RawFramesAreRead := by
  unfold Obligations.RawFramesAreRead
  intro bytes s hp
  have hlink : exec (.unknownRequestFrame bytes) s = execUnknownRequestFrame bytes s := rfl
  have hsvc : exec (.unknownServiceCommand bytes) s = execUnknownServiceCommand bytes s := rfl
  unfold execUnknownRequestFrame at hlink
  unfold execUnknownServiceCommand at hsvc
  refine ⟨fun h => ?_, fun tag kind h => ⟨readLinkFrame_badField h, ?_⟩, fun i h => ⟨?_, readLinkFrame_request h⟩, fun h => ?_,
    fun h hen hans => ?_, fun i h => ⟨?_, readSvcFrame_command h⟩⟩
  · rw [hlink, h]
  · rw [h] at hlink
    exact ends_pushAnswers (hlink.trans (congrArg Host.Outcome.next (if_pos hp))) rfl rfl
  · rw [hlink, h, exec_eq_runRequest (readLinkFrame_request h)]
  · rw [hsvc, h]
  · rw [hsvc, h]
    exact serve_taken hp hen hans _
  · rw [hsvc, h, exec_eq_runService (readSvcFrame_command h)]

end Sys2Proof.Machine
end

section
/-! PROOFS. Attempts and arbitration on the line, the node's timers and BEACON offers, and the clocks. -/

namespace Sys2Proof.Machine

variable {c : Instr} {s u e : State}

/-- A powered command runs its function. -/
theorem powered_on (hp : Powered s) (f : State → State) : powered s f = .next (f s) := by
  unfold powered
  rw [if_pos hp]

/-! ### Arbitration (R85, R91) -/

theorem fieldBits_succ (w x : Nat) : fieldBits (w + 1) x = x.testBit w :: fieldBits w x := by
  unfold fieldBits
  rw [List.range_succ_eq_map, List.map_cons, List.map_map]
  congr 1
  refine List.map_congr_left fun i _ => ?_
  show x.testBit (w + 1 - 1 - (i + 1)) = x.testBit (w - 1 - i)
  congr 1
  omega

/-- On the line the smaller value wins, bit by bit. -/
theorem losesBits_iff (w mine other : Nat) :
    losesBits (fieldBits w mine) (fieldBits w other) = true ↔ other % 2 ^ w < mine % 2 ^ w := by
  induction w with
  | zero => simp [fieldBits, losesBits, Nat.mod_one]
  | succ w ih =>
    have hm : mine % 2 ^ w < 2 ^ w := Nat.mod_lt _ (Nat.two_pow_pos w)
    have ho : other % 2 ^ w < 2 ^ w := Nat.mod_lt _ (Nat.two_pow_pos w)
    rw [fieldBits_succ, fieldBits_succ, losesBits, Nat.mod_pow_succ, Nat.mod_pow_succ, Nat.testBit_eq_decide_div_mod_eq,
      Nat.testBit_eq_decide_div_mod_eq]
    obtain hmb | hmb := Nat.mod_two_eq_zero_or_one (mine / 2 ^ w) <;>
      obtain hob | hob := Nat.mod_two_eq_zero_or_one (other / 2 ^ w) <;>
      simp [hmb, hob, ih] <;> omega

theorem losesArbitration_iff (mine other : BitVec 7) : losesArbitration mine other = true ↔
    other.toNat < mine.toNat ∨ other = mine ∧ mine.toNat ≤ 1 := by
  have hm := mine.isLt
  have ho := other.isLt
  simp only [losesArbitration, fillInField, Bool.or_eq_true, losesBits_iff, Bool.and_eq_true, decide_eq_true_eq,
    Nat.mod_eq_of_lt hm, Nat.mod_eq_of_lt ho, eq_comm (a := mine)]

theorem arbitrationValue_toNat (kind : BitVec 3) (id : NodeId) :
    (arbitrationValue kind id).toNat = 16 * kind.toNat + id.toNat := by
  rw [arbitrationValue, BitVec.toNat_append, ← Nat.shiftLeft_add_eq_or_of_lt id.isLt, Nat.shiftLeft_eq, Nat.mul_comm]

/-- Settles O31. -/
theorem attemptsAndArbitration : Obligations.AttemptsAndArbitration := by
  unfold Obligations.AttemptsAndArbitration
  refine ⟨fun s hp => ?_, losesArbitration_iff, fun winner s hp => ?_⟩
  · have hx : exec .attemptStart s = _ := powered_on hp _
    refine ⟨fun h => ?_, fun q qs f h11 hwait hrate hatt hq hf => ?_⟩
    · rw [hx]
      split
      · rename_i hmay
        simp only [mayAttempt, readsFrames, Bool.and_eq_true, Bool.not_eq_true', Option.isNone_iff_eq_none] at hmay
        obtain ⟨⟨⟨h11, hrate⟩, hatt⟩, hwait⟩ := hmay
        simp only [h11, hwait, hrate, hatt, Bool.false_eq_true, ne_eq, not_true_eq_false, false_or] at h
        rw [h]
      · rfl
    · have hmay : mayAttempt s = true := by simp [mayAttempt, readsFrames, h11, hrate, hatt, hwait]
      have hframe : attemptFrame s q = f := by
        unfold attemptFrame
        split <;> rename_i hc <;> rw [hc] at hf <;> exact hf.symm
      rw [hx, hmay, if_pos rfl, hq]
      dsimp only
      rw [hframe]
  · have hx : exec (.arbitrationLost winner) s = _ := (powered_on hp _ : execArbitrationLost winner s = _)
    refine ⟨fun h => by rw [hx, h], fun f own hatt hown => ?_⟩
    rw [hx, hatt]
    dsimp only
    have hiff : losesArbitration (arbitrationValue (kindOf f) s.pbc.ownId) winner = true ↔
        winner.toNat < own ∨ winner.toNat = own ∧ own ≤ 1 := by
      rw [losesArbitration_iff, ← BitVec.toNat_inj, arbitrationValue_toNat, ← hown]
    simp only [hiff, endAttempt]

/-! ### The node's timers (R82, R117 to R119, R160) -/

theorem inForceOr_some {α : Type} {cfg : Settings} (h : s.ctc.inForce = some cfg) (f : Settings → α) (d : α) :
    inForceOr s f d = f cfg := by
  unfold inForceOr
  rw [h]

theorem any_isBeacon (q : List SendItem) : q.any SendItem.isBeacon = true ↔ ∃ x ∈ q, x.content = .beacon := by
  simp [SendItem.isBeacon]

theorem any_isBeacon_inAttempt (q : List SendItem) :
    (q.any fun i => i.isBeacon && i.inAttempt) = true ↔ ∃ x ∈ q, x.content = .beacon ∧ x.inAttempt = true := by
  simp [SendItem.isBeacon]

theorem SendItem.kind_le (q : SendItem) : q.kind ≤ 6 := by
  unfold SendItem.kind
  split
  · decide
  · rename_i f _
    cases f <;> simp [kindOf]

/-- A BEACON stands behind every frame (R95). -/
theorem insertSend_beacon (l : List SendItem) : insertSend { content := .beacon } l = l ++ [{ content := .beacon }] := by
  induction l with
  | nil => rfl
  | cons q qs ih =>
    have hk : ¬ ({ content := .beacon } : SendItem).kind < q.kind := BitVec.not_lt.mpr q.kind_le
    rw [insertSend, if_neg hk, ih, List.cons_append]

theorem offerBeacon_closed (h : s.pbc.dupId = true ∨ s.pbc.confinement = .silent ∨ s.pbc.sendOpen = false) :
    offerBeacon s = s := by
  unfold offerBeacon
  rw [if_pos (by simpa using h)]

/-- What the beacon source's offer makes of an open Send Queue (R96, R119). -/
theorem offerBeacon_open (hd : s.pbc.dupId = false) (hs : s.pbc.confinement ≠ .silent) (ho : s.pbc.sendOpen = true) :
    offerBeacon s =
      if ∃ x ∈ s.pbc.sendQueue, x.content = .beacon ∧ x.inAttempt = true then
        { s with pbc := { s.pbc with heldBeacon := true } }
      else if ∃ x ∈ s.pbc.sendQueue, x.content = .beacon then s
      else if s.pbc.sendQueue.length < 16 then
        { s with pbc := { s.pbc with sendQueue := s.pbc.sendQueue ++ [{ content := .beacon }] } }
      else s := by
  have hcan : canOffer s = true ↔ s.pbc.sendQueue.length < 16 := by simp [canOffer, hd, hs, ho]
  unfold offerBeacon
  rw [if_neg (by simp [hd, hs, ho])]
  simp only [any_isBeacon, any_isBeacon_inAttempt, hcan, enqueue, insertSend_beacon]

/-- Settles O39. -/
theorem timersAndBeaconOffers : Obligations.TimersAndBeaconOffers := by
  unfold Obligations.TimersAndBeaconOffers
  refine ⟨fun s hp => ⟨fun h => ?_, fun cfg hcfg hne => ?_, fun id h hpres hheard hle => ?_, fun id h => ?_, fun d hd => ?_,
    fun h => ?_, fun h => ?_, fun cfg scs hcfg hne hscs => ?_⟩, fun s => ⟨offerBeacon_closed, fun hd hs ho => ?_⟩⟩
  · have hx : exec .beaconTimerExpiry s = _ := powered_on hp _
    rw [hx, h]
    rfl
  · have hx : exec .beaconTimerExpiry s = _ := powered_on hp _
    rw [hx, if_pos (Option.isSome_iff_ne_none.mpr hne), inForceOr_some hcfg]
    rfl
  · have hx : exec (.presenceWindowEnd id) s = _ := powered_on hp _
    rw [hx, if_pos ((windowOver_iff s id).mpr ⟨hpres, h, hheard, hle⟩)]
    rfl
  · have hx : exec (.presenceWindowEnd id) s = _ := powered_on hp _
    rw [hx, if_neg]
    rw [windowOver_iff]
    rintro ⟨hpres, w, hw, hle⟩
    exact h.elim (fun hn => hn hpres) fun hlt => absurd hle (hlt w hw).not_ge
  · have hx : exec .settlePeriodEnd s = _ := (powered_on hp _ : execSettlePeriodEnd s = _)
    rw [hx, hd]
  · have hx : exec .settlePeriodEnd s = _ := (powered_on hp _ : execSettlePeriodEnd s = _)
    rw [hx]
    split
    · rename_i d hd
      exact absurd hd (h d)
    · rfl
  · have hx : exec .scrubTick s = _ := powered_on hp _
    rw [hx, h]
    rfl
  · have hx : exec .scrubTick s = _ := powered_on hp _
    rw [hx, if_pos (Option.isSome_iff_ne_none.mpr hne), inForceOr_some hcfg, hscs]
    unfold tickBalance
    rfl
  · rw [offerBeacon_open hd hs ho]
    refine ⟨fun h => if_pos h, fun h hnone => ?_, fun h hlen => ?_, fun h hlen => ?_⟩
    · rw [if_neg, if_pos h]
      rintro ⟨q, hq, hc, ha⟩
      exact absurd ha (by simp [hnone q hq hc])
    · rw [if_neg, if_neg, if_neg (Nat.not_lt.mpr hlen)]
      · rintro ⟨q, hq, hc⟩
        exact h q hq hc
      · rintro ⟨q, hq, hc, -⟩
        exact h q hq hc
    · rw [if_neg, if_neg, if_pos hlen]
      · rintro ⟨q, hq, hc⟩
        exact h q hq hc
      · rintro ⟨q, hq, hc, -⟩
        exact h q hq hc

end Sys2Proof.Machine
end

section
/-! PROOFS. The clocks: the bounded time as the greatest time a quorum has reached, and the advance of RT and of the floor. -/

namespace Sys2Proof.Machine

variable {c : Instr} {s u e : State}

/-! ### The Q-th largest clock (R42) -/

theorem perm_insertLargest (x : Nat) (l : List Nat) : (insertLargest x l).Perm (x :: l) := by
  induction l with
  | nil => exact .refl _
  | cons y ys ih =>
    unfold insertLargest
    split
    · exact .refl _
    · exact (ih.cons y).trans (.swap x y ys)

theorem perm_sortLargest (l : List Nat) : (sortLargest l).Perm l := by
  induction l with
  | nil => exact .refl _
  | cons x xs ih => exact (perm_insertLargest x _).trans (ih.cons x)

theorem pairwise_insertLargest {x : Nat} {l : List Nat} (h : l.Pairwise (· ≥ ·)) :
    (insertLargest x l).Pairwise (· ≥ ·) := by
  induction l with
  | nil => simp [insertLargest]
  | cons y ys ih =>
    obtain ⟨hy, hys⟩ := List.pairwise_cons.mp h
    unfold insertLargest
    split
    · rename_i hyx
      exact List.pairwise_cons.mpr ⟨fun z hz => (List.mem_cons.mp hz).elim (fun h => h ▸ hyx) fun h => (hy z h).trans hyx, h⟩
    · rename_i hyx
      refine List.pairwise_cons.mpr ⟨fun z hz => ?_, ih hys⟩
      obtain rfl | hz := List.mem_cons.mp ((perm_insertLargest x ys).mem_iff.mp hz)
      · exact (not_le.mp hyx).le
      · exact hy z hz

theorem pairwise_sortLargest (l : List Nat) : (sortLargest l).Pairwise (· ≥ ·) := by
  induction l with
  | nil => exact .nil
  | cons x xs ih => exact pairwise_insertLargest ih

/-- In a falling list, `k + 1` members have reached `x` just if the member at place `k` has. -/
theorem lt_countP_iff {l : List Nat} (h : l.Pairwise (· ≥ ·)) (x k : Nat) :
    k < l.countP (fun v => decide (x ≤ v)) ↔ k < l.length ∧ x ≤ l.getD k 0 := by
  induction l generalizing k with
  | nil => simp
  | cons y ys ih =>
    obtain ⟨hy, hys⟩ := List.pairwise_cons.mp h
    by_cases hxy : x ≤ y
    · rw [List.countP_cons_of_pos (by simpa using hxy)]
      cases k with
      | zero => simp [hxy]
      | succ k => simpa using ih hys k
    · have hnone : ∀ v ∈ y :: ys, ¬ x ≤ v := by
        intro v hv
        obtain rfl | hv := List.mem_cons.mp hv
        · exact hxy
        · exact fun hle => hxy (hle.trans (hy v hv))
      have hzero : (y :: ys).countP (fun v => decide (x ≤ v)) = 0 := by
        rw [List.countP_eq_zero]
        simpa using hnone
      rw [hzero]
      refine iff_of_false (Nat.not_lt_zero k) ?_
      rintro ⟨hk, hle⟩
      rw [List.getD_eq_getElem _ _ hk] at hle
      exact hnone _ (List.getElem_mem hk) hle

/-- `q` clocks have reached `x` just if the `q`-th largest has. -/
theorem quorum_iff {q : Nat} (hq : 1 ≤ q) (l : List Nat) (x : Nat) :
    q ≤ l.countP (fun v => decide (x ≤ v)) ↔ q ≤ l.length ∧ x ≤ (sortLargest l).getD (q - 1) 0 := by
  have hiff := lt_countP_iff (pairwise_sortLargest l) x (q - 1)
  rw [(perm_sortLargest l).countP_eq, (perm_sortLargest l).length_eq] at hiff
  omega

theorem clockSet_eq (s : State) : clockSet s =
    s.rck.rt :: (s.pbc.peers.filter fun p => decide (p.presence = .present) && decide (p.marker = .usable)).map
      (fun p => p.stamp.getD 0 + (s.rck.rt - p.localTime.getD 0)) := by
  simp only [clockSet, Bool.decide_and]
  rfl

/-- Bounded time keeps its value, or takes the greatest time not above RT that `q` clocks have reached (R42). -/
theorem boundedTime_quorum {q : Nat} (hq : 1 ≤ q) (s : State) :
    s.rck.bdt ≤ boundedTime s q ∧ boundedTime s q ≤ max s.rck.bdt s.rck.rt ∧
    (s.rck.bdt < boundedTime s q → q ≤ (clockSet s).countP fun v => decide (boundedTime s q ≤ v)) ∧
    ∀ x, x ≤ s.rck.rt → q ≤ ((clockSet s).countP fun v => decide (x ≤ v)) → x ≤ boundedTime s q := by
  have hquorum := quorum_iff hq (clockSet s)
  unfold boundedTime
  generalize (sortLargest (clockSet s)).getD (q - 1) 0 = v at *
  split
  · rename_i hlt
    refine ⟨le_rfl, le_max_left _ _, fun h => absurd h (lt_irrefl _), fun x _ hx => ?_⟩
    exact absurd ((hquorum x).mp hx).1 (not_le.mpr hlt)
  · rename_i hlt
    refine ⟨le_max_left _ _, by omega, fun h => (hquorum _).mpr ⟨not_lt.mp hlt, by omega⟩, fun x hx hcount => ?_⟩
    have := ((hquorum x).mp hcount).2
    omega

/-! ### BDT and the floor (R41 to R44) -/

theorem requestFloor_eq (s : State) : requestFloor s = { s with rck := { s.rck with floorWrites :=
    if s.ctc.node ≠ .storeFault ∧ s.rck.rf < s.rck.bdt / 86400 * 86400 ∧ ∀ v ∈ s.rck.floorWrites, v < s.rck.bdt / 86400 * 86400
    then s.rck.floorWrites ++ [s.rck.bdt / 86400 * 86400] else s.rck.floorWrites } } := by
  unfold requestFloor dayAtOrBelow daySeconds
  dsimp only
  split <;> rfl

theorem recomputeBdt_keeps (h : s.rck.rtValid = false ∨ s.ctc.inForce = none) : recomputeBdt s = s := by
  unfold recomputeBdt
  split
  · rename_i cfg hcfg
    rw [if_neg]
    rw [h.resolve_right (by simp [hcfg])]
    decide
  · rfl

theorem recomputeBdt_eq {cfg : Settings} {bdt day : Nat} (hv : s.rck.rtValid = true) (hc : s.ctc.inForce = some cfg)
    (hb : bdt = boundedTime s cfg.q) (hd : day = bdt / 86400 * 86400) : recomputeBdt s = { s with rck := { s.rck with
      bdt := bdt
      floorWrites :=
        if s.ctc.node ≠ .storeFault ∧ s.rck.rf < day ∧ ∀ v ∈ s.rck.floorWrites, v < day then s.rck.floorWrites ++ [day]
        else s.rck.floorWrites } } := by
  unfold recomputeBdt
  rw [hc]
  dsimp only
  rw [if_pos hv, requestFloor_eq, hd, hb]

/-- RT after one second more. -/
def ticked (s : State) : State := { s with rck := { s.rck with rt := min 1099511627775 (s.rck.rt + 1) } }

theorem execRtAdvance_on (hp : Powered s) : execRtAdvance s =
    .next (recomputeBdt (if s.rck.rtValid then ticked s else raise .clock (ticked s))) := by
  unfold execRtAdvance
  rw [show s.pins.power = .on from hp]
  rfl

/-- Settles O40. -/
theorem timeAndFloorAdvance : Obligations.TimeAndFloorAdvance := by
  unfold Obligations.TimeAndFloorAdvance
  refine ⟨fun s rt hrt => ?_, fun s q clocks hq hclocks => ?_, fun s => ⟨recomputeBdt_keeps, fun cfg bdt day => recomputeBdt_eq⟩,
    fun s hp => ⟨fun h => ?_, fun v rest h => ?_⟩⟩
  · subst hrt
    have hx : exec .rtAdvance s = execRtAdvance s := rfl
    refine ⟨fun hp => ?_, fun hp => ?_, fun hp hv => ?_, fun hp hv hc => ?_, fun cfg bdt day hp hv hc hb hd => ?_⟩
    · rw [hx]
      unfold execRtAdvance
      rw [hp]
      rfl
    · rw [hx]
      unfold execRtAdvance
      rw [hp]
    · rw [hx, execRtAdvance_on hp, hv, if_neg (by decide), recomputeBdt_keeps (s := raise .clock (ticked s)) (.inl hv)]
      rfl
    · rw [hx, execRtAdvance_on hp, hv, if_pos rfl, recomputeBdt_keeps (s := ticked s) (.inr hc)]
      rfl
    · rw [hx, execRtAdvance_on hp, hv, if_pos rfl, recomputeBdt_eq (s := ticked s) hv hc hb hd]
      rfl
  · rw [hclocks, ← clockSet_eq]
    exact ⟨rfl, boundedTime_quorum hq s⟩
  · have hx : exec .floorWriteComplete s = _ := (powered_on hp _ : execFloorWriteComplete s = _)
    rw [hx, h]
  · have hx : exec .floorWriteComplete s = _ := (powered_on hp _ : execFloorWriteComplete s = _)
    rw [hx, h]

end Sys2Proof.Machine
end

section
/-! PROOFS. The shared operation of an entry's change, outside STORE FAULT, and the requests built on it: the gate, REFILL and
DISPOSE; and the BEACON at the Peer Table. -/

namespace Sys2Proof.Machine

variable {c : Instr} {s u e : State} {tag kind : Byte}

/-! ### The change of an entry (R9, R159, R191) -/

/-- SCS's registers after the change of an entry from the state `a` to `b`. -/
def notedScs (i : Nat) (a b : EntryState) (s : State) : Scs :=
  if s.ctc.loaded ≤ i ∨ storedCopy a = storedCopy b then s.scs
  else if storedCopy b then { s.scs with scrubbable := s.scs.scrubbable + 1 }
  else { s.scs with scrubbable := s.scs.scrubbable - 1, owed := s.scs.owed && decide (1 < s.scs.scrubbable) }

theorem noteScrubbable_eq (i : Nat) (a b : EntryState) (s : State) :
    noteScrubbable i a b s = { s with scs := notedScs i a b s } := by
  unfold noteScrubbable notedScs
  split
  · rfl
  · split <;> rfl

theorem notedScs_same {i : Nat} {a b : EntryState} (h : storedCopy a = storedCopy b) (s : State) :
    notedScs i a b s = s.scs := if_pos (.inr h)

/-- The key under which a change of an entry is watched. -/
def watchedKey (before after : Entry) : ShortKey := if before.occupied then before.shortKey else after.shortKey

theorem watchedKey_of_taken {before : Entry} (h : before.state ≠ .free) (after : Entry) :
    watchedKey before after = before.shortKey :=
  if_pos (decide_eq_true h)

/-- The change of an entry outside STORE FAULT: the working copy, the write begun and what SCS counts. -/
theorem changeEntry_eq (hn : s.ctc.node ≠ .storeFault) (i : Nat) (e : Entry) (causes : HitCauses) (fs : List Effect) :
    changeEntry i e causes fs s = { s with
      ctc := { s.ctc with
        work := catSet s.ctc.work i e
        writes := s.ctc.writes ++ [{
          index := i, entry := e, effects := fs, hit := hitOf i (watchedKey (entryAt s i) e) e causes }] }
      scs := notedScs i (entryAt s i).state e.state s } := by
  unfold changeEntry queueWrite
  dsimp only
  rw [noteScrubbable_eq]
  exact (if_neg (by exact hn)).trans rfl

/-- The change of an entry in STORE FAULT: the working copy alone, with its hit taken at once and what SCS counts. -/
theorem changeEntry_fault (hn : s.ctc.node = .storeFault) (i : Nat) (e : Entry) (causes : HitCauses) (fs : List Effect) :
    changeEntry i e causes fs s = recordHit (hitOf i (watchedKey (entryAt s i) e) e causes) { s with
      ctc := { s.ctc with work := catSet s.ctc.work i e }
      scs := notedScs i (entryAt s i).state e.state s } := by
  unfold changeEntry queueWrite
  dsimp only
  rw [noteScrubbable_eq]
  exact (if_pos (by exact hn)).trans rfl

theorem hitOf_none (i : Nat) (key : ShortKey) (e : Entry) : hitOf i key e {} = none := if_pos rfl

theorem hitOf_state (i : Nat) (key : ShortKey) (e : Entry) {causes : HitCauses} (h : causes.state = true) :
    hitOf i key e causes = some ⟨key, causes, i, e.state, e.holdCount, e.holders⟩ := by
  refine if_neg fun hc => ?_
  rw [hc] at h
  exact absurd h (by decide)

theorem commit_eq (hn : s.ctc.node ≠ .storeFault) (i : Nat) (e : Entry) (fs : List Effect) :
    commit i e fs s = changeEntry i e (changeCauses (entryAt s i) e) fs s := if_neg hn

/-! ### The gate (R146, R147) -/

theorem isUnvisited_iff (s : State) (x : Extent) : isUnvisited s x = true ↔
    ∃ p ∈ s.ctc.work, s.ctc.loaded ≤ p.1 ∧ p.2.state ≠ .free ∧
      ∃ y ∈ p.2.extents, y.first < x.first + x.count ∧ x.first < y.first + y.count := by
  simp only [isUnvisited, List.any_eq_true, Bool.and_eq_true, sharesBlock_iff, Entry.occupied, decide_eq_true_eq, and_assoc]

theorem isProtected_iff (s : State) (x : Extent) : isProtected s x = true ↔
    ∃ q ∈ s.exg.runs, q.first < x.first + x.count ∧ x.first < q.first + q.count := by
  simp only [isProtected, List.any_eq_true, sharesBlock_iff, Run.extent]

theorem gate_enterQueue (op : HostOp) (first count : Nat) (handle : BitVec 64) (r q : Req) (s : State) :
    gate op first count handle r (enterQueue q s) = enterQueue q (gate op first count handle r s) := rfl

/-- What a media command comes to at the gate. -/
theorem gate_outcomes (h : Accepting s tag) (op : HostOp) (first : BitVec 40) (count : BitVec 32) (handle : BitVec 64)
    (hx : exec c s = request tag kind true s (gateRequest op first count handle)) :
    if s.ctc.node = .awaitingStart ∨ s.ctc.node = .loading then Refuses c s ⟨tag, kind⟩ .notReady (.node s.ctc.node)
    else if s.ctc.node = .dormant ∨ s.ctc.node = .waking then Refuses c s ⟨tag, kind⟩ .notNow (.node s.ctc.node)
    else if op ≠ .read ∧ s.ctc.node = .storeFault ∧ s.ctc.loadStopped = true then Refuses c s ⟨tag, kind⟩ .storeFault .none
    else if count.toNat = 0 ∨ 16777216 < count.toNat then Refuses c s ⟨tag, kind⟩ .badField .none
    else if mediaSize s < first.toNat + count.toNat then Refuses c s ⟨tag, kind⟩ .outOfRange .none
    else if op ≠ .read ∧ s.pins.guardAsserted = true then Refuses c s ⟨tag, kind⟩ .guarded .none
    else if op ≠ .read ∧ ((∃ x ∈ s.exg.runs, x.first < first.toNat + count.toNat ∧ first.toNat < x.first + x.count) ∨
        ∃ p ∈ s.ctc.work, s.ctc.loaded ≤ p.1 ∧ p.2.state ≠ .free ∧
          ∃ x ∈ p.2.extents, x.first < first.toNat + count.toNat ∧ first.toNat < x.first + x.count) then
      Refuses c s ⟨tag, kind⟩ .writeProtected .none
    else
      Takes c s ⟨tag, kind⟩ (mediaTail { s with mar := { s.mar with
        gated := s.mar.gated ++ [⟨⟨tag, kind⟩, op, first.toNat, count.toNat, handle, s.mar.hostSeq⟩]
        hostSeq := s.mar.hostSeq + 1 } }) := by
  have hch := request_checked (checks := gateChecks op first.toNat count.toNat)
    (accept := fun r s => mediaTail (gate op first.toNat count.toNat handle r s)) h hx
  refine Checked.afterLoading hch fun _ hch => hch.cons decide_eq_true_iff fun _ hch =>
    hch.cons ?_ fun _ hch => hch.cons decide_eq_true_iff fun _ hch => hch.cons decide_eq_true_iff fun _ hch =>
    hch.cons ?_ fun _ hch => hch.cons ?_ fun _ hch => ?_
  · rw [Bool.and_eq_true, Bool.and_eq_true, decide_eq_true_iff, decide_eq_true_iff, and_assoc]
    rfl
  · rw [Bool.and_eq_true, decide_eq_true_iff]
    rfl
  · rw [Bool.and_eq_true, Bool.or_eq_true, isUnvisited_iff, isProtected_iff, decide_eq_true_iff]
    rfl
  · have hx := hch.nil
    rw [gate_enterQueue, mediaTail_enterQueue] at hx
    exact takes_of hx (mediaTail_rli _)

/-- Settles O11. -/
theorem mediaCommandsPassTheGate : Obligations.MediaCommandsPassTheGate := by
  unfold Obligations.MediaCommandsPassTheGate
  intro tag first count handle s h c r op hd hcr
  simp only [Prod.mk.injEq] at hcr
  obtain ⟨rfl, rfl, rfl, rfl⟩ | ⟨rfl, rfl, rfl, rfl⟩ | ⟨rfl, rfl, rfl, rfl⟩ := hcr
  · exact gate_outcomes h _ first count _ rfl
  · exact gate_outcomes h _ first count _ rfl
  · exact gate_outcomes h _ first count _ rfl

/-! ### REFILL (R23) -/

/-- A run enters behind those that start no later (R143). -/
theorem insertRun_append (r : Run) {before after : List Run} (hb : ∀ q ∈ before, q.first ≤ r.first)
    (ha : ∀ q ∈ after.head?, r.first < q.first) : insertRun r (before ++ after) = before ++ r :: after := by
  induction before with
  | nil =>
    cases after with
    | nil => rfl
    | cons q qs => exact if_pos (ha q rfl)
  | cons q qs ih =>
    obtain ⟨hq, hqs⟩ := List.forall_mem_cons.mp hb
    rw [List.cons_append, insertRun, if_neg (Nat.not_lt.mpr hq), ih hqs]
    rfl

theorem overlapsOthers_iff (s : State) (i : Nat) (es : List Extent) : overlapsOthers s i es = true ↔
    (∃ x ∈ es, ∃ q ∈ s.exg.runs, q.owner ≠ i ∧ q.first < x.first + x.count ∧ x.first < q.first + q.count) ∨
      ¬ es.Pairwise fun x y => x.first + x.count ≤ y.first ∨ y.first + y.count ≤ x.first := by
  simp only [overlapsOthers, Bool.or_eq_true, selfOverlap_iff, List.any_eq_true, Bool.and_eq_true, decide_eq_true_eq,
    sharesBlock_iff, Run.extent]

theorem acceptRefill_eq (hn : s.ctc.node ≠ .storeFault) (r : Req) (i : Nat) (es : List Extent) :
    acceptRefill r i es s = { s with
      exg := { s.exg with runs := es.foldl (fun runs x => insertRun ⟨x.first, x.count, i, .refill⟩ runs) s.exg.runs }
      ctc := { s.ctc with
        work := catSet s.ctc.work i { entryAt s i with refill := some es }
        writes := s.ctc.writes ++ [{
          index := i, entry := { entryAt s i with refill := some es }
          effects := [.queueVerify true s.mar.hostSeq (some r)] }] } } := by
  unfold acceptRefill
  rw [changeEntry_eq, hitOf_none, notedScs_same]
  · rfl
  · rfl
  · exact hn

theorem catalogueSize_le (i : Nat) : decide (catalogueSize ≤ i) = true ↔ 131071 < i := decide_eq_true_iff

/-- Settles O22. -/
theorem refillRecordsItsExtents : Obligations.RefillRecordsItsExtents := by
  unfold Obligations.RefillRecordsItsExtents
  refine ⟨fun r _ _ => insertRun_append r, fun tag index n slots s h hfit c r i es e hc hr hi hes he => ?_⟩
  subst hc hr hi hes he
  have hch := request_checked (c := .refill tag index n slots) (kind := 0x06)
    (checks := refillChecks index.toNat (usedSlots slots n.toNat))
    (accept := fun r => acceptRefill r index.toNat (usedSlots slots n.toNat)) h (by rw [← hfit]; rfl)
  generalize usedSlots slots n.toNat = es at hch ⊢
  refine Checked.running hch fun hn hch => hch.cons (catalogueSize_le _) fun _ hch => hch.cons Iff.rfl fun _ hch =>
    hch.cons decide_eq_true_iff fun _ hch => hch.cons Option.isSome_iff_ne_none fun _ hch =>
    hch.cons (beyondMedia_iff s es) fun _ hch => hch.cons (overlapsOthers_iff s _ es) fun _ hch => ?_
  refine takes_eq hch.nil (acceptRefill_eq ?_ _ _ _) rfl
  show s.ctc.node ≠ _
  rw [hn]
  decide

end Sys2Proof.Machine
end

section
/-! PROOFS. DISPOSE, and the BEACON at its sender's Peer Table slot. -/

namespace Sys2Proof.Machine

variable {c : Instr} {s u : State} {tag kind : Byte}

/-! ### DISPOSE (R25, R26) -/

/-- The causes of a change that moves the state and may move the hold count (R191). -/
theorem changeCauses_state {e : Entry} {st : EntryState} {n : Nat} (hs : e.state ≠ st) (hf : st ≠ .free) (e' : Entry)
    (h' : e'.state = st ∧ e'.holdCount = n ∧ e'.holders = e.holders) :
    changeCauses e e' = { state := true, holdCount := decide (e.holdCount ≠ n) } := by
  obtain ⟨h1, h2, h3⟩ := h'
  simp [changeCauses, h1, h2, h3, hs, hf]

/-- A held entry, or any while hold doubt stands, is RETAINED again. -/
theorem recheckDispose_held {i : Nat} {e : Entry} (r q : Req) (he : e = entryAt s i) (hn : s.ctc.node ≠ .storeFault)
    (hs : e.state = .releasable) (hk : 0 < holdsOn s e.cust ∨ doubtStands s = true) :
    recheckDispose r i (enterQueue q s) = enterQueue q { s with ctc := { s.ctc with
      work := catSet s.ctc.work i { e with state := .retained, holdCount := holdsOn s e.cust }
      writes := s.ctc.writes ++ [{
        index := i, entry := { e with state := .retained, holdCount := holdsOn s e.cust }
        effects := [.answer r .held (.holdCount (holdsOn s e.cust))]
        hit := some ⟨e.shortKey, { state := true, holdCount := decide (e.holdCount ≠ holdsOn s e.cust) }, i, .retained,
          holdsOn s e.cust, e.holders⟩ }] } } := by
  subst he
  have hentry : entryAt (enterQueue q s) i = entryAt s i := rfl
  have hholds (x : Custodian) : holdsOn (enterQueue q s) x = holdsOn s x := rfl
  have hcauses := changeCauses_state (e := entryAt s i) (st := .retained) (n := holdsOn s (entryAt s i).cust)
    (by rw [hs]; decide) (by decide) { entryAt s i with state := .retained, holdCount := holdsOn s (entryAt s i).cust }
    ⟨rfl, rfl, rfl⟩
  unfold recheckDispose
  dsimp only
  rw [hentry, hholds, if_pos (by exact hk), commit_eq (by exact hn), changeEntry_eq (by exact hn), hentry,
    watchedKey_of_taken (by rw [hs]; decide), hcauses, hitOf_state _ _ _ rfl, notedScs_same]
  · rfl
  · rw [hs]
    rfl

/-- An entry that no hold matches, with no hold doubt, is DISPOSING. -/
theorem recheckDispose_passes {i : Nat} {e : Entry} (r q : Req) (he : e = entryAt s i) (hn : s.ctc.node ≠ .storeFault)
    (hs : e.state = .releasable) (hk : ¬ (0 < holdsOn s e.cust ∨ doubtStands s = true)) :
    recheckDispose r i (enterQueue q s) = enterQueue q { s with
      ctc := { s.ctc with
        work := catSet s.ctc.work i { e with state := .disposing, holdCount := 0, eraseBegun := false }
        eraseDone := s.ctc.eraseDone.filter (fun p => decide (p.1 ≠ i))
        writes := s.ctc.writes ++ [{
          index := i, entry := { e with state := .disposing, holdCount := 0, eraseBegun := false }
          effects := [.answer r .done .none, .queueErases s.mar.disposeSeq]
          hit := some ⟨e.shortKey, { state := true, holdCount := decide (e.holdCount ≠ 0) }, i, .disposing, 0, e.holders⟩ }] }
      mar := { s.mar with disposeSeq := s.mar.disposeSeq + 1 }
      scs := if i < s.ctc.loaded then
          { s.scs with scrubbable := s.scs.scrubbable - 1, owed := s.scs.owed && decide (1 < s.scs.scrubbable) }
        else s.scs } := by
  subst he
  have hentry : entryAt (takeOrder (clearErases i (enterQueue q s))) i = entryAt s i := rfl
  have hscs : notedScs i .releasable .disposing (takeOrder (clearErases i (enterQueue q s))) =
      if i < s.ctc.loaded then
        { s.scs with scrubbable := s.scs.scrubbable - 1, owed := s.scs.owed && decide (1 < s.scs.scrubbable) }
      else s.scs := by
    by_cases hi : i < s.ctc.loaded
    · rw [if_pos hi]
      refine (if_neg ?_).trans rfl
      rintro (h | h)
      · exact absurd hi (Nat.not_lt.mpr h)
      · exact absurd h (by decide)
    · rw [if_neg hi]
      exact if_pos (.inl (Nat.not_lt.mp hi))
  have hqueue : entryAt (enterQueue q s) i = entryAt s i := rfl
  have hcauses := changeCauses_state (e := entryAt s i) (st := .disposing) (n := 0) (by rw [hs]; decide) (by decide)
    { entryAt s i with state := .disposing, holdCount := 0, eraseBegun := false } ⟨rfl, rfl, rfl⟩
  unfold recheckDispose
  dsimp only
  rw [hqueue, if_neg (by exact hk), commit_eq (by exact hn), changeEntry_eq (by exact hn), hentry,
    watchedKey_of_taken (by rw [hs]; decide), hcauses, hitOf_state _ _ _ rfl, hs, hscs]
  rfl

theorem doubtStands_iff (s : State) : doubtStands s = true ↔
    s.hdu.doubt.start = true ∨ s.hdu.doubt.loss = true ∨ s.hdu.doubt.overflow = true := by
  simp [doubtStands, or_assoc]

/-- Settles O23. -/
theorem disposeRechecksHolds : Obligations.DisposeRechecksHolds := by
  unfold Obligations.DisposeRechecksHolds
  intro tag index s h c r i e k hc hr hi he hk
  have hch := request_checked (c := .dispose tag index) (kind := 0x07) (checks := disposeChecks index.toNat)
    (accept := fun r s => mediaTail (recheckDispose r index.toNat s)) h rfl
  subst hc hr hi hk
  refine Checked.running hch fun hn hch => hch.cons (catalogueSize_le _) fun _ hch => ?_
  have hentry : entryAt (enterQueue ⟨tag, 0x07⟩ s) index.toNat = e := he.symm
  rw [hentry] at hch
  have hnode : s.ctc.node ≠ .storeFault := by rw [hn]; decide
  refine hch.cons decide_eq_true_iff fun hs hch => hch.cons Iff.rfl fun _ hch => ?_
  rw [not_not] at hs
  have hx := hch.nil
  split
  · rename_i hheld
    replace hheld := hheld.imp_right (doubtStands_iff s).mpr
    intro e' he'
    subst he'
    rw [recheckDispose_held _ _ he hnode hs hheld, mediaTail_enterQueue] at hx
    exact takes_of hx (mediaTail_rli _)
  · rename_i hheld
    replace hheld := mt (Or.imp_right (doubtStands_iff s).mp) hheld
    intro e' he'
    subst he'
    rw [recheckDispose_passes _ _ he hnode hs hheld, mediaTail_enterQueue] at hx
    exact takes_of hx (mediaTail_rli _)

/-! ### BEACONs (R38 to R41, R116, R118) -/

theorem markerFor_eq (s : State) (stamp : Nat) (invalid : Bool) : markerFor s stamp invalid =
    if invalid = true ∨ s.rck.rtValid = false then .invalid
    else if inForceOr s Settings.skew 3600 < (stamp - s.rck.rt) + (s.rck.rt - stamp) then .skewed else .usable := by
  unfold markerFor skewLimit timeDistance
  cases invalid <;> cases s.rck.rtValid <;> simp

theorem peerAt_setPeer {id : NodeId} (p : Peer) (h : id.toNat < s.pbc.peers.length) : peerAt (setPeer id p s) id = p := by
  show (s.pbc.peers.set id.toNat p).getD id.toNat {} = p
  rw [getD_set_self, if_pos h]

theorem changePresence_setPeer {id : NodeId} (pr : Presence) (p : Peer) (v : Evu) (s : State)
    (h : id.toNat < s.pbc.peers.length) : changePresence id pr { setPeer id p s with evu := v } =
      trigger (raise .presence { setPeer id { p with presence := pr } s with evu := v }) := by
  unfold changePresence
  rw [show peerAt { setPeer id p s with evu := v } id = p from peerAt_setPeer p h]
  simp only [setPeer, List.set_set]

/-- Settles O35. -/
theorem beaconsFillThePeerTable : Obligations.BeaconsFillThePeerTable := by
  unfold Obligations.BeaconsFillThePeerTable
  intro sender stamp invalid dormant fault rest s hp hfifo old marker p hold hmarker hpeer flags hflags hlen
  have hx : exec .beaconDispatch s = .next (takeBeacon sender stamp invalid dormant fault (popFifo s)) := by
    have hx : exec .beaconDispatch s = _ := (powered_on hp _ : execBeaconDispatch s = _)
    rw [hx, hfifo]
  have hpop : popFifo s = { s with pbc := { s.pbc with rxFifo := rest } } := by
    unfold popFifo
    rw [hfifo]
    rfl
  have hold' : peerAt (popFifo s) sender = old := hpop ▸ hold.symm
  have hmarker' : markerFor (popFifo s) stamp invalid = marker := by rw [hmarker, hpop]; exact markerFor_eq ..
  have hclock : ∀ t : State, (if marker = .skewed ∧ old.marker ≠ .skewed then raise .clock t else t) =
      { t with evu := { t.evu with flags :=
        if marker = .skewed ∧ old.marker ≠ .skewed then t.evu.flags ||| 0x100000 else t.evu.flags } } := fun t => by
    split <;> rfl
  rw [hx]
  unfold takeBeacon heardPeer
  dsimp only
  rw [hold', hmarker', hclock, hflags, hpeer]
  congr 2
  by_cases hab : old.presence = .absent
  · rw [if_pos hab, if_pos hab, if_pos hab]
    rw [changePresence_setPeer _ _ _ _ (by rw [hpop]; exact hlen), hpop]
    rfl
  · rw [if_neg hab, if_neg hab, if_neg hab, hpop]
    rfl

end Sys2Proof.Machine
end

section
/-! PROOFS. The Hold Table: a change of the hold epoch, the requests, the slot writes, and the frames of holds and lifts. -/

namespace Sys2Proof.Machine

variable {c : Instr} {s t u e : State} {tag kind : Byte}

/-! ### Triggers (R70, R71) -/

theorem trigger_untaken (h : s.ctc.node = .awaitingStart ∨ (s.ctc.node = .storeFault ∧ s.rwk.loadEnded = false)) :
    trigger s = s := by
  refine if_neg ?_
  unfold triggersTaken
  obtain h | ⟨h, he⟩ := h
  · simp [h]
  · simp [h, he]

theorem trigger_taken (hn : s.ctc.node ≠ .awaitingStart) (hf : s.ctc.node = .storeFault → s.rwk.loadEnded = true) :
    trigger s = match s.rwk.walk with
      | none => startRefresh s
      | some _ => { s with rwk := { s.rwk with pendingWalk := true } } := by
  refine if_pos ?_
  unfold triggersTaken
  rcases h : s.ctc.node <;> simp_all

theorem trigger_eq (s : State) : trigger s = { s with rwk := (trigger s).rwk } := by
  unfold trigger startRefresh
  split
  · split <;> rfl
  · rfl

theorem nextOccupied_zero_isSome (s : State) : (nextOccupied s 0).isSome = true ↔ ∃ p ∈ s.ctc.work, p.2.state ≠ .free := by
  simp [nextOccupied, Entry.occupied]

/-- A walk over an empty catalogue ends as it starts (log 27). -/
theorem startRefresh_empty (hw : s.rwk.walk = none) (ho : ∀ p ∈ s.ctc.work, p.2.state = .free) : startRefresh s = s := by
  unfold startRefresh
  rw [if_neg (by rw [nextOccupied_zero_isSome]; simpa using ho), ← hw]

/-! ### The catalogue as a list -/

theorem catWf_rising {cat : Cat} (wf : catWf cat = true) : (cat.map Prod.fst).Pairwise (· < ·) := by
  induction cat with
  | nil => exact .nil
  | cons p rest ih =>
    obtain ⟨-, hlt, hr⟩ := (catWf_cons p.1 p.2 rest).mp wf
    rw [List.map_cons, List.pairwise_cons]
    refine ⟨fun i hi => ?_, ih hr⟩
    obtain ⟨q, hq, rfl⟩ := List.mem_map.mp hi
    exact hlt q hq

theorem mem_of_catGet {cat : Cat} {i : Nat} (h : catGet cat i ≠ freeEntry) : (i, catGet cat i) ∈ cat := by
  induction cat with
  | nil => exact absurd rfl h
  | cons p rest ih =>
    obtain ⟨j, f⟩ := p
    unfold catGet at h ⊢
    split
    · rename_i hj
      subst hj
      exact List.mem_cons_self
    · rename_i hj
      rw [if_neg hj] at h
      exact List.mem_cons_of_mem _ (ih h)

theorem mem_disposingIndices (wf : catWf s.ctc.work = true) (i : Nat) : i ∈ disposingIndices s ↔
    (s.ctc.loadStopped = true → i < s.ctc.loaded) ∧ ¬ Unreadable s i ∧ (entryAt s i).state = .disposing := by
  have hmem : i ∈ disposingIndices s ↔ ∃ f, (i, f) ∈ readableCat s ∧ f.state = .disposing ∧ ¬ Unreadable s i := by
    simp only [disposingIndices, List.mem_map, List.mem_filter, Bool.and_eq_true, decide_eq_true_eq, Bool.not_eq_true',
      ← Bool.not_eq_true, skips_iff, Prod.exists, exists_and_right, exists_eq_right]
  have hread (f : Entry) : (i, f) ∈ readableCat s ↔ (i, f) ∈ s.ctc.work ∧ (s.ctc.loadStopped = true → i < s.ctc.loaded) := by
    unfold readableCat
    split <;> simp_all
  rw [hmem]
  constructor
  · rintro ⟨f, hf, hs, hu⟩
    rw [hread] at hf
    exact ⟨hf.2, hu, by rw [entryAt, catGet_of_mem wf hf.1, hs]⟩
  · rintro ⟨hl, hu, hs⟩
    refine ⟨entryAt s i, (hread _).mpr ⟨mem_of_catGet fun h => ?_, hl⟩, hs, hu⟩
    rw [entryAt, h] at hs
    exact absurd hs (by decide)

theorem disposingIndices_rising (wf : catWf s.ctc.work = true) : (disposingIndices s).Pairwise (· < ·) := by
  refine (catWf_rising wf).sublist (List.Sublist.map _ ?_)
  refine List.filter_sublist.trans ?_
  unfold readableCat
  split
  · exact List.filter_sublist
  · exact .refl _

/-! ### A change of the hold epoch (R66) -/

/-- The DISPOSING entry that a hold returns to RETAINED. -/
def takenBack (s : State) (i : Nat) : Entry := { entryAt s i with state := .retained, holdCount := holdsOn s (entryAt s i).cust }

def heldHit (s : State) (i : Nat) : Hit :=
  ⟨(entryAt s i).shortKey, { state := true, holdCount := decide ((entryAt s i).holdCount ≠ holdsOn s (entryAt s i).cust) }, i,
    .retained, holdsOn s (entryAt s i).cust, (entryAt s i).holders⟩

/-- The watch hits of the indices, taken at once. -/
def recordHeld (s : State) (r : List Nat) (t : State) : State := r.foldl (fun u i => recordHit (some (heldHit s i)) u) t

/-- The part after the entries of `r` are taken back and those of `late` are found too late, of the entries and holds of `s`. -/
def heldEpoch (s : State) (r late : List Nat) (t : State) : State :=
  let rec' := if t.ctc.node = .storeFault then recordHeld s r t else t
  { t with
    ctc := { t.ctc with
      work := r.foldl (fun w i => catSet w i (takenBack s i)) t.ctc.work
      holdLateKey := (late.getLast?.map fun i => (entryAt s i).shortKey).or t.ctc.holdLateKey
      writes := if t.ctc.node = .storeFault then t.ctc.writes
        else t.ctc.writes ++ r.map fun i => { index := i, entry := takenBack s i, hit := some (heldHit s i) } }
    mar := { t.mar with erases := t.mar.erases.filter fun w => decide (w.index ∉ r) }
    scs := { t.scs with scrubbable := t.scs.scrubbable + (r.filter fun i => decide (i < t.ctc.loaded)).length }
    sli := rec'.sli
    evu := { rec'.evu with flags := if late = [] then rec'.evu.flags else rec'.evu.flags ||| 0x040000 } }

theorem heldEpoch_nil (s t : State) : heldEpoch s [] [] t = t := by
  unfold heldEpoch recordHeld
  simp only [List.foldl_nil, List.map_nil, List.append_nil, List.filter_nil, List.length_nil, List.not_mem_nil,
    not_false_eq_true, decide_true, List.filter_true, ite_self, if_true, List.getLast?_nil, Option.map_none, Option.none_or,
    Nat.add_zero]

theorem heldEpoch_late (s t : State) (r late : List Nat) (i : Nat) :
    heldEpoch s r (late ++ [i]) t = raiseHoldLate (entryAt s i).shortKey (heldEpoch s r late t) := by
  unfold heldEpoch raiseHoldLate raise
  by_cases hl : late = []
  · subst hl
    rfl
  · simp only [hl, List.append_eq_nil_iff, List.cons_ne_self, and_self, if_false, List.getLast?_append, List.getLast?_singleton,
      Option.some_or, Option.map_some, BitVec.or_assoc]
    rfl

theorem commit_nil (i : Nat) (e : Entry) (s : State) :
    commit i e [] s = changeEntry i e (changeCauses (entryAt s i) e) [] s := by
  unfold commit
  dsimp only
  split <;> rfl

/-- A hit taken changes the watch log and the event flags. -/
theorem recordHit_eq (h : Option Hit) (s : State) :
    recordHit h s = { s with sli := (recordHit h s).sli, evu := (recordHit h s).evu } := by
  unfold recordHit
  split
  · rfl
  · dsimp only
    split <;> rfl

/-- What a hit adds to the event flags. -/
def hitMask (h : Option Hit) (key : Option ShortKey) : EventMask :=
  match h with
  | none => 0
  | some x => if key = some x.key then Event.watchHit.mask else 0

theorem recordHit_evu (h : Option Hit) (s : State) :
    (recordHit h s).evu = { s.evu with flags := s.evu.flags ||| hitMask h s.sli.watchKey } := by
  unfold recordHit hitMask
  split
  · simp
  · dsimp only
    split <;> simp [raise]

theorem recordHit_sli {h : Option Hit} {s u : State} (hs : s.sli = u.sli) (hr : s.rck = u.rck) :
    (recordHit h s).sli = (recordHit h u).sli := by
  unfold recordHit
  split
  · exact hs
  · dsimp only
    rw [hs, hr]
    split
    · rfl
    · exact hs

theorem recordHeld_eq (s : State) (r : List Nat) (t : State) :
    recordHeld s r t = { t with sli := (recordHeld s r t).sli, evu := (recordHeld s r t).evu } := by
  induction r using List.reverseRecOn with
  | nil => rfl
  | append_singleton r i ih =>
    have hstep : recordHeld s (r ++ [i]) t = recordHit (some (heldHit s i)) (recordHeld s r t) := by
      simp only [recordHeld, List.foldl_append, List.foldl_cons, List.foldl_nil]
    rw [hstep, recordHit_eq, ih]

theorem recordHeld_rck (s : State) (r : List Nat) (t : State) : (recordHeld s r t).rck = t.rck := by
  rw [recordHeld_eq]

theorem recordHeld_append (s : State) (r : List Nat) (i : Nat) (t : State) :
    recordHeld s (r ++ [i]) t = recordHit (some (heldHit s i)) (recordHeld s r t) := by
  simp only [recordHeld, List.foldl_append, List.foldl_cons, List.foldl_nil]

theorem hitOf_takenBack {s t : State} {i : Nat} (he : entryAt t i = entryAt s i) (hd : (entryAt s i).state = .disposing) :
    hitOf i (watchedKey (entryAt t i) (takenBack s i)) (takenBack s i) (changeCauses (entryAt t i) (takenBack s i)) =
      some (heldHit s i) := by
  rw [he, watchedKey_of_taken (by rw [hd]; decide), changeCauses_state (e := entryAt s i) (st := .retained)
    (n := holdsOn s (entryAt s i).cust) (by rw [hd]; decide) (by decide) (takenBack s i) ⟨rfl, rfl, rfl⟩, hitOf_state _ _ _ rfl]
  rfl

theorem notedScs_takenBack {i : Nat} (u : State) : notedScs i .disposing .retained u =
    { u.scs with scrubbable := u.scs.scrubbable + ([i].filter fun j => decide (j < u.ctc.loaded)).length } := by
  by_cases hi : i < u.ctc.loaded
  · refine (if_neg ?_).trans ?_
    · rintro (h | h)
      · exact absurd hi (Nat.not_lt.mpr h)
      · exact absurd h (by decide)
    · simp [hi, storedCopy]
  · refine (if_pos (.inl (Nat.not_lt.mp hi))).trans ?_
    simp [hi]

theorem heldEpoch_takenBack {s t : State} {r late : List Nat} {i : Nat} (hd : (entryAt s i).state = .disposing)
    (he : entryAt (heldEpoch s r late t) i = entryAt s i) :
    commit i (takenBack s i) [] (withdrawErases i (heldEpoch s r late t)) = heldEpoch s (r ++ [i]) late t := by
  have he' : entryAt (withdrawErases i (heldEpoch s r late t)) i = entryAt s i := he
  have herases : (t.mar.erases.filter fun w => decide (w.index ∉ r)).filter (fun w => decide (w.index ≠ i)) =
      t.mar.erases.filter fun w => decide (w.index ∉ r ++ [i]) := by
    rw [List.filter_filter]
    congr 1
    funext w
    simp [List.mem_append, and_comm]
  have hn' : (withdrawErases i (heldEpoch s r late t)).ctc.node = t.ctc.node := rfl
  rw [commit_nil]
  by_cases hn : t.ctc.node = .storeFault
  · rw [changeEntry_fault (hn'.trans hn), hitOf_takenBack he' hd, he', hd, show (takenBack s i).state = .retained from rfl, notedScs_takenBack, recordHit_eq, recordHit_evu]
    unfold heldEpoch withdrawErases
    simp only [hn, if_true, recordHeld_append, recordHit_evu, List.foldl_append, List.foldl_cons, List.foldl_nil, herases,
      List.filter_append, List.length_append, Nat.add_assoc]
    congr 1
    · split
      · rfl
      · rw [BitVec.or_assoc, BitVec.or_assoc, BitVec.or_comm 0x040000]
    · exact recordHit_sli rfl (recordHeld_rck s r t).symm
  · rw [changeEntry_eq (by rw [hn']; exact hn), hitOf_takenBack he' hd, he', hd, show (takenBack s i).state = .retained from rfl, notedScs_takenBack]
    unfold heldEpoch withdrawErases
    simp only [hn, if_false, List.foldl_append, List.foldl_cons, List.foldl_nil, herases,
      List.filter_append, List.length_append, List.map_append, List.map_cons, List.map_nil, List.append_assoc, Nat.add_assoc]

theorem catGet_takenBack_of_notMem {i : Nat} (s : State) {r : List Nat} (h : i ∉ r) (cat : Cat) :
    catGet (r.foldl (fun w j => catSet w j (takenBack s j)) cat) i = catGet cat i := by
  induction r generalizing cat with
  | nil => rfl
  | cons j r ih =>
    rw [List.foldl_cons, ih (fun hr => h (List.mem_cons_of_mem _ hr)),
      catGet_catSet_ne _ fun hj => h (by rw [hj]; exact List.mem_cons_self)]

theorem catGet_takenBack {i : Nat} (s : State) (r : List Nat) {cat : Cat} (wf : catWf cat = true) :
    catGet (r.foldl (fun w j => catSet w j (takenBack s j)) cat) i = if i ∈ r then takenBack s i else catGet cat i := by
  induction r generalizing cat with
  | nil => rfl
  | cons j r ih =>
    rw [List.foldl_cons, ih (catWf_catSet _ _ wf)]
    by_cases hr : i ∈ r
    · rw [if_pos hr, if_pos (List.mem_cons_of_mem _ hr)]
    · rw [if_neg hr]
      by_cases hj : i = j
      · rw [hj, if_pos List.mem_cons_self, catGet_catSet_self _ _ wf]
      · rw [if_neg (by simp [hj, hr]), catGet_catSet_ne _ hj]

/-- The DISPOSING entries that a hold takes back, and those whose erasing has begun. -/
def takesBack (s : State) (i : Nat) : Bool := decide (0 < holdsOn s (entryAt s i).cust) && !(entryAt s i).eraseBegun

def comesLate (s : State) (i : Nat) : Bool := decide (0 < holdsOn s (entryAt s i).cust) && (entryAt s i).eraseBegun

theorem foldl_holdMeetsDisposing (is : List Nat) (hnd : is.Nodup) (hd : ∀ i ∈ is, (entryAt s i).state = .disposing)
    (ht : t.ctc.work = s.ctc.work) (hs : t.hdu.slots = s.hdu.slots) :
    is.foldl holdMeetsDisposing t = heldEpoch s (is.filter (takesBack s)) (is.filter (comesLate s)) t := by
  induction is using List.reverseRecOn with
  | nil => exact (heldEpoch_nil s t).symm
  | append_singleton is i ih =>
    obtain ⟨hnd', -, hdis⟩ := List.nodup_append.mp hnd
    have hi : i ∉ is := fun h => hdis i h i List.mem_cons_self rfl
    have hdi : (entryAt s i).state = .disposing := hd i (by simp)
    rw [List.foldl_append, ih hnd' fun j hj => hd j (by simp [hj]), List.filter_append, List.filter_append]
    generalize hu : heldEpoch s (is.filter (takesBack s)) (is.filter (comesLate s)) t = u
    have he : entryAt u i = entryAt s i := by
      rw [← hu]
      exact (catGet_takenBack_of_notMem s (fun h => hi (List.mem_of_mem_filter h)) _).trans (by rw [ht]; rfl)
    have hholds : holdsOn u (entryAt s i).cust = holdsOn s (entryAt s i).cust := by
      rw [← hu]
      exact congrArg (matchCount · _) hs
    rw [List.foldl_cons, List.foldl_nil]
    unfold holdMeetsDisposing
    dsimp only
    rw [he, hholds, hdi]
    by_cases hz : holdsOn s (entryAt s i).cust = 0
    · rw [if_pos (.inl hz), ← hu]
      simp [takesBack, comesLate, hz]
    · rw [if_neg (by simp [hz])]
      by_cases hb : (entryAt s i).eraseBegun = true
      · rw [if_pos hb, ← hu, ← heldEpoch_late]
        simp [takesBack, comesLate, hb, Nat.pos_of_ne_zero hz]
      · have hr : [i].filter (takesBack s) = [i] := by simp [takesBack, hb, Nat.pos_of_ne_zero hz]
        have hl : [i].filter (comesLate s) = [] := by simp [comesLate, hb]
        rw [if_neg hb, hr, hl, List.append_nil, ← hu]
        exact heldEpoch_takenBack hdi (hu ▸ he)

/-- The indices of `s` that a change of the epoch takes back, and those that it finds too late, rising. -/
def backIndices (s : State) : List Nat := (disposingIndices s).filter (takesBack s)

def lateIndices (s : State) : List Nat := (disposingIndices s).filter (comesLate s)

theorem epochChange_eq (wf : catWf s.ctc.work = true) : epochChange s = readDone (heldEpoch s (backIndices s) (lateIndices s)
    (trigger { s with hdu := { s.hdu with epoch := s.hdu.epoch + 1 } })) := by
  have htrigger := trigger_eq { s with hdu := { s.hdu with epoch := s.hdu.epoch + 1 } }
  unfold epochChange
  dsimp only
  have hind : disposingIndices (trigger { s with hdu := { s.hdu with epoch := s.hdu.epoch + 1 } }) = disposingIndices s := by
    rw [htrigger]
    rfl
  rw [hind, foldl_holdMeetsDisposing (s := s) _ ((disposingIndices_rising wf).imp Nat.ne_of_lt)
    (fun i hi => ((mem_disposingIndices wf i).mp hi).2.2) (by rw [htrigger]) (by rw [htrigger])]
  rfl

theorem recordHeld_congr {t u : State} (s : State) (r : List Nat) (hs : t.sli = u.sli) (hr : t.rck = u.rck) (he : t.evu = u.evu) :
    (recordHeld s r t).sli = (recordHeld s r u).sli ∧ (recordHeld s r t).evu = (recordHeld s r u).evu := by
  induction r using List.reverseRecOn with
  | nil => exact ⟨hs, he⟩
  | append_singleton r i ih =>
    rw [recordHeld_append, recordHeld_append, recordHit_evu, recordHit_evu, ih.1, ih.2]
    exact ⟨recordHit_sli ih.1 (by rw [recordHeld_rck, recordHeld_rck, hr]), rfl⟩

theorem recordHeld_enables (s : State) (r : List Nat) (t : State) : (recordHeld s r t).evu.enables = t.evu.enables := by
  induction r using List.reverseRecOn with
  | nil => rfl
  | append_singleton r i ih => rw [recordHeld_append, recordHit_evu, ← ih]

theorem getLast?_of_rising {l : List Nat} {i : Nat} (h : l.Pairwise (· < ·)) (hi : i ∈ l) (hmax : ∀ j ∈ l, ¬ i < j) :
    l.getLast? = some i := by
  have hne : l ≠ [] := List.ne_nil_of_mem hi
  rw [List.getLast?_eq_some_getLast hne]
  obtain ⟨front, hf⟩ : ∃ front, l = front ++ [l.getLast hne] := ⟨_, (List.dropLast_append_getLast hne).symm⟩
  by_cases hl : i = l.getLast hne
  · rw [← hl]
  · rw [hf] at h hi
    have hfront : i ∈ front := by simpa [hl] using hi
    exact absurd ((List.pairwise_append.mp h).2.2 i hfront _ List.mem_cons_self) (hmax _ (List.getLast_mem hne))

/-- Settles O26. -/
theorem epochChangesAndTriggers : Obligations.EpochChangesAndTriggers := by
  unfold Obligations.EpochChangesAndTriggers
  refine ⟨?_, fun s => ⟨trigger_untaken, fun hn hf => ?_⟩⟩
  · intro s t wf ht met hmet reverted hrise hrev back hback hit hhit recorded hrec
    have hback' : back = takenBack s := funext hback
    subst hback'
    have hhit' : hit = fun i => some (heldHit s i) := funext hhit
    subst hhit'
    have hmem (i : Nat) : met i ↔ i ∈ disposingIndices s ∧ 0 < holdsOn s (entryAt s i).cust := by
      rw [hmet, mem_disposingIndices wf, and_assoc, and_assoc]
    have hrev' : reverted = backIndices s := by
      refine hrise.eq_of_mem_iff ((disposingIndices_rising wf).sublist List.filter_sublist) fun i => ?_
      simp only [hrev, hmem, backIndices, List.mem_filter, takesBack, Bool.and_eq_true, decide_eq_true_eq, Bool.not_eq_true',
        and_assoc]
    have hlate (i : Nat) : i ∈ lateIndices s ↔ met i ∧ (entryAt s i).eraseBegun = true := by
      simp only [hmem, lateIndices, List.mem_filter, comesLate, Bool.and_eq_true, decide_eq_true_eq, and_assoc]
    have hlateRise : (lateIndices s).Pairwise (· < ·) := (disposingIndices_rising wf).sublist List.filter_sublist
    clear hrise hrev hmem hmet hback hhit
    subst hrev'
    rw [epochChange_eq wf, trigger_eq] at ht
    generalize hw : (trigger { s with hdu := { s.hdu with epoch := s.hdu.epoch + 1 } }).rwk = w at ht ⊢
    have hrecorded : ∀ u : State, u = { s with hdu := { s.hdu with epoch := s.hdu.epoch + 1 }, rwk := w } →
        (if s.ctc.node = .storeFault then recordHeld s (backIndices s) u else u).sli = recorded.sli ∧
          (if s.ctc.node = .storeFault then recordHeld s (backIndices s) u else u).evu = recorded.evu := by
      intro u hu
      subst hu hrec
      split
      · exact recordHeld_congr s _ rfl rfl rfl
      · exact ⟨rfl, rfl⟩
    obtain ⟨hsli, hevu⟩ := hrecorded _ rfl
    unfold readDone heldEpoch at ht
    dsimp only at ht
    rw [hsli, hevu] at ht
    subst ht
    have hnone (h : ∀ i, met i → (entryAt s i).eraseBegun = false) : lateIndices s = [] :=
      List.eq_nil_iff_forall_not_mem.mpr fun i hi => by
        obtain ⟨hm, hb⟩ := (hlate i).mp hi
        rw [h i hm] at hb
        exact absurd hb (by decide)
    refine ⟨rfl, fun i => catGet_takenBack s _ wf, rfl, rfl, rfl, rfl, fun h => ?_, fun i hi hb hlast => ?_, rfl, rfl⟩
    · rw [hnone h]
      exact ⟨rfl, rfl⟩
    · have hmax := getLast?_of_rising hlateRise ((hlate i).mpr ⟨hi, hb⟩) fun j hj hij => by
        obtain ⟨hm, hb'⟩ := (hlate j).mp hj
        rw [hlast j hij hm] at hb'
        exact absurd hb' (by decide)
      have hne : lateIndices s ≠ [] := fun h => by
        simp [h] at hmax
      have henables : recorded.evu.enables = s.evu.enables := by
        rw [hrec]
        split
        · exact recordHeld_enables s _ s
        · rfl
      rw [hmax, if_neg hne, henables]
      exact ⟨rfl, rfl⟩
  · rw [trigger_taken hn hf]
    refine ⟨fun w hw => by rw [hw], fun hw ho => ?_, fun hw ho => ?_⟩
    · rw [hw]
      unfold startRefresh
      rw [if_pos ((nextOccupied_zero_isSome s).mpr ho)]
    · rw [hw]
      exact startRefresh_empty hw ho

/-! ### A change of the epoch and the request link -/

theorem trigger_onLink (l : Rli) (s : State) : trigger (onLink l s) = onLink l (trigger s) := by
  unfold trigger
  rw [show triggersTaken (onLink l s) = triggersTaken s from rfl, show (onLink l s).rwk = s.rwk from rfl]
  split
  · split <;> rfl
  · rfl

theorem holdMeetsDisposing_onLink (l : Rli) (s : State) (i : Nat) :
    holdMeetsDisposing (onLink l s) i = onLink l (holdMeetsDisposing s i) := by
  unfold holdMeetsDisposing
  dsimp only
  rw [commit_nil, commit_nil, show withdrawErases i (onLink l s) = onLink l (withdrawErases i s) from rfl, changeEntry_onLink]
  rw [apply_ite (onLink l), apply_ite (onLink l)]
  rfl

theorem epochChange_onLink (l : Rli) (s : State) : epochChange (onLink l s) = onLink l (epochChange s) := by
  have hfold (is : List Nat) (t : State) :
      is.foldl holdMeetsDisposing (onLink l t) = onLink l (is.foldl holdMeetsDisposing t) := by
    induction is generalizing t with
    | nil => rfl
    | cons i is ih => rw [List.foldl_cons, List.foldl_cons, holdMeetsDisposing_onLink, ih]
  unfold epochChange
  dsimp only
  rw [show ({ onLink l s with hdu := { (onLink l s).hdu with epoch := (onLink l s).hdu.epoch + 1 } } : State) =
    onLink l { s with hdu := { s.hdu with epoch := s.hdu.epoch + 1 } } from rfl, trigger_onLink,
    show ∀ t, disposingIndices (onLink l t) = disposingIndices t from fun _ => rfl, hfold]
  rfl

/-- What a change of an entry and of the epoch leaves as it is, the blocks that take part and the node apart. -/
def HoldOnly (t s : State) : Prop :=
  { t with ctc := s.ctc, mar := s.mar, scs := s.scs, sli := s.sli, evu := s.evu, rwk := s.rwk } = s ∧ t.ctc.node = s.ctc.node

theorem HoldOnly.trans (h : HoldOnly u t) (g : HoldOnly t s) : HoldOnly u s := by
  obtain ⟨h, hn⟩ := h
  obtain ⟨g, gn⟩ := g
  exact ⟨g ▸ h ▸ rfl, hn.trans gn⟩

theorem changeEntry_holdOnly (i : Nat) (e : Entry) (causes : HitCauses) (fs : List Effect) (s : State) :
    HoldOnly (changeEntry i e causes fs s) s := by
  by_cases hn : s.ctc.node = .storeFault
  · rw [changeEntry_fault hn, recordHit_eq]
    exact ⟨rfl, rfl⟩
  · rw [changeEntry_eq hn]
    exact ⟨rfl, rfl⟩

theorem holdMeetsDisposing_holdOnly (s : State) (i : Nat) : HoldOnly (holdMeetsDisposing s i) s := by
  unfold holdMeetsDisposing
  dsimp only
  rw [commit_nil]
  split
  · exact ⟨rfl, rfl⟩
  · split
    · exact ⟨rfl, rfl⟩
    · exact (changeEntry_holdOnly ..).trans ⟨rfl, rfl⟩

theorem epochChange_holdOnly (s : State) :
    HoldOnly (epochChange s) { s with hdu := { s.hdu with epoch := s.hdu.epoch + 1 } } := by
  have hfold (is : List Nat) (t : State) : HoldOnly (is.foldl holdMeetsDisposing t) t := by
    induction is generalizing t with
    | nil => exact ⟨rfl, rfl⟩
    | cons i is ih => exact (ih _).trans (holdMeetsDisposing_holdOnly t i)
  refine HoldOnly.trans (t := (disposingIndices (trigger _)).foldl holdMeetsDisposing (trigger _)) ⟨rfl, rfl⟩
    ((hfold _ _).trans ?_)
  rw [trigger_eq]
  exact ⟨rfl, rfl⟩

theorem epochChange_hdu (s : State) : (epochChange s).hdu = { s.hdu with epoch := s.hdu.epoch + 1 } :=
  congrArg State.hdu (epochChange_holdOnly s).1

theorem epochChange_node (s : State) : (epochChange s).ctc.node = s.ctc.node := (epochChange_holdOnly s).2

end Sys2Proof.Machine
end

section
/-! PROOFS. The slots of the Hold Table, and the requests PLACE HOLD and LIFT HOLD. -/

namespace Sys2Proof.Machine

variable {c : Instr} {s t u e : State} {tag kind : Byte}

/-! ### Operations that leave the request link alone -/

theorem enterQueue_comm {f : State → State} (hf : ∀ l s, f (onLink l s) = onLink l (f s)) (hr : (f s).rli = s.rli) (q : Req) :
    f (enterQueue q s) = enterQueue q (f s) := by
  unfold enterQueue
  rw [hr]
  exact hf _ s

theorem pushAnswers_comm {f : State → State} (hf : ∀ l s, f (onLink l s) = onLink l (f s)) (hr : (f s).rli = s.rli)
    (as : List Answer) : f (pushAnswers as s) = pushAnswers as (f s) := by
  unfold pushAnswers
  rw [hr]
  exact hf _ s

/-! ### The slots by matter -/

theorem isLifting_iff (s : State) (m : Matter) :
    isLifting s m = true ↔ ∃ h, some h ∈ s.hdu.slots ∧ h.hold.matter = m ∧ h.lifting = true := by
  simp only [isLifting, List.any_eq_true]
  constructor
  · rintro ⟨slot, hmem, hs⟩
    rcases slot with - | h
    · exact absurd hs Bool.false_ne_true
    · simp only [Bool.and_eq_true, decide_eq_true_eq] at hs
      exact ⟨h, hmem, hs⟩
  · rintro ⟨h, hmem, hm, hl⟩
    exact ⟨some h, hmem, by simp [hm, hl]⟩

/-- The slot of a matter is the first that bears it. -/
def bears (m : Matter) (slot : Option HoldSlot) : Bool := slot.any fun h => decide (h.hold.matter = m)

theorem slotOf_eq (s : State) (m : Matter) : slotOf s m = s.hdu.slots.findIdx? (bears m) := by
  unfold slotOf
  congr 1
  funext slot
  cases slot <;> rfl

theorem bears_eq_false_iff {m : Matter} {slot : Option HoldSlot} :
    bears m slot = false ↔ ∀ h, slot = some h → h.hold.matter ≠ m := by
  cases slot <;> simp [bears]

theorem slotOf_eq_none_iff (s : State) (m : Matter) :
    slotOf s m = none ↔ ∀ h, some h ∈ s.hdu.slots → h.hold.matter ≠ m := by
  simp only [slotOf_eq, List.findIdx?_eq_none_iff, bears_eq_false_iff]
  exact ⟨fun hn h hm => hn _ hm h rfl, fun hn x hx h hh => hn h (hh ▸ hx)⟩

theorem findIdx?_append_cons {α : Type} {p : α → Bool} {front back : List α} {x : α} (hf : ∀ y ∈ front, p y = false)
    (hx : p x = true) : (front ++ x :: back).findIdx? p = some front.length := by
  rw [List.findIdx?_append, List.findIdx?_eq_none_iff.mpr hf]
  simp [List.findIdx?_cons, hx]

theorem slotOf_first {front back : List (Option HoldSlot)} {h : HoldSlot} {m : Matter}
    (hs : s.hdu.slots = front ++ some h :: back) (hm : h.hold.matter = m) (hf : ∀ x, some x ∈ front → x.hold.matter ≠ m) :
    slotOf s m = some front.length := by
  rw [slotOf_eq, hs]
  exact findIdx?_append_cons (fun y hy => bears_eq_false_iff.mpr fun x hx => hf x (hx ▸ hy)) (by simp [bears, hm])

theorem slotAt_first {front back : List (Option HoldSlot)} {x : Option HoldSlot}
    (hs : s.hdu.slots = front ++ x :: back) : slotAt s front.length = x := by
  simp [slotAt, hs]

theorem emptySlot_first {front back : List (Option HoldSlot)} (hs : s.hdu.slots = front ++ none :: back)
    (hf : ∀ x ∈ front, x ≠ none) : emptySlot s = some front.length := by
  unfold emptySlot
  rw [hs]
  exact findIdx?_append_cons (fun y hy => by simpa using Option.isSome_iff_ne_none.mpr (hf y hy)) rfl

theorem emptySlot_full (hf : ∀ x ∈ s.hdu.slots, x ≠ none) : emptySlot s = none := by
  unfold emptySlot
  exact List.findIdx?_eq_none_iff.mpr fun y hy => by simpa using Option.isSome_iff_ne_none.mpr (hf y hy)

theorem updateFirst_append_cons {α : Type} {p : α → Bool} (f : α → α) {front back : List α} {x : α}
    (hf : ∀ y ∈ front, p y = false) (hx : p x = true) : updateFirst p f (front ++ x :: back) = front ++ f x :: back := by
  induction front with
  | nil => simp [updateFirst, hx]
  | cons y front ih =>
    rw [List.cons_append, updateFirst, if_neg (by simp [hf y List.mem_cons_self]),
      ih fun z hz => hf z (List.mem_cons_of_mem _ hz)]
    rfl

theorem updateLast_append_cons {α : Type} {p : α → Bool} (f : α → α) {front back : List α} {x : α}
    (hb : ∀ y ∈ back, p y = false) (hx : p x = true) : updateLast p f (front ++ x :: back) = front ++ f x :: back := by
  unfold updateLast
  rw [List.reverse_append, List.reverse_cons, List.append_assoc, List.singleton_append,
    updateFirst_append_cons f (fun y hy => hb y (List.mem_reverse.mp hy)) hx]
  simp

/-! ### PLACE HOLD and LIFT HOLD (R55 to R57) -/

theorem writeSlot_eq {ws : List SlotWrite} (hn : s.ctc.node ≠ .storeFault) (hw : s.hdu.writes = ws) (w : SlotWrite) :
    writeSlot w s = { s with hdu := { s.hdu with writes := ws ++ [w] } } := by
  rw [← hw]
  exact if_neg hn

theorem enterHold_eq (hn : s.ctc.node ≠ .storeFault) (i : Nat) (h : HoldRec) (heard : Bool) (p : SlotPurpose) {v : State}
    (hv : v = epochChange { s with hdu := { s.hdu with
      slots := s.hdu.slots.set i (some { hold := h, heard := heard })
      lifted := s.hdu.lifted.filter fun l => decide (l.matter ≠ h.matter) } }) :
    enterHold i h heard p s = { v with hdu := { v.hdu with writes := s.hdu.writes ++ [⟨i, some h, h.matter, p, []⟩] } } := by
  subst hv
  exact writeSlot_eq (s := epochChange _) (by rw [epochChange_node]; exact hn)
    (congrArg Hdu.writes (epochChange_hdu { s with hdu := { s.hdu with
      slots := s.hdu.slots.set i (some { hold := h, heard := heard })
      lifted := s.hdu.lifted.filter fun l => decide (l.matter ≠ h.matter) } })) _

theorem writeSlot_onLink (w : SlotWrite) (l : Rli) (s : State) : writeSlot w (onLink l s) = onLink l (writeSlot w s) := by
  unfold writeSlot
  rw [show (onLink l s).ctc = s.ctc from rfl, ← ite_onLink]
  rfl

theorem enterHold_onLink (i : Nat) (h : HoldRec) (heard : Bool) (p : SlotPurpose) (l : Rli) (s : State) :
    enterHold i h heard p (onLink l s) = onLink l (enterHold i h heard p s) := by
  unfold enterHold
  dsimp only
  rw [← writeSlot_onLink, ← epochChange_onLink]
  rfl

theorem epochChange_rli (s : State) : (epochChange s).rli = s.rli := by
  have h := congrArg State.rli (epochChange_holdOnly s).1
  exact h

theorem writeSlot_rli (w : SlotWrite) (s : State) : (writeSlot w s).rli = s.rli := by
  unfold writeSlot
  split <;> rfl

theorem enterHold_rli (i : Nat) (h : HoldRec) (heard : Bool) (p : SlotPurpose) (s : State) :
    (enterHold i h heard p s).rli = s.rli :=
  (writeSlot_rli ..).trans (epochChange_rli _)

theorem enterHold_enterQueue (q : Req) (i : Nat) (h : HoldRec) (heard : Bool) (p : SlotPurpose) (s : State) :
    enterHold i h heard p (enterQueue q s) = enterQueue q (enterHold i h heard p s) :=
  enterQueue_comm (enterHold_onLink i h heard p) (enterHold_rli i h heard p s) q

/-- The checks of PLACE HOLD and LIFT HOLD that come first. -/
theorem Checked.holdState {r : Req} {rest : List (Bool × Reply × Results)} {accepted X : Prop}
    (h : Checked c s r (holdStateChecks (enterQueue r s) ++ rest) accepted)
    (hX : s.ctc.node ≠ .storeFault → Checked c s r rest accepted → X) :
    if s.ctc.node = .awaitingStart ∨ s.ctc.node = .loading then Refuses c s r .notReady (.node s.ctc.node)
    else if s.ctc.node = .storeFault then Refuses c s r .storeFault .none else X :=
  Checked.cons h decide_eq_true_iff fun _ h => h.cons decide_eq_true_iff hX

theorem duplicateHold_done {i : Nat} (r : Req) (h : ∀ w ∈ s.hdu.writes, w.slot ≠ i) :
    duplicateHold r i (enterQueue r s) = pushAnswers [⟨r, true, .done, .none⟩] (enterQueue r s) := by
  refine (if_neg ?_).trans (answerReq_eq ..)
  simpa [enterQueue] using h

theorem duplicateHold_waits {i : Nat} (r : Req) {before after : List SlotWrite} {w : SlotWrite}
    (hws : s.hdu.writes = before ++ w :: after) (hw : w.slot = i) (ha : ∀ x ∈ after, x.slot ≠ i) :
    duplicateHold r i (enterQueue r s) = enterQueue r { s with hdu := { s.hdu with
      writes := before ++ { w with waiters := w.waiters ++ [r] } :: after } } := by
  have hlast := updateLast_append_cons (p := fun w : SlotWrite => decide (w.slot = i))
    (fun w => { w with waiters := w.waiters ++ [r] }) (front := before) (fun y hy => decide_eq_false (ha y hy))
    (decide_eq_true hw)
  refine (if_pos ?_).trans ?_
  · simp [enterQueue, hws, hw]
  · rw [← hlast, ← hws]
    rfl

theorem takeLift_eq (hn : s.ctc.node ≠ .storeFault) {front back : List (Option HoldSlot)} {h : HoldSlot}
    (hs : s.hdu.slots = front ++ some h :: back) (m : Matter) (p : SlotPurpose) :
    takeLift front.length m p s = { s with hdu := { s.hdu with
      slots := front ++ some { h with lifting := true } :: back
      writes := s.hdu.writes ++ [⟨front.length, none, m, p, []⟩] } } := by
  unfold takeLift updateSlot setSlot
  rw [slotAt_first hs, hs, List.set_append_right _ _ (Nat.le_refl _), Nat.sub_self, Option.map_some, List.set_cons_zero]
  exact if_neg hn

/-- Settles O25. -/
theorem placeAndLiftHold : Obligations.PlaceAndLiftHold := by
  unfold Obligations.PlaceAndLiftHold
  refine ⟨fun s => rfl, fun s m => ⟨isLifting_iff s m, slotOf_eq_none_iff s m, fun front h back hs hm hf =>
    ⟨slotOf_first hs hm hf, slotAt_first hs⟩⟩, ?_, ?_⟩
  · intro tag m patLen pattern s h c r hc hr
    have hch := request_checked (c := .placeHold tag m patLen pattern) (kind := 0x08) (checks := placeChecks m)
      (accept := fun r => takePlace r m (min 32 patLen.toNat) pattern) h rfl
    subst hc hr
    refine Checked.holdState hch fun hn hch => hch.cons decide_eq_true_iff fun _ hch => hch.cons Iff.rfl fun _ hch => ?_
    have hx := hch.nil
    have hslot : slotOf (enterQueue ⟨tag, 0x08⟩ s) m = slotOf s m := rfl
    unfold takePlace at hx
    rw [hslot] at hx
    refine ⟨fun i hi => ?_, fun hnone hfull => ?_, fun front back hnone hs hf hold u hh hu => ?_⟩
    · rw [hi] at hx
      dsimp only at hx
      refine ⟨fun hw => ?_, fun before w after hws hw hafter => ?_⟩
      · rw [duplicateHold_done _ hw] at hx
        exact answers_of hx rfl
      · rw [duplicateHold_waits _ hws hw hafter] at hx
        exact takes_of (hx.trans rfl) rfl
    · rw [hnone, emptySlot_full (by exact hfull)] at hx
      exact answers_of hx rfl
    · rw [hnone, emptySlot_first (by exact hs) hf] at hx
      dsimp only at hx
      rw [enterHold_enterQueue, mediaTail_enterQueue] at hx
      subst hh
      rw [enterHold_eq hn _ _ _ _ rfl, hs, List.set_append_right _ _ (Nat.le_refl _), Nat.sub_self, List.set_cons_zero] at hx
      refine takes_eq hx ?_ ?_
      · rw [hu]
        rfl
      · rw [mediaTail_rli]
        show u.rli = s.rli
        rw [hu]
        exact epochChange_rli _
  · intro tag m s h c r hc hr
    have hch := request_checked (c := .liftHold tag m) (kind := 0x09) (checks := liftChecks m)
      (accept := fun r s => takeLift ((slotOf s m).getD 0) m (.lifted r) s) h rfl
    subst hc hr
    refine Checked.holdState hch fun hn hch => hch.cons decide_eq_true_iff fun _ hch =>
      hch.cons Option.isNone_iff_eq_none fun _ hch => hch.cons Iff.rfl fun _ hch => ?_
    intro front h back hs hm hf
    have hx := hch.nil
    have hslot : slotOf (enterQueue ⟨tag, 0x09⟩ s) m = some front.length := slotOf_first (s := s) hs hm hf
    rw [hslot, Option.getD_some] at hx
    refine takes_eq hx ?_ rfl
    rw [takeLift_eq (s := enterQueue ⟨tag, 0x09⟩ s) hn (by exact hs)]
    rfl

end Sys2Proof.Machine
end

section
/-! PROOFS. The slot writes of the Hold Table and the frames of holds and lifts. -/

namespace Sys2Proof.Machine

variable {c : Instr} {s t u e : State} {tag kind : Byte}

/-! ### Commands that post a notice -/

/-- As `ends_pushAnswers`, where the stamp of the first notice may have been set. -/
theorem ends_stamped {as : List Answer} {n : Nat}
    (hx : exec c s = .next (linkEnd (pushAnswers as { e with rli := { e.rli with noticeStamp := n } })))
    (htx : e.rli.tx = s.rli.tx) (ha : e.rli.answers = s.rli.answers) : Ends c s e as := by
  refine ends_linkEnd hx rfl rfl rfl rfl htx fun a => ?_
  rw [pushAnswers_given]
  simp only [Given, htx, ha]

theorem postNotice_eq (n : Notice) (s : State) : ∃ k, postNotice n s = { s with rli := { s.rli with
    notices := if s.rli.notices.length < 32 then s.rli.notices ++ [n] else s.rli.notices, noticeStamp := k } } := by
  unfold postNotice
  split
  · exact ⟨_, rfl⟩
  · exact ⟨s.rli.noticeStamp, rfl⟩

theorem ends_posted {n : Notice} (hx : exec c s = .next (linkEnd (mediaTail (postNotice n e)))) (hr : e.rli = s.rli) :
    Ends c s (mediaTail { e with rli := { s.rli with
      notices := if s.rli.notices.length < 32 then s.rli.notices ++ [n] else s.rli.notices } }) [] := by
  obtain ⟨k, hk⟩ := postNotice_eq n e
  rw [hk, hr] at hx
  have hpost (l : Rli) : mediaTail { e with rli := l } = { mediaTail e with rli := l } := mediaTail_onLink l e
  rw [hpost] at hx ⊢
  exact ends_stamped (as := []) (n := k) (by rw [pushAnswers_nil]; exact hx) rfl rfl

/-! ### The Lifted List (R51) -/

theorem addLifted_old (m : Matter) (time : Nat) {before after : List Lifted} {old : Lifted}
    (hl : s.hdu.lifted = before ++ old :: after) (hlen : s.hdu.lifted.length ≤ 16) (hm : old.matter = m)
    (hne : ∀ x ∈ before ++ after, x.matter ≠ m) :
    (addLifted m time s).hdu.lifted = before ++ after ++ [⟨m, time, 0, old.owed⟩] := by
  have hb : before.filter (fun l => decide (l.matter ≠ m)) = before :=
    List.filter_eq_self.mpr fun x hx => decide_eq_true (hne x (List.mem_append_left _ hx))
  have ha : after.filter (fun l => decide (l.matter ≠ m)) = after :=
    List.filter_eq_self.mpr fun x hx => decide_eq_true (hne x (List.mem_append_right _ hx))
  have hkept : s.hdu.lifted.filter (fun l => decide (l.matter ≠ m)) = before ++ after := by
    rw [hl, List.filter_append, List.filter_cons, if_neg (by simp [hm]), hb, ha]
  have howed : (s.hdu.lifted.any fun l => decide (l.matter = m) && l.owed) = old.owed := by
    rw [hl, Bool.eq_iff_iff]
    simp only [List.any_eq_true, Bool.and_eq_true, decide_eq_true_eq]
    constructor
    · rintro ⟨x, hx, hxm, ho⟩
      rw [List.mem_append, List.mem_cons] at hx
      obtain hx | rfl | hx := hx
      · exact absurd hxm (hne x (List.mem_append_left _ hx))
      · exact ho
      · exact absurd hxm (hne x (List.mem_append_right _ hx))
    · exact fun ho => ⟨old, by simp, hm, ho⟩
  have hdrop : (before ++ after).length - 15 = 0 := by
    rw [hl] at hlen
    simp at hlen ⊢
    omega
  unfold addLifted
  dsimp only
  rw [hkept, howed, hdrop, List.drop_zero]

theorem addLifted_new (m : Matter) (time : Nat) (hne : ∀ x ∈ s.hdu.lifted, x.matter ≠ m) :
    (addLifted m time s).hdu.lifted = s.hdu.lifted.drop (s.hdu.lifted.length - 15) ++ [⟨m, time, 0, false⟩] := by
  have hkept : s.hdu.lifted.filter (fun l => decide (l.matter ≠ m)) = s.hdu.lifted :=
    List.filter_eq_self.mpr fun x hx => decide_eq_true (hne x hx)
  have howed : (s.hdu.lifted.any fun l => decide (l.matter = m) && l.owed) = false :=
    List.any_eq_false.mpr fun x hx => by simp [hne x hx]
  unfold addLifted
  dsimp only
  rw [hkept, howed]

/-! ### The completion of a slot's write (R55 to R59) -/

theorem foldl_answerDone (rs : List Req) (s : State) :
    answerDone rs s = pushAnswers (rs.map fun q => ⟨q, true, .done, .none⟩) s := by
  unfold answerDone
  induction rs generalizing s with
  | nil => exact (pushAnswers_nil s).symm
  | cons r rs ih => rw [List.foldl_cons, ih, List.map_cons, pushAnswers_cons]; rfl

theorem offerHold_eq {i : Nat} {h : HoldSlot} (hi : slotAt s i = some h) : offerHold i s =
    if canOffer s then { s with
      hdu := { s.hdu with slots := s.hdu.slots.set i (some { h with sendOwed := false }) }
      pbc := { s.pbc with sendQueue := insertSend { content := .frame (holdFrame h.hold) } s.pbc.sendQueue } }
    else { s with hdu := { s.hdu with slots := s.hdu.slots.set i (some { h with sendOwed := true }) } } := by
  unfold offerHold updateSlot
  rw [hi]
  rfl

theorem offerHold_onLink (i : Nat) (l : Rli) (s : State) : offerHold i (onLink l s) = onLink l (offerHold i s) := by
  unfold offerHold
  rw [show slotAt (onLink l s) i = slotAt s i from rfl, show canOffer (onLink l s) = canOffer s from rfl]
  split
  · split <;> rfl
  · rfl

theorem offerHold_rli (i : Nat) (s : State) : (offerHold i s).rli = s.rli := by
  unfold offerHold
  split
  · split <;> rfl
  · rfl

theorem offerLift_onLink (m : Matter) (time : Nat) (l : Rli) (s : State) :
    offerLift m time (onLink l s) = onLink l (offerLift m time s) := by
  unfold offerLift
  rw [show canOffer (onLink l s) = canOffer s from rfl]
  split <;> rfl

theorem offerLift_rli (m : Matter) (time : Nat) (s : State) : (offerLift m time s).rli = s.rli := by
  unfold offerLift
  split <;> rfl

theorem removeHold_rli (i : Nat) (m : Matter) (time : Nat) (s : State) : (removeHold i m time s).rli = s.rli :=
  epochChange_rli _

/-- The slot's write completed in the store, before what follows it. -/
theorem completeSlot_eq {i : Nat} {before after : List SlotWrite} {w : SlotWrite} (hh : s.store.header = true)
    (hws : s.hdu.writes = before ++ w :: after) (hw : w.slot = i) (hb : ∀ x ∈ before, x.slot ≠ i) :
    completeSlot i s = slotWritten w { s with
      hdu := { s.hdu with writes := before ++ after }
      store := { s.store with holds := s.store.holds.set i w.record } } := by
  have hfind : s.hdu.writes.find? (fun x => decide (x.slot = i)) = some w := by
    rw [hws, List.find?_append, List.find?_eq_none.mpr fun x hx => by simpa using hb x hx]
    simp [hw]
  have herase : s.hdu.writes.erase w = before ++ after := by
    rw [hws, List.erase_append_right _ fun h => hb w h hw, List.erase_cons_head]
  unfold completeSlot
  rw [hfind]
  dsimp only
  rw [if_pos hh, herase]

/-- Settles O27. -/
theorem holdSlotWriteCompletes : Obligations.HoldSlotWriteCompletes := by
  unfold Obligations.HoldSlotWriteCompletes
  refine ⟨fun m time s => ⟨rfl, fun before old after hl hlen hm hne => addLifted_old m time hl hlen hm hne, fun hne =>
    ⟨fun hlt => ?_, fun oldest rest hl hlen => ?_⟩⟩, fun slot s hp => ?_⟩
  · rw [addLifted_new m time hne, show s.hdu.lifted.length - 15 = 0 by omega, List.drop_zero]
  · rw [addLifted_new m time hne, hl, List.length_cons, hlen]
    rfl
  · have hx : exec (.holdSlotWriteComplete slot) s = .next (linkEnd (mediaTail (completeSlot slot.toNat s))) := by
      exact (powered_on hp _ : execHoldSlotWriteComplete slot s = _)
    have hsame (hu : completeSlot slot.toNat s = s) : Ends (.holdSlotWriteComplete slot) s (mediaTail s) [] := by
      rw [hu] at hx
      exact ends_linkEnd_same hx (mediaTail_rli s)
    refine ⟨fun hh => hsame ?_, fun hno => hsame ?_, fun before w after hh hws hw hb u hu => ?_⟩
    · unfold completeSlot
      split
      · exact if_neg (by simp [hh])
      · rfl
    · unfold completeSlot
      rw [List.find?_eq_none.mpr fun x hx => by simpa using hno x hx]
    · rw [completeSlot_eq hh hws hw hb, ← hu] at hx
      have hrli : u.rli = s.rli := by rw [hu]
      have hends {as : List Answer} {v : State} (hv : slotWritten w u = pushAnswers as v) (hr : v.rli = s.rli) :
          Ends (.holdSlotWriteComplete slot) s (mediaTail v) as := by
        rw [hv, mediaTail_pushAnswers] at hx
        exact ends_pushAnswers hx (by rw [mediaTail_rli, hr]) (by rw [mediaTail_rli, hr])
      have hremove (m : Matter) (time : Nat) : removeHold w.slot m time u =
          epochChange (addLifted m time { u with hdu := { u.hdu with slots := s.hdu.slots.set slot.toNat none } }) := by
        rw [hw, hu]
        rfl
      refine ⟨fun hpur => ?_, fun r h hpur hslot => ?_, fun r v hpur hv => ?_, fun time hpur => ?_⟩
      · refine hends ?_ hrli
        unfold slotWritten
        rw [hpur]
        exact foldl_answerDone _ _
      · refine hends ?_ ?_
        · have hslot' : slotAt u w.slot = some h := by rw [hw, hu]; exact hslot
          unfold slotWritten
          rw [hpur]
          dsimp only
          rw [foldl_answerDone, pushAnswers_comm (offerHold_onLink w.slot) (offerHold_rli w.slot u), offerHold_eq hslot', hw, hu]
          rfl
        · split <;> exact hrli
      · refine hends ?_ ?_
        · have hlast : lastKnown u = lastKnown s := by rw [hu]; rfl
          unfold slotWritten
          rw [hpur]
          dsimp only
          rw [hlast, hremove, ← hv, answerReq_eq,
            pushAnswers_comm (offerLift_onLink w.matter (lastKnown s)) (offerLift_rli w.matter (lastKnown s) v)]
          rfl
        · have hvrli : v.rli = s.rli := by
            rw [hv]
            exact (epochChange_rli _).trans hrli
          split <;> exact hvrli
      · refine hends (as := []) ?_ ?_
        · unfold slotWritten
          rw [hpur]
          exact (hremove _ _).trans (pushAnswers_nil _).symm
        · exact (epochChange_rli _).trans hrli

/-! ### HOLD and LIFT frames (R58, R59, R103) -/

theorem popFifo_eq {f : RxItem} {rest : List RxItem} (h : s.pbc.rxFifo = f :: rest) :
    popFifo s = { s with pbc := { s.pbc with rxFifo := rest } } := by
  unfold popFifo
  rw [h]
  rfl

theorem liftBlocks_iff (s : State) (m : Matter) (placed : Nat) :
    liftBlocks s m placed = true ↔ ∃ l ∈ s.hdu.lifted, l.matter = m ∧ placed ≤ l.time := by
  simp [liftBlocks]

/-- What a HOLD of a matter that a slot holds makes of the Hold Table. -/
theorem takeHold_held {sender : NodeId} {m : Matter} {n : Nat} {pattern : BitVec 32} {placed : Nat} (hm : m ≠ 0)
    {front back : List (Option HoldSlot)} {h : HoldSlot} (hs : s.hdu.slots = front ++ some h :: back)
    (hh : h.hold.matter = m) (hf : ∀ x, some x ∈ front → x.hold.matter ≠ m) :
    takeHold sender m n pattern placed s =
      { s with hdu := { s.hdu with slots := front ++ some { h with heard := true } :: back } } := by
  unfold takeHold updateSlot setSlot
  rw [if_neg hm, slotOf_first hs hh hf]
  dsimp only
  rw [slotAt_first hs, hs, List.set_append_right _ _ (Nat.le_refl _), Nat.sub_self, Option.map_some, List.set_cons_zero]

theorem takeHold_new {sender : NodeId} {m : Matter} {n : Nat} {pattern : BitVec 32} {placed : Nat} (hm : m ≠ 0)
    (hs : ∀ h, some h ∈ s.hdu.slots → h.hold.matter ≠ m) : takeHold sender m n pattern placed s =
      if liftBlocks s m placed = true then s
      else match emptySlot s with
        | some i => postNotice (.holdEntered m n pattern sender)
            (enterHold i ⟨m, n, pattern, placed, decide (placed = 0), sender⟩ true .entered s)
        | none => doubtOverflow s := by
  unfold takeHold
  rw [if_neg hm, (slotOf_eq_none_iff s m).mpr hs] <;> rfl

/-- As `enterHold_eq`, in every node state. -/
theorem enterHold_any (i : Nat) (h : HoldRec) (heard : Bool) (p : SlotPurpose) {v : State}
    (hv : v = epochChange { s with hdu := { s.hdu with
      slots := s.hdu.slots.set i (some { hold := h, heard := heard })
      lifted := s.hdu.lifted.filter fun l => decide (l.matter ≠ h.matter) } }) :
    enterHold i h heard p s = { v with hdu := { v.hdu with
      writes := if s.ctc.node = .storeFault then s.hdu.writes
        else s.hdu.writes ++ [⟨i, some h, h.matter, p, []⟩] } } := by
  by_cases hn : s.ctc.node = .storeFault
  · rw [if_pos hn]
    have hw : v.hdu.writes = s.hdu.writes := by rw [hv, epochChange_hdu]
    rw [← hw]
    refine (if_pos ?_).trans (by rw [hv]; rfl)
    rw [epochChange_node]
    exact hn
  · rw [if_neg hn]
    exact enterHold_eq hn i h heard p hv

theorem takeLiftFrame_ignored {m : Matter} {time : Nat} (h : m = 0 ∨ ∀ h, some h ∈ s.hdu.slots → h.hold.matter ≠ m) :
    takeLiftFrame m time s = s := by
  unfold takeLiftFrame
  obtain h | h := h
  · split
    · split
      · exact if_pos (.inl h)
      · rfl
    · rfl
  · rw [(slotOf_eq_none_iff s m).mpr h]

theorem takeLiftFrame_held {m : Matter} {time : Nat} {front back : List (Option HoldSlot)} {h : HoldSlot} (hm : m ≠ 0)
    (hs : s.hdu.slots = front ++ some h :: back) (hh : h.hold.matter = m) (hf : ∀ x, some x ∈ front → x.hold.matter ≠ m) :
    takeLiftFrame m time s =
      if h.lifting = true ∨ (h.hold.unknown = false ∧ time < h.hold.placed) then s
      else if s.ctc.node = .storeFault then removeHold front.length m time s
      else takeLift front.length m (.liftHeard time) s := by
  unfold takeLiftFrame
  rw [slotOf_first hs hh hf]
  dsimp only
  rw [slotAt_first hs]
  simp only [hm, false_or]

/-- Settles O28. -/
theorem holdAndLiftFrames : Obligations.HoldAndLiftFrames := by
  unfold Obligations.HoldAndLiftFrames
  refine ⟨fun sender m patLen pattern placed rest s hp hfifo u hu => ?_, fun sender m time rest s hp hfifo u hu => ?_⟩
  · have hx : exec .holdDispatch s = .next (linkEnd (mediaTail (takeHold sender m patLen pattern placed u))) := by
      have hx : exec .holdDispatch s = _ := (powered_on hp _ : execHoldDispatch s = _)
      rw [hx, hfifo, hu]
      dsimp only
      rw [popFifo_eq hfifo]
    have hrli : u.rli = s.rli := by rw [hu]
    have hhdu : u.hdu = s.hdu := by rw [hu]
    have hends {v : State} (hv : takeHold sender m patLen pattern placed u = v) (hr : v.rli = s.rli) :
        Ends .holdDispatch s (mediaTail v) [] := by
      rw [hv] at hx
      exact ends_linkEnd_same hx (by rw [mediaTail_rli, hr])
    split
    · rename_i hm
      exact hends (if_pos hm) hrli
    · rename_i hm
      refine ⟨fun front h back hs hh hf => ?_, fun hno => ?_⟩
      · refine hends ?_ ?_
        · rw [takeHold_held hm (by rw [hhdu]; exact hs) hh hf, hhdu]
        · exact hrli
      · have htake := takeHold_new (s := u) (sender := sender) (n := patLen) (pattern := pattern) (placed := placed) hm
          (by rw [hhdu]; exact hno)
        refine ⟨fun hblock => ?_, fun hblock => ?_⟩
        · exact hends (htake.trans (if_pos ((liftBlocks_iff u m placed).mpr (by rw [hhdu]; exact hblock)))) hrli
        · rw [if_neg (by
            rw [liftBlocks_iff, hhdu]
            rintro ⟨l, hl, hlm, hle⟩
            exact absurd (hblock l hl hlm) (Nat.not_lt.mpr hle))] at htake
          refine ⟨fun hfull => ?_, fun front back hs hf hold v hhold hv => ?_⟩
          · rw [emptySlot_full (by rw [hhdu]; exact hfull)] at htake
            refine hends (htake.trans ?_) ?_
            · rw [hu]
              rfl
            · exact hrli
          · rw [emptySlot_first (by rw [hhdu]; exact hs) hf] at htake
            dsimp only at htake
            rw [← hhold, enterHold_any front.length hold true .entered (v := v) (by
              rw [hv, hhdu, hs, List.set_append_right _ _ (Nat.le_refl _), Nat.sub_self, List.set_cons_zero, hhold]), hhdu] at htake
            rw [htake] at hx
            have hnode : u.ctc.node = s.ctc.node := by rw [hu]
            have hmatter : hold.matter = m := by rw [hhold]
            rw [hnode, hmatter] at hx
            have hvrli : v.rli = s.rli := by
              rw [hv, epochChange_rli]
              exact hrli
            have hends := ends_posted hx hvrli
            dsimp only at hends
            exact hends
  · have hx : exec .liftDispatch s = .next (mediaTail (takeLiftFrame m time u)) := by
      have hx : exec .liftDispatch s = _ := (powered_on hp _ : execLiftDispatch s = _)
      rw [hx, hfifo, hu]
      dsimp only
      rw [popFifo_eq hfifo]
    rw [hx]
    have hhdu : u.hdu = s.hdu := by rw [hu]
    refine ⟨fun hm => ?_, fun hno => ?_, fun front h back hm hs hh hf => ?_⟩
    · rw [takeLiftFrame_ignored (.inl hm)]
    · rw [takeLiftFrame_ignored (.inr (by rw [hhdu]; exact hno))]
    · have htake := takeLiftFrame_held (s := u) (time := time) hm (by rw [hhdu]; exact hs) hh hf
      rw [htake]
      have hnode : u.ctc.node = s.ctc.node := by rw [hu]
      split
      · rfl
      · rw [hnode]
        split
        · unfold removeHold setSlot
          rw [hhdu, hs, List.set_append_right _ _ (Nat.le_refl _), Nat.sub_self, List.set_cons_zero]
        · rename_i hn
          rw [takeLift_eq (by rw [hnode]; exact hn) (by rw [hhdu]; exact hs), hhdu]

end Sys2Proof.Machine
end

section
/-! PROOFS. The round boundary of the Hold Table. -/

namespace Sys2Proof.Machine

variable {c : Instr} {s t u e : State} {tag kind : Byte}

/-- The slots that are due at a round boundary (R61). -/
def slotDue (s : State) (i : Nat) : Bool :=
  match slotAt s i with
  | some h => !h.heard && !h.lifting
  | none => false

/-- The frames that the Send Queue takes at once. -/
def sendRoom (s : State) : Nat := if canOffer s then 16 - s.pbc.sendQueue.length else 0

def dueSlots (is : List Nat) (s : State) : List Nat := is.filter (slotDue s)

/-- The Send Queue with the HOLDs of the slots entered, in their order. -/
def holdsEntered (hs : List HoldSlot) (queue : List SendItem) : List SendItem :=
  hs.foldl (fun queue h => insertSend { content := .frame (holdFrame h.hold) } queue) queue

theorem slotAt_setSlot {i : Nat} {x y : Option HoldSlot} (h : slotAt s i = x) (hx : x ≠ none) (j : Nat) :
    slotAt (setSlot i y s) j = if j = i then y else slotAt s j := by
  show (s.hdu.slots.set i y).getD j none = _
  split
  · rename_i hj
    rw [hj, getD_set_self, if_pos]
    by_contra hlen
    exact hx (h ▸ by simp [slotAt, Nat.not_lt.mp hlen])
  · rename_i hj
    exact getD_set_of_ne _ _ (Ne.symm hj)

theorem roundSlot_idle {i : Nat} (h : slotDue s i = false) : roundSlot s i = s := by
  unfold slotDue at h
  unfold roundSlot
  split
  · rename_i h' hi
    rw [hi] at h
    refine if_pos ?_
    cases hh : h'.heard <;> cases hl : h'.lifting <;> simp_all
  · rfl

theorem roundSlot_due {i : Nat} {h : HoldSlot} (hi : slotAt s i = some h) (hd : slotDue s i = true) : roundSlot s i =
    if canOffer s then setSlot i (some { h with sendOwed := false }) (enqueueFrame (holdFrame h.hold) s)
    else setSlot i (some { h with sendOwed := true }) s := by
  unfold slotDue at hd
  unfold roundSlot updateSlot
  rw [hi] at hd ⊢
  dsimp only at hd ⊢
  rw [if_neg (by cases hh : h.heard <;> cases hl : h.lifting <;> simp_all)]
  rw [show slotAt (enqueueFrame (holdFrame h.hold) s) i = slotAt s i from rfl, hi]
  rfl

/-- What a round boundary makes of the slots `is` of `s`, as it stands to `u` after them. -/
def Rounded (is : List Nat) (s u : State) : Prop :=
  u = { s with
    hdu := { s.hdu with slots := u.hdu.slots }
    pbc := { s.pbc with sendQueue := holdsEntered (((dueSlots is s).take (sendRoom s)).filterMap (slotAt s)) s.pbc.sendQueue } } ∧
  u.hdu.slots.length = s.hdu.slots.length ∧
  ∀ i, slotAt u i = (slotAt s i).map fun h => { h with
    sendOwed := if i ∈ (dueSlots is s).take (sendRoom s) then false
      else if i ∈ (dueSlots is s).drop (sendRoom s) then true else h.sendOwed }

theorem sendRoom_enqueue (q : SendItem) (h : canOffer s = true) : sendRoom s = sendRoom (enqueue q s) + 1 := by
  obtain ⟨hopen, hlen, hdup, hsil⟩ := (canOffer_iff s).mp h
  have hlen' : (insertSend q s.pbc.sendQueue).length = s.pbc.sendQueue.length + 1 := length_insertSend q _
  have hnext : canOffer (enqueue q s) = true ↔ s.pbc.sendQueue.length + 1 < 16 := by
    rw [canOffer_iff, ← hlen']
    exact ⟨fun h => h.2.1, fun h => ⟨hopen, h, hdup, hsil⟩⟩
  unfold sendRoom
  rw [if_pos h]
  split
  · rename_i hn
    have := hnext.mp hn
    show _ = 16 - (insertSend q s.pbc.sendQueue).length + 1
    omega
  · rename_i hn
    have := mt hnext.mpr hn
    omega

theorem rounded_foldl (is : List Nat) (hnd : is.Nodup) (s : State) : Rounded is s (is.foldl roundSlot s) := by
  induction is generalizing s with
  | nil => simp [Rounded, dueSlots, holdsEntered]
  | cons i is ih =>
    obtain ⟨hi, hnd'⟩ := List.nodup_cons.mp hnd
    rw [List.foldl_cons]
    have hsame (t : State) (ht : ∀ j, j ≠ i → slotAt t j = slotAt s j) : dueSlots is t = dueSlots is s :=
      List.filter_congr fun j hj => by rw [slotDue, slotDue, ht j fun h => hi (h ▸ hj)]
    cases hd : slotDue s i with
    | false =>
      have hdue : dueSlots (i :: is) s = dueSlots is s := List.filter_cons_of_neg (by simp [hd])
      rw [roundSlot_idle hd]
      unfold Rounded
      rw [hdue]
      exact ih hnd' s
    | true =>
      have hdue : dueSlots (i :: is) s = i :: dueSlots is s := List.filter_cons_of_pos hd
      have hnot (k : Nat) : i ∉ (dueSlots is s).take k ∧ i ∉ (dueSlots is s).drop k :=
        ⟨fun h => hi (List.mem_of_mem_filter (List.mem_of_mem_take h)),
          fun h => hi (List.mem_of_mem_filter (List.mem_of_mem_drop h))⟩
      obtain ⟨h, hslot⟩ : ∃ h, slotAt s i = some h := by
        unfold slotDue at hd
        cases hs : slotAt s i with
        | none => rw [hs] at hd; exact absurd hd Bool.false_ne_true
        | some h => exact ⟨h, rfl⟩
      rw [roundSlot_due hslot hd]
      unfold Rounded
      rw [hdue]
      by_cases hoff : canOffer s = true
      · rw [if_pos hoff]
        generalize ht : setSlot i (some { h with sendOwed := false }) (enqueueFrame (holdFrame h.hold) s) = t
        have hslots (j : Nat) : slotAt t j = if j = i then some { h with sendOwed := false } else slotAt s j := by
          rw [← ht]
          exact slotAt_setSlot (s := enqueueFrame (holdFrame h.hold) s) hslot (by simp) j
        have hdue' := hsame t fun j hj => by rw [hslots, if_neg hj]
        have hroom : sendRoom s = sendRoom t + 1 := by rw [← ht]; exact sendRoom_enqueue _ hoff
        obtain ⟨hu, hlen, hat⟩ := ih hnd' t
        rw [hdue'] at hu hat
        rw [hroom, List.take_succ_cons, List.drop_succ_cons, List.filterMap_cons_some hslot]
        have hframes : ((dueSlots is s).take (sendRoom t)).filterMap (slotAt t) =
            ((dueSlots is s).take (sendRoom t)).filterMap (slotAt s) :=
          List.filterMap_congr fun j hj => by rw [hslots, if_neg fun hji => (hnot _).1 (hji ▸ hj)]
        rw [hframes] at hu
        refine ⟨hu.trans ?_, hlen.trans ?_, fun j => (hat j).trans ?_⟩
        · rw [← ht]
          rfl
        · rw [← ht]
          exact List.length_set
        · rw [hslots]
          by_cases hj : j = i
          · subst hj
            simp [hslot, hnot]
          · simp [hj]
      · rw [if_neg hoff]
        generalize ht : setSlot i (some { h with sendOwed := true }) s = t
        have hslots (j : Nat) : slotAt t j = if j = i then some { h with sendOwed := true } else slotAt s j := by
          rw [← ht]
          exact slotAt_setSlot hslot (by simp) j
        have hdue' := hsame t fun j hj => by rw [hslots, if_neg hj]
        have hroom : sendRoom s = 0 := if_neg hoff
        have hroom' : sendRoom t = 0 := by rw [← ht]; exact if_neg hoff
        obtain ⟨hu, hlen, hat⟩ := ih hnd' t
        rw [hdue', hroom'] at hat
        rw [hroom'] at hu
        rw [hroom]
        refine ⟨hu.trans ?_, hlen.trans ?_, fun j => (hat j).trans ?_⟩
        · rw [← ht]
          rfl
        · rw [← ht]
          exact List.length_set
        · rw [hslots]
          by_cases hj : j = i
          · subst hj
            simp [hslot]
          · simp [hj]

/-! ### The rest of a round boundary (R51, R64) -/

theorem slotAt_ageRound (s : State) (i : Nat) :
    slotAt (ageRound s) i = (slotAt s i).map fun h => { h with heard := false } := by
  show (s.hdu.slots.map (Option.map fun h => { h with heard := false })).getD i none = _
  simp only [slotAt, List.getD_eq_getElem?_getD, List.getElem?_map]
  cases s.hdu.slots[i]? <;> rfl

/-- Hold doubt as a round boundary leaves it (R64). -/
def countedDoubt (s : State) : Doubt × Option Nat :=
  match doubtStands s, s.hdu.doubtTimer with
  | false, _ => (s.hdu.doubt, none)
  | true, none => (s.hdu.doubt, none)
  | true, some k => if 1 ≤ k then (⟨false, false, false⟩, none) else (s.hdu.doubt, some (k + 1))

theorem trigger_rwk_congr {a b : State} (hc : a.ctc = b.ctc) (hr : a.rwk = b.rwk) (he : a.hdu.epoch = b.hdu.epoch) :
    (trigger a).rwk = (trigger b).rwk := by
  have htaken : triggersTaken a = triggersTaken b := by unfold triggersTaken; rw [hc, hr]
  unfold trigger startRefresh nextOccupied
  rw [htaken, hc, hr, he]
  split
  · cases b.rwk.walk <;> rfl
  · exact hr

/-- The triggering boundary is the second one after the cause of the doubt. -/
theorem countRound_eq (s : State) : countRound s = { s with
    hdu := { s.hdu with doubt := (countedDoubt s).1, doubtTimer := (countedDoubt s).2 }
    rwk := (countRound s).rwk } := by
  unfold countRound countedDoubt
  cases hd : doubtStands s <;> cases ht : s.hdu.doubtTimer <;> simp only [if_true, Bool.false_eq_true, if_false]
  · rw [← ht]
  · split
    · exact trigger_eq _
    · rfl

theorem countRound_rwk_idle (h : doubtStands s = false ∨ s.hdu.doubtTimer = none ∨ s.hdu.doubtTimer = some 0) :
    (countRound s).rwk = s.rwk := by
  unfold countRound
  split
  · rename_i hd
    obtain h | h | h := h
    · exact absurd (hd.symm.trans h) (by decide)
    · rw [h]
    · rw [h]
      rfl
  · rfl

theorem countRound_rwk_over {k : Nat} (hd : doubtStands s = true) (ht : s.hdu.doubtTimer = some k) (hk : 1 ≤ k) :
    (countRound s).rwk = (trigger s).rwk := by
  unfold countRound
  rw [if_pos hd, ht]
  dsimp only
  rw [if_pos hk]
  exact trigger_rwk_congr rfl rfl rfl

/-- Settles O29. -/
theorem roundBoundaryOffersHolds : Obligations.RoundBoundaryOffersHolds := by
  unfold Obligations.RoundBoundaryOffersHolds
  intro s hp
  have hx : exec .roundBoundary s = .next (if s.hdu.roundTimer.isSome then
      roundBoundary { s with hdu := { s.hdu with
        roundTimer := some (s.coreMs + seconds (inForceOr s Settings.holdRound 60)) } } else s) :=
    (powered_on hp _ : execRoundBoundary s = _)
  refine ⟨fun h => by rw [hx, h]; rfl, fun cfg room due frame ht hcfg hroom hdue hframe => ?_⟩
  rw [if_pos (Option.isSome_iff_ne_none.mpr ht)] at hx
  refine ⟨_, hx, ?_⟩
  generalize hs' : ({ s with hdu := { s.hdu with
    roundTimer := some (s.coreMs + seconds (inForceOr s Settings.holdRound 60)) } } : State) = s'
  have hdue' : due = dueSlots (List.range s'.hdu.slots.length) s' := by
    rw [hdue, ← hs']
    exact List.filter_congr fun i _ => by
      show _ = slotDue s i
      unfold slotDue
      cases slotAt s i <;> rfl
  have hroom' : room = sendRoom s' := by rw [hroom, ← hs']; rfl
  have hframe' : frame = fun h => { content := .frame (holdFrame h.hold) } := funext hframe
  obtain ⟨hu, hlen, hat⟩ := rounded_foldl (List.range s'.hdu.slots.length) List.nodup_range s'
  rw [← hdue', ← hroom'] at hu hat
  unfold roundBoundary
  generalize (List.range s'.hdu.slots.length).foldl roundSlot s' = u at hu hlen hat ⊢
  have hslots (i : Nat) : slotAt (ageRound u) i = (slotAt s i).map fun h => { h with
      heard := false
      sendOwed := if i ∈ due.take room then false else if i ∈ due.drop room then true else h.sendOwed } := by
    rw [slotAt_ageRound, hat i, ← hs', Option.map_map]
    rfl
  have hlength : (ageRound u).hdu.slots.length = s.hdu.slots.length := by
    rw [show (ageRound u).hdu.slots.length = u.hdu.slots.length from List.length_map _, hlen, ← hs']
  obtain ⟨slots, hv⟩ : ∃ slots, ageRound u = { s with
      hdu := { s.hdu with
        slots := slots, roundTimer := some (s.coreMs + 1000 * cfg.holdRound)
        lifted := (s.hdu.lifted.filter fun l => decide (l.age = 0)).map fun l => { l with age := 1 } }
      pbc := { s.pbc with sendQueue := holdsEntered ((due.take room).filterMap (slotAt s)) s.pbc.sendQueue } } := by
    refine ⟨(ageRound u).hdu.slots, ?_⟩
    have hround : seconds (inForceOr s Settings.holdRound 60) = 1000 * cfg.holdRound := by
      rw [inForceOr_some hcfg, seconds]
    rw [← hround]
    conv_lhs => rw [hu, ← hs']
    conv_rhs => rw [hu, ← hs']
    rfl
  generalize ageRound u = v at hslots hlength hv ⊢
  have hrwk := countRound_rwk_idle (s := v)
  have hover (k : Nat) := countRound_rwk_over (s := v) (k := k)
  have htrigger : (trigger v).rwk = (trigger s).rwk := by rw [hv]; exact trigger_rwk_congr rfl rfl rfl
  have hdoubt : countedDoubt v = countedDoubt s := by rw [hv]; rfl
  rw [countRound_eq, hdoubt]
  generalize hr : (countRound v).rwk = r at hrwk hover ⊢
  refine ⟨?_, hlength, hslots, ?_, ?_, ?_, ?_, ?_, ?_, ?_, ?_⟩
  · rw [hframe', hv]
    rfl
  · rw [hv]
  · rw [hv]
  · rw [hv]
  · rw [hv]
  · unfold countedDoubt
    cases doubtStands s <;> cases s.hdu.doubtTimer <;> rfl
  · rw [hv]
  · intro h
    rw [hv] at hrwk
    exact hrwk h
  · intro k hd hk h1
    rw [hv] at hover
    exact (hover k hd hk h1).trans (by rw [← hv]; exact htrigger)

end Sys2Proof.Machine
end

section
/-! PROOFS. The requests that take an entry, and the requests that report entries. -/

namespace Sys2Proof.Machine

variable {c : Instr} {s t u e : State} {tag kind : Byte}

/-! ### LODGE and ADOPT accepted (R13, R18, R21) -/

theorem lodgeChecks_pass {key : FullKey} {custLen cls : Nat} {es : List Extent} (h : LodgePasses s key custLen cls es) :
    firstFailing (lodgeChecks key custLen cls es s) = none := by
  obtain ⟨hn, h1, h2, h3, hrt, hguard, hkeys, hfree, hbeyond, hruns, hpair⟩ := h
  have hshort : findKey s (shortKeyOf key) = none := by
    unfold findKey catFind readableCat
    rw [Option.map_eq_none_iff, List.find?_eq_none]
    intro p hp
    have hmem : p ∈ s.ctc.work := by
      split at hp
      · exact List.mem_of_mem_filter hp
      · exact hp
    simpa [Entry.occupied] using fun ho => (hkeys p hmem ho).2
  have hfull : ¬ (findFullKey s key).isSome = true := by
    rw [findFullKey_isSome]
    rintro ⟨p, hp, ho, hk⟩
    exact (hkeys p hp ho).1 hk
  have hover : ¬ overlapsMap s es = true := by
    rw [overlapsMap_iff]
    rintro (⟨x, hx, q, hq, hlt⟩ | hp)
    · have := hruns x hx q hq
      omega
    · exact hp hpair
  have hbey : ¬ beyondMedia s es = true := by
    rw [beyondMedia_iff]
    rintro ⟨x, hx, hlt⟩
    exact absurd (hbeyond x hx) (Nat.not_le.mpr hlt)
  rw [Bool.not_eq_true] at hfull hover hbey
  rw [firstFailing_eq_none]
  unfold lodgeChecks runningOnly
  simp only [List.cons_append, List.nil_append, List.forall_mem_cons, hn, hrt, hguard, hshort, hfull, hover, hbey]
  refine ⟨by decide, by decide, by decide, decide_eq_false (by omega), rfl, trivial, trivial, rfl, ?_, trivial, trivial, by simp⟩
  simpa [List.isEmpty_iff] using hfree

theorem hitOf_some (i : Nat) (key : ShortKey) (e : Entry) {causes : HitCauses} (h : causes ≠ {}) :
    hitOf i key e causes = some ⟨key, causes, i, e.state, e.holdCount, e.holders⟩ := if_neg h

theorem acceptEntry_eq (hn : s.ctc.node ≠ .storeFault) (r : Req) {i : Nat} {rest : List Nat} (hf : s.ctc.freeList = i :: rest)
    (e : Entry) : acceptEntry r e s = entryTaken r i rest e (acceptCauses e.origin) s := by
  have hhw : max s.ctc.highWater ((raisedHighWater s e.lodgeTime).getD 0) = max s.ctc.highWater e.lodgeTime := by
    unfold raisedHighWater
    split
    · rfl
    · rename_i h
      rw [Option.getD_none, Nat.max_zero, Nat.max_eq_left (Nat.not_lt.mp h)]
  have hcauses : acceptCauses e.origin ≠ {} := fun h => Bool.noConfusion (congrArg HitCauses.state h : true = false)
  unfold acceptEntry
  rw [hf]
  dsimp only
  rw [passAccepted_eq, hitOf_some i e.shortKey e hcauses, hhw]
  unfold queueWrite entryTaken
  rw [if_neg (by exact hn)]
  rfl

/-- An accepted request of a passing key that ends in the taking of an entry. -/
theorem takes_entry {e : Entry} {r : Req} {i : Nat} {rest : List Nat} {causes : HitCauses} (hn : s.ctc.node = .running)
    (hf : s.ctc.freeList = i :: rest) (hc : causes = acceptCauses e.origin)
    (hx : exec c s = .next (linkEnd (acceptEntry r e (enterQueue r s)))) : Takes c s r (entryTaken r i rest e causes s) := by
  subst hc
  refine takes_eq hx ?_ rfl
  rw [acceptEntry_eq (s := enterQueue r s) (show s.ctc.node ≠ _ by rw [hn]; decide) r hf e]
  rfl

/-- Settles O21. -/
theorem lodgeAndAdoptTakeAnEntry : Obligations.LodgeAndAdoptTakeAnEntry := by
  unfold Obligations.LodgeAndAdoptTakeAnEntry
  refine ⟨fun tag key custLen cust cls n slots i rest s h hfit hpass hf e he => ?_,
    fun tag key custLen cust cls time n slots i rest s h hfit hpass hf cust' cls' time' holders hsrc e he => ?_⟩
  · have hch := request_checked (c := .lodge tag key custLen cust cls n slots) (kind := 0x04)
      (checks := lodgeChecks key custLen.toNat cls.toNat (usedSlots slots n.toNat))
      (accept := fun r => acceptLodge r key (custodianOf custLen.toNat cust) cls.toNat (usedSlots slots n.toNat)) h
      (by rw [← hfit]; rfl)
    generalize usedSlots slots n.toNat = es at hch hpass he
    have hx := hch.2 (lodgeChecks_pass (s := enterQueue ⟨tag, 0x04⟩ s) hpass)
    subst he
    exact takes_entry hpass.1 hf rfl hx
  · have hch := request_checked (c := .adopt tag key custLen cust cls time n slots) (kind := 0x05)
      (checks := lodgeChecks key custLen.toNat cls.toNat (usedSlots slots n.toNat))
      (accept := fun r => acceptAdopt r key (custodianOf custLen.toNat cust) cls.toNat time.toNat (usedSlots slots n.toNat)) h
      (by rw [← hfit]; rfl)
    generalize usedSlots slots n.toNat = es at hch hpass he
    have hx := hch.2 (lodgeChecks_pass (s := enterQueue ⟨tag, 0x05⟩ s) hpass)
    have hclaim : claimOf (enterQueue ⟨tag, 0x05⟩ s) (shortKeyOf key) =
        s.cnu.claims.find? (fun c => decide (c.key = key.extractLsb' 192 64)) := rfl
    unfold acceptAdopt at hx
    rw [hclaim] at hx
    split at hsrc
    · rename_i cl hcl
      obtain ⟨rfl, rfl, rfl, rfl⟩ := hsrc
      rw [hcl] at hx
      subst he
      exact takes_entry hpass.1 hf rfl hx
    · rename_i hcl
      obtain ⟨rfl, rfl, rfl, rfl⟩ := hsrc
      rw [hcl] at hx
      subst he
      exact takes_entry hpass.1 hf rfl hx

/-! ### LOOKUP (R180) -/

theorem isChanging_iff (s : State) (i : Nat) : isChanging s i = true ↔ ∃ w ∈ s.ctc.writes, w.index = i := by
  simp [isChanging]

theorem lookupAt_stands {i : Nat} (r q : Req) (byKey : Option ShortKey) (h : ∀ w ∈ s.ctc.writes, w.index ≠ i) :
    lookupAt r i byKey (enterQueue q s) =
      pushAnswers [⟨r, true, .done, lookupEntry i (entryAt s i)⟩] (enterQueue q s) := by
  refine (if_neg ?_).trans (answerReq_eq ..)
  rw [isChanging_iff]
  rintro ⟨w, hw, hi⟩
  exact h w hw hi

theorem lookupAt_waits {i : Nat} (r q : Req) (byKey : Option ShortKey) {before after : List EntryWrite} {w : EntryWrite}
    (hws : s.ctc.writes = before ++ w :: after) (hw : w.index = i) (ha : ∀ x ∈ after, x.index ≠ i) :
    lookupAt r i byKey (enterQueue q s) = enterQueue q { s with ctc := { s.ctc with
      writes := before ++ { w with lookups := w.lookups ++ [⟨r, byKey⟩] } :: after } } := by
  have hlast := updateLast_append_cons (p := fun w : EntryWrite => decide (w.index = i))
    (fun w => { w with lookups := w.lookups ++ [⟨r, byKey⟩] }) (front := before) (fun y hy => decide_eq_false (ha y hy))
    (decide_eq_true hw)
  refine (if_pos ((isChanging_iff _ i).mpr ⟨w, ?_, hw⟩)).trans ?_
  · simp [enterQueue, hws]
  · dsimp only
    rw [← hlast, ← hws]
    rfl

/-- What a LOOKUP of an entry comes to, by its outstanding writes. -/
theorem lookupAt_ends {r : Req} {i : Nat} (byKey : Option ShortKey)
    (hx : exec c s = .next (linkEnd (lookupAt r i byKey (enterQueue r s)))) :
    ((∀ w ∈ s.ctc.writes, w.index ≠ i) → Refuses c s r .done (lookupEntry i (entryAt s i))) ∧
      ∀ before w after, s.ctc.writes = before ++ w :: after → w.index = i → (∀ x ∈ after, x.index ≠ i) →
        Takes c s r { s with ctc := { s.ctc with
          writes := before ++ { w with lookups := w.lookups ++ [⟨r, byKey⟩] } :: after } } := by
  refine ⟨fun h => ?_, fun before w after hws hw ha => ?_⟩
  · exact answers_eq hx (lookupAt_stands r r byKey h) rfl
  · exact takes_eq hx (lookupAt_waits r r byKey hws hw ha) rfl

theorem catFind_first {key : ShortKey} {cat before after : Cat} {p : Nat × Entry} (hc : cat = before ++ p :: after)
    (ho : p.2.state ≠ .free) (hk : p.2.shortKey = key) (hb : ∀ x ∈ before, x.2.state ≠ .free → x.2.shortKey ≠ key) :
    catFind cat key = some p.1 := by
  unfold catFind
  rw [hc, List.find?_append, List.find?_eq_none.mpr fun x hx => by simpa [Entry.occupied] using hb x hx]
  simp [Entry.occupied, ho, hk]

theorem catFind_none {key : ShortKey} {cat : Cat} (h : ∀ p ∈ cat, p.2.state ≠ .free → p.2.shortKey ≠ key) :
    catFind cat key = none := by
  unfold catFind
  rw [List.find?_eq_none.mpr fun x hx => by simpa [Entry.occupied] using h x hx]
  rfl

theorem mem_of_readable {p : Nat × Entry} (h : p ∈ readableCat s) : p ∈ s.ctc.work := by
  unfold readableCat at h
  split at h
  · exact List.mem_of_mem_filter h
  · exact h

/-! ### LIST RELEASABLE (R181) -/

theorem releasableFrom_eq (s : State) (start : Nat) : releasableFrom s start =
    ((s.ctc.work.filter fun p => decide ((s.ctc.loadStopped = true → p.1 < s.ctc.loaded) ∧ ¬ Unreadable s p.1)).filter
      fun p => decide (start ≤ p.1 ∧ p.2.state = .releasable)).map fun p => (p.1, p.2.shortKey) := by
  have hread : readableCat s = s.ctc.work.filter fun p => decide (s.ctc.loadStopped = true → p.1 < s.ctc.loaded) := by
    unfold readableCat
    split
    · rename_i h
      exact List.filter_congr fun p _ => by simp [h]
    · rename_i h
      exact (List.filter_eq_self.mpr fun p _ => decide_eq_true fun hs => absurd hs h).symm
  unfold releasableFrom
  rw [hread, List.filter_filter, List.filter_filter]
  congr 1
  refine List.filter_congr fun p _ => ?_
  rw [Bool.eq_iff_iff]
  simp only [Bool.and_eq_true, decide_eq_true_eq, Bool.not_eq_true', ← Bool.not_eq_true, skips_iff]
  tauto

theorem listResults_some {start count : Nat} (hc : count ≠ 0) : ∃ resume,
    listResults start count s = .releasable ((releasableFrom s start).take count) resume ∧
      (((releasableFrom s start).take count).length < count → resume = none) ∧
      (((releasableFrom s start).take count).length = count → ∀ last,
        ((releasableFrom s start).take count).getLast? = some last →
        resume = if last.1 + 1 < (if s.ctc.loadStopped then s.ctc.loaded else 131072) then some (last.1 + 1) else none) := by
  unfold listResults
  rw [if_neg hc]
  dsimp only
  generalize (releasableFrom s start).take count = found
  split
  · rename_i last key hlast
    refine ⟨_, rfl, fun hlt => if_neg fun h => absurd h.1 (Nat.ne_of_lt hlt), fun hlen l hl => ?_⟩
    obtain rfl : (last, key) = l := Option.some.inj (hlast.symm.trans hl)
    simp only [hlen, true_and]
    rfl
  · rename_i hlast
    rw [List.getLast?_eq_none_iff.mp hlast]
    refine ⟨none, rfl, fun _ => rfl, fun _ l hl => ?_⟩
    exact absurd hl (by simp)

/-- Settles O24. -/
theorem lookupAndListReport : Obligations.LookupAndListReport := by
  unfold Obligations.LookupAndListReport
  refine ⟨fun tag selector operand s h hsel c r i cat hc hr hi hcat => ?_, fun tag start count s h c r cat hc hr hcat => ?_⟩
  · have hch := request_checked (c := .lookup tag selector operand) (kind := 0x0A) (checks := afterLoading)
      (accept := fun r => if selector = 0 then lookupIndex r (operand.extractLsb' 0 24).toNat else lookupKey r operand) h
      (by rw [← decide_eq_true hsel]; rfl)
    subst hc hr
    refine Checked.afterLoading (rest := []) hch fun _ hch => ?_
    have hx := hch.nil
    split
    · rename_i h0
      rw [if_pos h0, show (operand.extractLsb' 0 24).toNat = i by rw [hi]; simp] at hx
      unfold lookupIndex at hx
      split
      · rename_i hbig
        rw [if_pos (show catalogueSize ≤ i from hbig)] at hx
        exact answers_of hx rfl
      · rename_i hbig
        rw [if_neg (show ¬ catalogueSize ≤ i from hbig)] at hx
        split
        · rename_i hstop
          rw [if_pos (by rw [Bool.and_eq_true, decide_eq_true_iff]; exact hstop)] at hx
          exact answers_of hx rfl
        · rename_i hstop
          rw [if_neg (by rw [Bool.and_eq_true, decide_eq_true_iff]; exact hstop)] at hx
          obtain ⟨hnow, hlater⟩ := lookupAt_ends none hx
          split
          · rename_i hno
            exact hnow hno
          · exact hlater
    · rename_i h0
      rw [if_neg h0] at hx
      unfold lookupKey at hx
      have hfind : findKey (enterQueue ⟨tag, 0x0A⟩ s) operand = catFind cat operand := by rw [hcat]; rfl
      refine ⟨fun before p after hb ho hk hne wf => ?_, fun hno => ?_⟩
      · rw [hfind, catFind_first hb ho hk hne] at hx
        obtain ⟨hnow, hlater⟩ := lookupAt_ends (some operand) hx
        have hp : entryAt s p.1 = p.2 := by
          refine catGet_of_mem wf (mem_of_readable (s := s) ?_)
          rw [show readableCat s = cat from hcat.symm, hb]
          simp
        refine ⟨fun hw => ?_, hlater⟩
        have hres : lookupEntry p.1 (entryAt s p.1) = .entry p.1 p.2 := by
          unfold lookupEntry
          rw [hp, if_neg ho]
        exact hres ▸ hnow hw
      · rw [hfind, catFind_none hno] at hx
        dsimp only at hx
        refine ⟨fun hs => ?_, fun hs hstore => ?_⟩
        · rw [if_pos (by exact hs)] at hx
          exact answers_of hx rfl
        · have hstored : catFind (enterQueue ⟨tag, 0x0A⟩ s).store.entries operand = none := catFind_none hstore
          rw [if_neg (by simp [enterQueue, hs]), hstored] at hx
          exact answers_of hx rfl
  · have hch := request_checked (c := .listReleasable tag start count) (kind := 0x0B)
      (checks := fun s => afterLoading s ++ [(decide (catalogueSize ≤ start.toNat), .badField, .none)])
      (accept := fun r s => answerReq r .done (listResults start.toNat (min 16 count.toNat) s) (readDone s)) h
      (by
        show execListReleasable tag start count s = _
        unfold execListReleasable
        rfl)
    subst hc hr
    refine Checked.afterLoading hch fun _ hch => hch.cons (catalogueSize_le _) fun _ hch => ?_
    have hx := hch.nil
    have hlist : listResults start.toNat (min 16 count.toNat) (enterQueue ⟨tag, 0x0B⟩ s) =
        listResults start.toNat (min 16 count.toNat) s := rfl
    rw [hlist] at hx
    split
    · rename_i h0
      rw [show listResults start.toNat (min 16 count.toNat) s = .releasable [] (some start.toNat) from if_pos (by simp [h0])] at hx
      exact answers_of hx rfl
    · rename_i h0
      have hne : min 16 count.toNat ≠ 0 := by
        have : count.toNat ≠ 0 := fun hz => h0 (BitVec.eq_of_toNat_eq hz)
        omega
      obtain ⟨resume, hres, hnone, hsome⟩ := listResults_some (s := s) (start := start.toNat) hne
      rw [hres] at hx
      refine ⟨_, resume, answers_of hx rfl, List.length_take_le _ _, ?_, fun hlt => ⟨hnone hlt, fun p hp hle hs => ?_⟩, hsome⟩
      · rw [hcat, ← releasableFrom_eq]
        exact List.take_prefix _ _
      · rw [List.take_of_length_le (by
          rw [List.length_take] at hlt
          omega), releasableFrom_eq, ← hcat]
        exact List.mem_map.mpr ⟨p, List.mem_filter.mpr ⟨hp, decide_eq_true ⟨hle, hs⟩⟩, rfl⟩

end Sys2Proof.Machine
end

section
/-! PROOFS. START: its checks, its settings and its acceptance. -/

namespace Sys2Proof.Machine

variable {c : Instr} {s t u e : State} {tag kind : Byte}

theorem trigger_running {w : Walk} (hw : s.rwk.walk = some w) (hn : s.ctc.node ≠ .awaitingStart)
    (hf : s.ctc.node ≠ .storeFault) : trigger s = { s with rwk := { s.rwk with pendingWalk := true } } :=
  (trigger_taken hn fun h => absurd h hf).trans (by rw [hw])

/-! ### The settings of a record (Table 12-4) -/

theorem shortens_iff (old new : Option Nat) :
    shortens old new = true ↔ ∃ days, new = some days ∧ ∀ before, old = some before → days < before := by
  cases old <;> cases new <;> simp [shortens]

/-! ### The presence windows that end at START (R117 <2>) -/

/-- The windows that end set their slots ABSENT, raise PRESENCE and leave a walk pending, while a walk runs. -/
theorem endWindows_eq (ids : List NodeId) (hnd : ids.Nodup) {w : Walk} (hw : s.rwk.walk = some w)
    (hn : s.ctc.node = .loading) : ∃ peers,
    ids.foldl (fun s id => changePresence id .absent s) s = { s with
      pbc := { s.pbc with peers := peers }
      rwk := { s.rwk with pendingWalk := if ids = [] then s.rwk.pendingWalk else true }
      evu := { s.evu with flags := if ids = [] then s.evu.flags else s.evu.flags ||| 0x001000 } } ∧
    peers.length = s.pbc.peers.length ∧
    (s.pbc.peers.length = 16 → ∀ id : NodeId, peers.getD id.toNat {} =
      if id ∈ ids then { peerAt s id with presence := .absent } else peerAt s id) := by
  induction ids generalizing s with
  | nil => exact ⟨s.pbc.peers, rfl, rfl, fun _ id => rfl⟩
  | cons id ids ih =>
    obtain ⟨hid, hnd'⟩ := List.nodup_cons.mp hnd
    have hstep : changePresence id .absent s = { s with
        pbc := { s.pbc with peers := s.pbc.peers.set id.toNat { peerAt s id with presence := .absent } }
        rwk := { s.rwk with pendingWalk := true }
        evu := { s.evu with flags := s.evu.flags ||| 0x001000 } } := by
      unfold changePresence
      rw [trigger_running (w := w)]
      · rfl
      · exact hw
      · exact fun h => absurd (hn.symm.trans h) (by decide)
      · exact fun h => absurd (hn.symm.trans h) (by decide)
    have hother (j : NodeId) (hj : j ≠ id) : peerAt (changePresence id .absent s) j = peerAt s j :=
      peerAt_changePresence_ne _ s hj
    have hself (h16 : s.pbc.peers.length = 16) :
        peerAt (changePresence id .absent s) id = { peerAt s id with presence := .absent } := by
      rw [hstep]
      exact (getD_set_self ..).trans (if_pos (by rw [h16]; exact id.isLt))
    rw [List.foldl_cons]
    generalize changePresence id .absent s = v at hstep hother hself ⊢
    obtain ⟨peers, hp, hlen, hat⟩ := ih hnd' (s := v) (by rw [hstep]; exact hw) (by rw [hstep]; exact hn)
    have hlenv : v.pbc.peers.length = s.pbc.peers.length := by rw [hstep]; exact List.length_set
    refine ⟨peers, hp.trans ?_, hlen.trans hlenv, fun h16 j => (hat (hlenv.trans h16) j).trans ?_⟩
    · rw [hstep]
      by_cases hnil : ids = [] <;> simp [hnil, BitVec.or_assoc]
    · by_cases hj : j = id
      · subst hj
        rw [if_neg hid, if_pos List.mem_cons_self, hself h16]
      · simp only [List.mem_cons, hj, false_or, hother j hj]

/-! ### The acceptance (R145 <2>, R178) -/

/-- The beacon source's offer, as START makes it. -/
theorem offerBeacon_start (ho : s.pbc.sendOpen = true) : ∃ queue held,
    offerBeacon s = { s with pbc := { s.pbc with sendQueue := queue, heldBeacon := held } } ∧
    (s.pbc.sendQueue = [] → held = s.pbc.heldBeacon ∧
      queue = if s.pbc.dupId = true ∨ s.pbc.confinement = .silent then [] else [{ content := .beacon }]) := by
  by_cases hmute : s.pbc.dupId = true ∨ s.pbc.confinement = .silent
  · refine ⟨s.pbc.sendQueue, s.pbc.heldBeacon, ?_, fun hq => ⟨rfl, by rw [if_pos hmute, hq]⟩⟩
    rw [offerBeacon_closed (hmute.imp_right .inl)]
  · obtain ⟨hd, hs⟩ := not_or.mp hmute
    rw [offerBeacon_open (by simpa using hd) hs ho]
    split
    · rename_i h
      exact ⟨s.pbc.sendQueue, true, rfl, fun hq => by simp [hq] at h⟩
    · split
      · rename_i h
        exact ⟨s.pbc.sendQueue, s.pbc.heldBeacon, rfl, fun hq => by simp [hq] at h⟩
      · split
        · exact ⟨_, s.pbc.heldBeacon, rfl, fun hq => ⟨rfl, by rw [hq, List.nil_append]⟩⟩
        · rename_i h
          exact ⟨s.pbc.sendQueue, s.pbc.heldBeacon, rfl, fun hq => by simp [hq] at h⟩

theorem takeMediaSize_exg (s : State) : takeMediaSize s = { s with exg :=
    if s.ctc.inForce.isSome = true ∧ s.pins.mediaReady = true ∧ s.exg.sizeTaken = false then
      { s.exg with reportedSize := s.pins.presentedSize, sizeTaken := true } else s.exg } := by
  unfold takeMediaSize
  cases s.ctc.inForce.isSome <;> cases s.pins.mediaReady <;> cases s.exg.sizeTaken <;> rfl

theorem startTaken_accept (cfg : Settings) (u : State) :
    StartTaken cfg u (takeMediaSize (endStaleWindows (offerBeacon (settingsInForce cfg u)))) := by
  obtain ⟨queue, held, hoffer, hempty⟩ := offerBeacon_start (s := settingsInForce cfg u) rfl
  rw [hoffer]
  generalize hv : ({ settingsInForce cfg u with
    pbc := { (settingsInForce cfg u).pbc with sendQueue := queue, heldBeacon := held } } : State) = v
  have hover (id : NodeId) : windowOver v id = true ↔ WindowOver u cfg id := by
    rw [windowOver_iff, ← hv]
    have hwindow : presenceWindow (settingsInForce cfg u) = 3000 * cfg.beacon := by
      show seconds (3 * cfg.beacon) = _
      unfold seconds
      omega
    exact and_congr_right fun _ => exists_congr fun h => and_congr_right fun _ => by
      rw [show ∀ p : Pbc, presenceWindow { settingsInForce cfg u with pbc := p } = presenceWindow (settingsInForce cfg u)
        from fun _ => rfl, hwindow]
      rfl
  obtain ⟨peers, hends, hlen, hat⟩ := endWindows_eq (s := v) (w := ⟨.load, 0, none⟩) (allNodes.filter (windowOver v))
    (nodup_allNodes.filter _) (by rw [← hv]; rfl) (by rw [← hv]; rfl)
  unfold endStaleWindows
  rw [hends, takeMediaSize_exg]
  have hnone : (allNodes.filter (windowOver v) = []) ↔ ∀ id, ¬ WindowOver u cfg id := by
    rw [List.filter_eq_nil_iff]
    exact ⟨fun h id => (hover id).not.mp (h id (mem_allNodes id)), fun h id _ => (hover id).not.mpr (h id)⟩
  have hmem (id : NodeId) : id ∈ allNodes.filter (windowOver v) ↔ WindowOver u cfg id := by
    rw [List.mem_filter, hover]
    exact and_iff_right (mem_allNodes id)
  refine ⟨?_, ?_, ?_, ?_, ?_, ?_, ?_, fun h16 => ⟨?_, fun id => ?_⟩, ?_, fun h => ?_, fun h => ?_, ?_⟩
  · rw [← hv]; rfl
  · rw [← hv]; rfl
  · rw [← hv]; rfl
  · rw [← hv]; rfl
  · rw [← hv]; rfl
  · rw [← hv]; rfl
  · exact fun hq => by
      rw [← hv]
      exact hempty hq
  · exact hlen.trans (by rw [← hv]; exact h16)
  · refine (hat (by rw [← hv]; exact h16) id).trans ?_
    simp only [hmem]
    rw [← hv]
    rfl
  · rw [← hv]
    exact if_congr (by simp [settingsInForce]) rfl rfl
  · have hne : ¬ allNodes.filter (windowOver v) = [] := fun hn => by
      obtain ⟨id, hid⟩ := h
      exact hnone.mp hn id hid
    simp only [if_neg hne, true_and]
    rw [← hv]
    rfl
  · simp only [if_pos (hnone.mpr h)]
    rw [← hv]
    exact ⟨rfl, rfl⟩
  · rw [← hv]
    rfl

/-! ### START and START_ACCEPTED (R176 to R178) -/

theorem takeEarlyLifts_rli (ws : List SlotWrite) (s : State) : (takeEarlyLifts ws s).rli = s.rli := by
  unfold takeEarlyLifts
  induction ws generalizing s with
  | nil => rfl
  | cons w ws ih =>
    rw [List.foldl_cons, ih]
    split
    · exact removeHold_rli ..
    · rfl

theorem takeEarlyLifts_none {ws : List SlotWrite} (h : ∀ w ∈ ws, ∀ time, w.purpose ≠ .liftHeard time) (s : State) :
    takeEarlyLifts ws s = s := by
  unfold takeEarlyLifts
  induction ws with
  | nil => rfl
  | cons w ws ih =>
    obtain ⟨hw, hws⟩ := List.forall_mem_cons.mp h
    rw [List.foldl_cons]
    split
    · rename_i time hp
      exact absurd hp (hw time)
    · exact ih hws

theorem shortenedClass_isSome (old new : Settings) : (shortenedClass old new).isSome = true ↔
    ∃ k ∈ List.range 16, shortens (old.periods.getD k (some 0)) (new.periods.getD k (some 0)) = true := by
  simp [shortenedClass, List.find?_isSome]

theorem shortenedClass_first {old new : Settings} {k : Nat} (h : shortenedClass old new = some k) :
    k < 16 ∧ shortens (old.periods.getD k (some 0)) (new.periods.getD k (some 0)) = true ∧
      ∀ j < k, shortens (old.periods.getD j (some 0)) (new.periods.getD j (some 0)) = false := by
  unfold shortenedClass at h
  rw [List.find?_range_eq_some] at h
  obtain ⟨hs, hk, hj⟩ := h
  exact ⟨List.mem_range.mp hk, hs, fun j hlt => by simpa using hj j hlt⟩

/-- The record's field of one byte. -/
theorem recordField_byte {record : BitVec 416} {byte : Nat → Nat}
    (h : ∀ i < 52, byte i = (record.extractLsb' (8 * (51 - i)) 8).toNat) {i : Nat} (hi : i < 52) :
    recordField record i 1 = byte i := by
  rw [h i hi, recordField, BitVec.extractLsb'_toNat, Nat.shiftRight_eq_div_pow, show 52 - i - 1 = 51 - i by omega]

theorem recordField_split (record : BitVec 416) {i n : Nat} (hi : i + n < 52) :
    recordField record i (n + 1) = 256 ^ n * recordField record i 1 + recordField record (i + 1) n := by
  have hhigh : 2 ^ (8 * (52 - i - 1)) = 2 ^ (8 * (51 - i - n)) * 2 ^ (8 * n) := by
    rw [← Nat.pow_add, ← Nat.mul_add, show 51 - i - n + n = 52 - i - 1 by omega]
  have hsplit : 2 ^ (8 * (n + 1)) = 2 ^ (8 * n) * 2 ^ (8 * 1) := by rw [← Nat.pow_add, ← Nat.mul_add]
  unfold recordField
  rw [hhigh, hsplit, show 52 - i - (n + 1) = 51 - i - n by omega, show 52 - (i + 1) - n = 51 - i - n by omega,
    ← Nat.div_div_eq_div_mul, Nat.mod_mul, show 256 ^ n = 2 ^ (8 * n) by rw [Nat.pow_mul], Nat.add_comm]

theorem recordField_two {record : BitVec 416} {byte : Nat → Nat}
    (h : ∀ i < 52, byte i = (record.extractLsb' (8 * (51 - i)) 8).toNat) {i : Nat} (hi : i < 51) :
    recordField record i 2 = 256 * byte i + byte (i + 1) := by
  rw [recordField_split record (n := 1) (by omega), recordField_byte h (by omega), recordField_byte h (by omega), Nat.pow_one]

theorem recordField_four {record : BitVec 416} {byte : Nat → Nat}
    (h : ∀ i < 52, byte i = (record.extractLsb' (8 * (51 - i)) 8).toNat) {i : Nat} (hi : i < 49) :
    recordField record i 4 = 16777216 * byte i + 65536 * byte (i + 1) + 256 * byte (i + 2) + byte (i + 3) := by
  rw [recordField_split record (n := 3) (by omega), recordField_split record (n := 2) (by omega), recordField_two h (by omega),
    recordField_byte h (by omega), recordField_byte h (by omega), show i + 1 + 1 = i + 2 from rfl, show i + 2 + 1 = i + 3 from rfl]
  omega

theorem settingsOf_eq (record : BitVec 416) {byte : Nat → Nat}
    (h : ∀ i < 52, byte i = (record.extractLsb' (8 * (51 - i)) 8).toNat) :
    settingsOf record = {
       k := max 1 (min 8 (byte 0)), q := max 1 (min 9 (byte 1))
       periods := (List.range 16).map fun c =>
         if 256 * byte (2 + 2 * c) + byte (3 + 2 * c) = 65535 then none
         else some (min 36500 (256 * byte (2 + 2 * c) + byte (3 + 2 * c)))
       beacon := max 1 (min 60 (byte 34)), skew := max 1 (min 3600 (256 * byte 35 + byte 36))
       holdRound := max 60 (min 3600 (256 * byte 37 + byte 38))
       appealStep := max 5 (min 1000 (256 * byte 39 + byte 40)), recruitStep := max 5 (min 1000 (256 * byte 41 + byte 42))
       claimLifetime := max 1 (min 240 (byte 43))
       scrubTick := max 1 (min 86400 (16777216 * byte 44 + 65536 * byte 45 + 256 * byte 46 + byte 47))
       mediaTimeout := max 1 (min 600 (256 * byte 48 + byte 49)), bitRate := min 3 (byte 50)
       scrubAbort := decide (byte 51 ≠ 0) } := by
  have hperiods : ((List.range 16).map fun c => periodOf (recordField record (2 + 2 * c) 2)) =
      (List.range 16).map fun c =>
        if 256 * byte (2 + 2 * c) + byte (3 + 2 * c) = 65535 then none
        else some (min 36500 (256 * byte (2 + 2 * c) + byte (3 + 2 * c))) :=
    List.map_congr_left fun c hc => by
      rw [recordField_two h (by have := List.mem_range.mp hc; omega), show 2 + 2 * c + 1 = 3 + 2 * c by omega]
      rfl
  unfold settingsOf clamp
  rw [hperiods]
  simp only [recordField_two h (i := 35) (by decide), recordField_two h (i := 37) (by decide),
    recordField_two h (i := 39) (by decide), recordField_two h (i := 41) (by decide), recordField_two h (i := 48) (by decide),
    recordField_four h (i := 44) (by decide), recordField_byte h (i := 0) (by decide), recordField_byte h (i := 1) (by decide),
    recordField_byte h (i := 34) (by decide), recordField_byte h (i := 43) (by decide), recordField_byte h (i := 50) (by decide),
    recordField_byte h (i := 51) (by decide), Nat.zero_max]

/-- The part after START's acceptance, before its answer. -/
def acceptedStart (cfg : Settings) (s : State) : State :=
  takeMediaSize (endStaleWindows (offerBeacon (settingsInForce cfg s)))

/-- START's acceptance replaces nothing of the request link, and does not look at it. -/
theorem acceptedStart_link (cfg : Settings) (l : Rli) (s : State) :
    acceptedStart cfg (onLink l s) = onLink l (acceptedStart cfg s) := by
  have hpresence (id : NodeId) (t : State) :
      changePresence id .absent (onLink l t) = onLink l (changePresence id .absent t) := by
    unfold changePresence
    rw [← trigger_onLink]
    rfl
  have hfold (ids : List NodeId) (t : State) : ids.foldl (fun s id => changePresence id .absent s) (onLink l t) =
      onLink l (ids.foldl (fun s id => changePresence id .absent s) t) := by
    induction ids generalizing t with
    | nil => rfl
    | cons id ids ih => rw [List.foldl_cons, List.foldl_cons, hpresence, ih]
  have hbeacon (t : State) : offerBeacon (onLink l t) = onLink l (offerBeacon t) := by
    unfold offerBeacon
    repeat rw [← ite_onLink]
    rfl
  have hends (t : State) : endStaleWindows (onLink l t) = onLink l (endStaleWindows t) := hfold _ t
  unfold acceptedStart
  rw [show settingsInForce cfg (onLink l s) = onLink l (settingsInForce cfg s) from rfl, hbeacon, hends, takeMediaSize_exg,
    takeMediaSize_exg]
  rfl

theorem acceptedStart_rli (cfg : Settings) (s : State) : (acceptedStart cfg s).rli = s.rli := by
  have h := startTaken_accept cfg s
  obtain ⟨-, -, -, -, -, -, -, -, -, -, -, he⟩ := h
  have hr := congrArg State.rli he
  exact hr

theorem acceptStart_enterQueue (r : Req) (cfg : Settings) (s : State) :
    acceptStart r cfg (enterQueue r s) = pushAnswers [⟨r, true, .done, .none⟩] (enterQueue r (acceptedStart cfg s)) :=
  congrArg (answerReq r .done .none) (enterQueue_comm (acceptedStart_link cfg) (acceptedStart_rli cfg s) r)

theorem ends_started {r : Req} {cfg : Settings} (hx : exec c s = .next (linkEnd (acceptStart r cfg u)))
    (htx : u.rli.tx = s.rli.tx) (ha : u.rli.answers = s.rli.answers) :
    Ends c s (acceptedStart cfg u) [⟨r, true, .done, .none⟩] :=
  ends_pushAnswers (as := [⟨r, true, .done, .none⟩]) hx (by rw [acceptedStart_rli, htx]) (by rw [acceptedStart_rli, ha])

/-- Settles O16. -/
theorem startIsCheckedAndAccepted : Obligations.StartIsCheckedAndAccepted := by
  unfold Obligations.StartIsCheckedAndAccepted
  refine ⟨fun record byte h => settingsOf_eq record h, shortens_iff, fun s cfg hc => ⟨?_, fun cls => ?_⟩,
    fun tag choice record s h hfit c r hc hr => ?_, fun s hp => ⟨fun h => ?_, fun st h hprep => ?_, fun st u h hprep hu =>
    ⟨fun hw => ?_, ?_⟩⟩⟩
  · unfold presenceWindow seconds
    rw [hc]
    dsimp only
    omega
  · exact inForceOr_some hc _ _
  · have hch := request_checked (c := .start tag choice record) (kind := 0x01) (checks := startChecks choice record)
      (accept := fun r => takeStart r choice record) h (by rw [← decide_eq_true hfit]; rfl)
    subst hc hr
    refine hch.cons decide_eq_true_iff fun _ hch => hch.cons decide_eq_true_iff fun hn hch =>
      hch.cons Option.isSome_iff_ne_none fun _ hch => ?_
    have hn' : s.ctc.node = .awaitingStart := not_not.mp hn
    have hcheck : (decide (choice = 0) && !(enterQueue ⟨tag, 0x01⟩ s).store.header) = true ↔
        choice = 0 ∧ s.store.header = false := by simp [enterQueue]
    have hres : Results.node (enterQueue ⟨tag, 0x01⟩ s).ctc.node = .node .awaitingStart := by
      show Results.node s.ctc.node = _
      rw [hn']
    rw [hres] at hch
    refine hch.cons hcheck fun _ hch => ?_
    by_cases h0 : choice = 0
    · rw [if_pos h0]
      have hnone : startShortens choice record (enterQueue ⟨tag, 0x01⟩ s) = none := if_neg (by simp [h0])
      rw [hnone] at hch
      have hx := hch.2 rfl
      unfold takeStart at hx
      rw [if_pos h0, acceptStart_enterQueue] at hx
      refine ⟨s.ctc.settingsRead.getD s.store.settings, _, ?_, startTaken_accept _ _, answers_of hx (acceptedStart_rli _ _)⟩
      cases s.ctc.settingsRead with
      | none => exact .inr ⟨rfl, rfl⟩
      | some cfg => exact .inl rfl
    · rw [if_neg h0]
      have h1 : choice = 1 := by
        have hne : choice.toNat ≠ 0 := fun hz => h0 (BitVec.eq_of_toNat_eq hz)
        exact BitVec.eq_of_toNat_eq (show choice.toNat = 1 by omega)
      have hshort : startShortens choice record (enterQueue ⟨tag, 0x01⟩ s) =
          if s.store.header = true then shortenedClass s.store.settings (settingsOf record) else none :=
        if_congr (by simp [h1, enterQueue]) rfl rfl
      rw [hshort] at hch
      refine hch.cons_of ?_ (fun hP href => ?_) fun _ hch => ?_
      · split
        · rename_i hh
          rw [shortenedClass_isSome]
          exact (and_iff_right hh).symm
        · rename_i hh
          simp [hh]
      · obtain ⟨hh, hP⟩ := hP
        rw [if_pos hh] at href
        obtain ⟨k, hk⟩ := Option.isSome_iff_exists.mp ((shortenedClass_isSome _ _).mpr hP)
        rw [hk, Option.getD_some] at href
        obtain ⟨hlt, hs, hmin⟩ := shortenedClass_first hk
        exact ⟨k, hlt, hs, hmin, href⟩
      · have hx := hch.nil
        unfold takeStart at hx
        rw [if_neg h0] at hx
        exact ends_pushAnswers (as := []) (by rw [pushAnswers_nil]; exact hx) rfl rfl
  · have hx : exec .startAccepted s = _ := (powered_on hp _ : execStartAccepted s = _)
    rw [hx, h]
  · have hx : exec .startAccepted s = _ := (powered_on hp _ : execStartAccepted s = _)
    rw [h] at hx
    dsimp only at hx
    unfold startWritten at hx
    dsimp only at hx
    rw [if_neg (by simp [hprep])] at hx
    refine ⟨_, startTaken_accept _ _, ?_⟩
    exact ends_started (hx.trans rfl) rfl rfl
  · rw [hu, takeEarlyLifts_none hw]
  · have hx : exec .startAccepted s = _ := (powered_on hp _ : execStartAccepted s = _)
    rw [h] at hx
    dsimp only at hx
    unfold startWritten at hx
    dsimp only at hx
    rw [if_pos hprep] at hx
    unfold preparedStore at hx
    dsimp only at hx
    rw [← hu] at hx
    have hrli : u.rli = { s.rli with starting := none } := by
      rw [hu]
      exact takeEarlyLifts_rli _ _
    refine ⟨_, startTaken_accept _ _, ?_⟩
    have htx : u.rli.tx = s.rli.tx := by rw [hrli]
    have ha : u.rli.answers = s.rli.answers := by rw [hrli]
    exact ends_started hx htx ha

end Sys2Proof.Machine
end

section
/-! PROOFS. How a request arrives: it enters the queue, and no owner takes it out again at once. -/

namespace Sys2Proof.Machine

variable {c : Instr} {s t u e : State} {tag kind : Byte}

/-! ### The owners leave the request queue as it is -/

theorem recordHit_rli (h : Option Hit) (s : State) : (recordHit h s).rli = s.rli := by rw [recordHit_eq]

theorem changeEntry_rli (i : Nat) (e : Entry) (causes : HitCauses) (fs : List Effect) (s : State) :
    (changeEntry i e causes fs s).rli = s.rli := by
  have h := congrArg State.rli (changeEntry_holdOnly i e causes fs s).1
  exact h

theorem checked_requests (r : Req) (checks : List (Bool × Reply × Results)) {accept : State → State}
    (h : (accept s).rli.requests = s.rli.requests) : (checked r checks accept s).rli.requests = s.rli.requests := by
  unfold checked
  split
  · rfl
  · exact h

theorem mediaTail_requests (s : State) : (mediaTail s).rli.requests = s.rli.requests := by rw [mediaTail_rli]

theorem checked_tail_requests (r : Req) (checks : List (Bool × Reply × Results)) {f : State → State}
    (h : (f s).rli.requests = s.rli.requests) :
    (checked r checks (fun s => mediaTail (f s)) s).rli.requests = s.rli.requests :=
  checked_requests r checks ((mediaTail_requests _).trans h)

theorem takeStart_requests (r : Req) (choice : Byte) (record : BitVec 416) (s : State) :
    (takeStart r choice record s).rli.requests = s.rli.requests := by
  unfold takeStart
  split
  · show (acceptedStart _ s).rli.requests = _
    rw [acceptedStart_rli]
  · rfl

theorem takeTime_requests (r : Req) (time : Nat) (s : State) : (takeTime r time s).rli.requests = s.rli.requests := by
  show (recomputeBdt _).rli.requests = _
  unfold recomputeBdt requestFloor
  split
  · split
    · dsimp only
      split <;> rfl
    · rfl
  · rfl

theorem acceptEntry_requests (r : Req) (e : Entry) (s : State) : (acceptEntry r e s).rli.requests = s.rli.requests := by
  unfold acceptEntry
  split
  · rfl
  · dsimp only
    rw [passAccepted_eq]
    unfold queueWrite
    split
    · exact congrArg Rli.requests (recordHit_rli _ _)
    · rfl

theorem acceptLodge_requests (r : Req) (key : FullKey) (cust : Custodian) (cls : Nat) (es : List Extent) (s : State) :
    (acceptLodge r key cust cls es s).rli.requests = s.rli.requests :=
  acceptEntry_requests ..

theorem acceptRefill_requests (r : Req) (i : Nat) (es : List Extent) (s : State) :
    (acceptRefill r i es s).rli.requests = s.rli.requests :=
  congrArg Rli.requests (changeEntry_rli ..)

theorem acceptAdopt_requests (r : Req) (key : FullKey) (cust : Custodian) (cls time : Nat) (es : List Extent) (s : State) :
    (acceptAdopt r key cust cls time es s).rli.requests = s.rli.requests := by
  unfold acceptAdopt
  split <;> exact acceptEntry_requests ..

theorem recheckDispose_requests (r : Req) (i : Nat) (s : State) : (recheckDispose r i s).rli.requests = s.rli.requests := by
  have hanswer (e : Entry) (o : Reply) (res : Results) (fs : List Effect) (t : State)
      (h : ∀ u, (runEffects i e fs u).rli = u.rli) :
      (commit i e (.answer r o res :: fs) t).rli.requests = t.rli.requests := by
    unfold commit
    dsimp only
    split
    · show (runEffects i e fs (answerReq r o res _)).rli.requests = _
      rw [h]
      show (changeEntry _ _ _ _ _).rli.requests = _
      rw [changeEntry_rli]
    · rw [changeEntry_rli]
  unfold recheckDispose
  dsimp only
  split
  · exact hanswer _ _ _ [] _ fun u => rfl
  · refine hanswer _ _ _ [.queueErases _] _ fun u => ?_
    unfold runEffects runEffect
    dsimp only [List.foldl]
    split <;> rfl

theorem takePlace_requests (r : Req) (m : Matter) (n : Nat) (pattern : BitVec 32) (s : State) :
    (takePlace r m n pattern s).rli.requests = s.rli.requests := by
  unfold takePlace
  split
  · unfold duplicateHold
    dsimp only
    split <;> rfl
  · split
    · rw [mediaTail_rli, enterHold_rli]
    · rfl

theorem takeLift_requests (i : Nat) (m : Matter) (p : SlotPurpose) (s : State) :
    (takeLift i m p s).rli.requests = s.rli.requests :=
  congrArg Rli.requests (writeSlot_rli _ _)

theorem lookupAt_requests (r : Req) (i : Nat) (byKey : Option ShortKey) (s : State) :
    (lookupAt r i byKey s).rli.requests = s.rli.requests := by
  unfold lookupAt
  dsimp only
  split <;> rfl

theorem lookupIndex_requests (r : Req) (i : Nat) (s : State) : (lookupIndex r i s).rli.requests = s.rli.requests := by
  unfold lookupIndex
  split
  · rfl
  · split
    · rfl
    · exact lookupAt_requests ..

theorem lookupKey_requests (r : Req) (key : ShortKey) (s : State) : (lookupKey r key s).rli.requests = s.rli.requests := by
  unfold lookupKey
  split
  · exact lookupAt_requests ..
  · split
    · rfl
    · split
      · split
        · exact lookupAt_requests ..
        · rfl
      · rfl

theorem wakeComplete_requests (s : State) : (wakeComplete s).rli.requests = s.rli.requests := by
  unfold wakeComplete
  split
  · cases s.scs.wake <;> rfl
  · rfl

theorem takeWake_requests (r : Req) (s : State) : (takeWake r s).rli.requests = s.rli.requests := wakeComplete_requests _

theorem clearFlags_requests (mask : EventMask) (s : State) : (clearFlags mask s).rli.requests = s.rli.requests := by
  unfold clearFlags
  dsimp only
  split <;> rfl

theorem enterDormant_requests (r : Req) (s : State) : (enterDormant r s).rli.requests = s.rli.requests := rfl

theorem recheckDormant_requests (s : State) : (recheckDormant s).rli.requests = s.rli.requests := by
  unfold recheckDormant
  split
  · exact checked_requests _ _ (enterDormant_requests _ _)
  · rfl

theorem takeDormant_requests (r : Req) (s : State) : (takeDormant r s).rli.requests = s.rli.requests := by
  unfold takeDormant
  split
  · split
    · exact recheckDormant_requests _
    · rfl
  · rfl

theorem gateRequest_requests (op : HostOp) (first : BitVec 40) (count : BitVec 32) (handle : BitVec 64) (r : Req) (s : State) :
    (gateRequest op first count handle r s).rli.requests = s.rli.requests :=
  checked_requests _ _ (mediaTail_requests _)

/-! ### The arrival (R174) -/

/-- How a request arrives whose owner leaves the queue as it is. -/
theorem request_arrives {fits : Bool} {owner : Req → State → State} (hp : Powered s)
    (hx : exec c s = request tag kind fits s owner)
    (hown : ∀ u, (owner ⟨tag, kind⟩ u).rli.requests = u.rli.requests) :
    if tag = 0 then exec c s = .next s
    else if fits = false then Ends c s s [⟨⟨tag, kind⟩, false, .badField, .none⟩]
    else if 32 ≤ s.rli.requests.length then Ends c s s [⟨⟨tag, kind⟩, false, .full, .none⟩]
    else if ∃ q ∈ s.rli.requests, q.tag = tag then Ends c s s [⟨⟨tag, kind⟩, false, .busy, .none⟩]
    else Runs c s fun t => t.rli.requests = s.rli.requests ++ [⟨tag, kind⟩] := by
  have hpow := powered_on hp (fun s => if tag = 0 then s else linkEnd (arrive ⟨tag, kind⟩ fits (owner ⟨tag, kind⟩) s))
  replace hx := hx.trans hpow
  split
  · rename_i h0
    rw [if_pos h0] at hx
    exact hx
  · rename_i h0
    rw [if_neg h0] at hx
    unfold arrive at hx
    have hends {o : Reply} (hu : exec c s = .next (linkEnd (answerAtOnce ⟨tag, kind⟩ o s))) :
        Ends c s s [⟨⟨tag, kind⟩, false, o, .none⟩] := ends_pushAnswers hu rfl rfl
    split
    · rename_i hf
      rw [if_pos (by simp [hf])] at hx
      exact hends hx
    · rename_i hf
      rw [if_neg (by simpa using hf)] at hx
      split
      · rename_i hfull
        rw [if_pos hfull] at hx
        exact hends hx
      · rename_i hfull
        rw [if_neg hfull] at hx
        split
        · rename_i hbusy
          rw [if_pos (by simpa [tagOutstanding] using hbusy)] at hx
          exact hends hx
        · rename_i hbusy
          rw [if_neg (by simpa [tagOutstanding] using hbusy)] at hx
          exact ⟨_, hx, (linkEnd_requests _).trans (hown _)⟩

/-- Settles O15. -/
theorem requestsArriveByR174 : Obligations.RequestsArriveByR174 := by
  unfold Obligations.RequestsArriveByR174
  intro c r fits s hc hp
  cases c with
  | start tag choice record =>
    obtain ⟨rfl, rfl⟩ := Prod.mk.inj (Option.some.inj hc)
    exact request_arrives hp (by unfold exec execStart; rfl) fun u => checked_requests _ _ (takeStart_requests ..)
  | setTime tag time =>
    obtain ⟨rfl, rfl⟩ := Prod.mk.inj (Option.some.inj hc)
    exact request_arrives hp (by unfold exec execSetTime; rfl) fun u => checked_requests _ _ (takeTime_requests ..)
  | setSpace tag blocks =>
    obtain ⟨rfl, rfl⟩ := Prod.mk.inj (Option.some.inj hc)
    exact request_arrives hp (by unfold exec execSetSpace; rfl) fun u => checked_requests _ _ rfl
  | lodge tag key custLen cust cls n slots =>
    obtain ⟨rfl, rfl⟩ := Prod.mk.inj (Option.some.inj hc)
    exact request_arrives hp (by unfold exec execLodge; rfl) fun u => checked_requests _ _ (acceptLodge_requests ..)
  | adopt tag key custLen cust cls time n slots =>
    obtain ⟨rfl, rfl⟩ := Prod.mk.inj (Option.some.inj hc)
    exact request_arrives hp (by unfold exec execAdopt; rfl) fun u => checked_requests _ _ (acceptAdopt_requests ..)
  | refill tag index n slots =>
    obtain ⟨rfl, rfl⟩ := Prod.mk.inj (Option.some.inj hc)
    exact request_arrives hp (by unfold exec execRefill; rfl) fun u => checked_requests _ _ (acceptRefill_requests ..)
  | dispose tag index =>
    obtain ⟨rfl, rfl⟩ := Prod.mk.inj (Option.some.inj hc)
    exact request_arrives hp (by unfold exec execDispose; rfl) fun u => checked_tail_requests _ _ (recheckDispose_requests ..)
  | placeHold tag m patLen pattern =>
    obtain ⟨rfl, rfl⟩ := Prod.mk.inj (Option.some.inj hc)
    exact request_arrives hp (by unfold exec execPlaceHold; rfl) fun u => checked_requests _ _ (takePlace_requests ..)
  | liftHold tag m =>
    obtain ⟨rfl, rfl⟩ := Prod.mk.inj (Option.some.inj hc)
    exact request_arrives hp (by unfold exec execLiftHold; rfl) fun u => checked_requests _ _ (takeLift_requests ..)
  | lookup tag selector operand =>
    obtain ⟨rfl, rfl⟩ := Prod.mk.inj (Option.some.inj hc)
    refine request_arrives hp (by unfold exec execLookup; rfl) fun u => checked_requests _ _ ?_
    split
    · exact lookupIndex_requests ..
    · exact lookupKey_requests ..
  | listReleasable tag start count =>
    obtain ⟨rfl, rfl⟩ := Prod.mk.inj (Option.some.inj hc)
    exact request_arrives hp (by unfold exec execListReleasable; rfl) fun u => checked_requests _ _ rfl
  | mediaRead tag first count handle =>
    obtain ⟨rfl, rfl⟩ := Prod.mk.inj (Option.some.inj hc)
    exact request_arrives hp (by unfold exec execMediaRead; rfl) fun u => gateRequest_requests ..
  | mediaWrite tag first count handle =>
    obtain ⟨rfl, rfl⟩ := Prod.mk.inj (Option.some.inj hc)
    exact request_arrives hp (by unfold exec execMediaWrite; rfl) fun u => gateRequest_requests ..
  | mediaTrim tag first count handle =>
    obtain ⟨rfl, rfl⟩ := Prod.mk.inj (Option.some.inj hc)
    exact request_arrives hp (by unfold exec execMediaTrim; rfl) fun u => gateRequest_requests ..
  | dormant tag =>
    obtain ⟨rfl, rfl⟩ := Prod.mk.inj (Option.some.inj hc)
    exact request_arrives hp (by unfold exec execDormant; rfl) fun u => checked_tail_requests _ _ (takeDormant_requests ..)
  | wake tag =>
    obtain ⟨rfl, rfl⟩ := Prod.mk.inj (Option.some.inj hc)
    exact request_arrives hp (by unfold exec execWake; rfl) fun u => checked_tail_requests _ _ (takeWake_requests ..)
  | readStatus tag =>
    obtain ⟨rfl, rfl⟩ := Prod.mk.inj (Option.some.inj hc)
    exact request_arrives hp (by unfold exec execReadStatus; rfl) fun u => rfl
  | clearEvents tag mask =>
    obtain ⟨rfl, rfl⟩ := Prod.mk.inj (Option.some.inj hc)
    exact request_arrives hp (by unfold exec execClearEvents; rfl) fun u => clearFlags_requests mask u
  | setEventEnables tag mask =>
    obtain ⟨rfl, rfl⟩ := Prod.mk.inj (Option.some.inj hc)
    exact request_arrives hp (by unfold exec execSetEventEnables; rfl) fun u => rfl
  | _ => exact absurd hc (by simp [requestOfCommand])

end Sys2Proof.Machine
end

section
/-! PROOFS. Outstanding writes cut short, and what resets and power loss leave. -/

namespace Sys2Proof.Machine

variable {c : Instr} {s t u e : State} {tag kind : Byte}

/-! ### Writes cut short (R9, log 5) -/

/-- The store and the free values alone differ. -/
def StoreOnly (t s : State) : Prop := { t with store := s.store, free := s.free } = s

theorem StoreOnly.trans (h : StoreOnly u t) (g : StoreOnly t s) : StoreOnly u s := by
  unfold StoreOnly at h g ⊢
  exact g ▸ h ▸ rfl

theorem StoreOnly.hdu (h : StoreOnly t s) : t.hdu = s.hdu := by
  have h := congrArg State.hdu h
  exact h

theorem StoreOnly.rck (h : StoreOnly t s) : t.rck = s.rck := by
  have h := congrArg State.rck h
  exact h

theorem StoreOnly.scs (h : StoreOnly t s) : t.scs = s.scs := by
  have h := congrArg State.scs h
  exact h

theorem StoreOnly.rli (h : StoreOnly t s) : t.rli = s.rli := by
  have h := congrArg State.rli h
  exact h

theorem cutEntries_storeOnly (cut : List Nat) (ws : List EntryWrite) (s : State) : StoreOnly (cutEntries cut ws s) s := by
  induction ws generalizing cut s with
  | nil => rfl
  | cons w ws ih =>
    rw [cutEntries_cons]
    split
    · exact ih cut s
    · refine (ih _ _).trans ?_
      obtain h | h := landing_cases (storeEntry w) s <;> rw [h] <;> rfl

/-- The stored entries after a cut: each as it was, or as its oldest write makes it. -/
theorem cutEntries_cut (cut : List Nat) (ws : List EntryWrite) (s : State) (wf : catWf s.store.entries = true) :
    (cutEntries cut ws s).store = { s.store with
      entries := (cutEntries cut ws s).store.entries, highWater := (cutEntries cut ws s).store.highWater } ∧
    (∀ i, catGet (cutEntries cut ws s).store.entries i = catGet s.store.entries i ∨ i ∉ cut ∧
      ∃ w, ws.find? (fun w => decide (w.index = i)) = some w ∧ catGet (cutEntries cut ws s).store.entries i = w.entry) ∧
    ((cutEntries cut ws s).store.highWater = s.store.highWater ∨
      s.store.highWater < (cutEntries cut ws s).store.highWater ∧
        ∃ w ∈ ws, w.highWater = some (cutEntries cut ws s).store.highWater) := by
  induction ws generalizing cut s with
  | nil => exact ⟨rfl, fun i => .inl rfl, .inl rfl⟩
  | cons w ws ih =>
    rw [cutEntries_cons]
    split
    · rename_i hc
      obtain ⟨hrest, hentries, hhw⟩ := ih cut s wf
      refine ⟨hrest, fun i => (hentries i).imp_right ?_, hhw.imp_right ?_⟩
      · rintro ⟨hi, x, hx, he⟩
        refine ⟨hi, x, ?_, he⟩
        rw [List.find?_cons, decide_eq_false fun h : w.index = i => hi (h ▸ hc)]
        exact hx
      · rintro ⟨hlt, x, hx, he⟩
        exact ⟨hlt, x, List.mem_cons_of_mem _ hx, he⟩
    · rename_i hc
      have hlater {i : Nat} {cs : Cat} : (i ∉ w.index :: cut ∧ ∃ x, ws.find? (fun x => decide (x.index = i)) = some x ∧
          catGet cs i = x.entry) → i ∉ cut ∧ ∃ x, (w :: ws).find? (fun x => decide (x.index = i)) = some x ∧
          catGet cs i = x.entry := by
        rintro ⟨hi, x, hx, he⟩
        rw [List.mem_cons, not_or] at hi
        refine ⟨hi.2, x, ?_, he⟩
        rw [List.find?_cons, decide_eq_false (Ne.symm hi.1)]
        exact hx
      obtain h | h := landing_cases (storeEntry w) s
      · obtain ⟨hrest, hentries, hhw⟩ :=
          ih (w.index :: cut) (storeEntry w { s with free := s.free + 1 }) (catWf_catSet _ _ wf)
        rw [h]
        refine ⟨hrest, fun i => (hentries i).elim (fun hsame => ?_) fun hi => .inr (hlater hi), ?_⟩
        · rw [hsame]
          by_cases hi : i = w.index
          · refine .inr ⟨hi ▸ hc, w, ?_, ?_⟩
            · rw [List.find?_cons, decide_eq_true hi.symm]
            · rw [hi]
              exact catGet_catSet_self _ _ wf
          · exact .inl (catGet_catSet_ne _ hi)
        · have hmax : (storeEntry w { s with free := s.free + 1 }).store.highWater =
              max s.store.highWater (w.highWater.getD 0) := rfl
          rw [hmax] at hhw
          generalize (cutEntries (w.index :: cut) ws (storeEntry w { s with free := s.free + 1 })).store.highWater = hw at hhw ⊢
          obtain heq | ⟨hlt, x, hx, he⟩ := hhw
          · cases hv : w.highWater with
            | none => exact .inl (by rw [heq, hv, Option.getD_none, Nat.max_zero])
            | some v =>
              rw [hv, Option.getD_some] at heq
              obtain hlt | hle := Nat.lt_or_ge s.store.highWater v
              · exact .inr ⟨by omega, w, List.mem_cons_self, by rw [hv]; congr 1; omega⟩
              · exact .inl (by omega)
          · exact .inr ⟨by omega, x, List.mem_cons_of_mem _ hx, he⟩
      · obtain ⟨hrest, hentries, hhw⟩ := ih (w.index :: cut) { s with free := s.free + 1 } wf
        rw [h]
        refine ⟨hrest, fun i => (hentries i).imp_right hlater, hhw.imp_right ?_⟩
        rintro ⟨hlt, x, hx, he⟩
        exact ⟨hlt, x, List.mem_cons_of_mem _ hx, he⟩

/-- The stored slots after a cut: no lift has landed (R57, R68). -/
theorem cutSlots_cut (cut : List Nat) (ws : List SlotWrite) (s : State) :
    StoreOnly (cutSlots cut ws s) s ∧
    (cutSlots cut ws s).store = { s.store with holds := (cutSlots cut ws s).store.holds } ∧
    ∀ i, (cutSlots cut ws s).store.holds.getD i none = s.store.holds.getD i none ∨ i ∉ cut ∧
      ∃ w, ws.find? (fun w => decide (w.slot = i)) = some w ∧ w.record ≠ none ∧
        (cutSlots cut ws s).store.holds.getD i none = w.record := by
  induction ws generalizing cut s with
  | nil => exact ⟨rfl, rfl, fun i => .inl rfl⟩
  | cons w ws ih =>
    rw [cutSlots_cons]
    split
    · rename_i hc
      obtain ⟨honly, hrest, hslots⟩ := ih cut s
      refine ⟨honly, hrest, fun i => (hslots i).imp_right ?_⟩
      rintro ⟨hi, x, hx, he⟩
      refine ⟨hi, x, ?_, he⟩
      rw [List.find?_cons, decide_eq_false fun h : w.slot = i => hi (h ▸ hc)]
      exact hx
    · rename_i hc
      have hlater {i : Nat} {P : SlotWrite → Prop} :
          (i ∉ w.slot :: cut ∧ ∃ x, ws.find? (fun x => decide (x.slot = i)) = some x ∧ P x) →
          i ∉ cut ∧ ∃ x, (w :: ws).find? (fun x => decide (x.slot = i)) = some x ∧ P x := by
        rintro ⟨hi, x, hx, he⟩
        rw [List.mem_cons, not_or] at hi
        refine ⟨hi.2, x, ?_, he⟩
        rw [List.find?_cons, decide_eq_false (Ne.symm hi.1)]
        exact hx
      split
      · obtain ⟨honly, hrest, hslots⟩ := ih (w.slot :: cut) s
        exact ⟨honly, hrest, fun i => (hslots i).imp_right hlater⟩
      · rename_i hrec
        obtain h | h := landing_cases (fun s : State =>
          { s with store := { s.store with holds := s.store.holds.set w.slot w.record } }) s
        · obtain ⟨honly, hrest, hslots⟩ := ih (w.slot :: cut) { s with
            free := s.free + 1, store := { s.store with holds := s.store.holds.set w.slot w.record } }
          rw [h]
          refine ⟨honly.trans rfl, hrest, fun i => (hslots i).elim (fun hsame => ?_) fun hi => .inr (hlater hi)⟩
          rw [hsame]
          by_cases hi : w.slot = i
          · subst hi
            by_cases hlen : w.slot < s.store.holds.length
            · refine .inr ⟨hc, w, ?_, hrec, ?_⟩
              · rw [List.find?_cons, decide_eq_true rfl]
              · exact (getD_set_self ..).trans (if_pos hlen)
            · exact .inl (by rw [List.set_eq_of_length_le (Nat.not_lt.mp hlen)])
          · exact .inl (getD_set_of_ne _ _ hi)
        · obtain ⟨honly, hrest, hslots⟩ := ih (w.slot :: cut) { s with free := s.free + 1 }
          rw [h]
          exact ⟨honly.trans rfl, hrest, fun i => (hslots i).imp_right hlater⟩

/-- What a cut of the outstanding writes of `s` may leave in the store. -/
def CutFrom (s : State) (st : Store) : Prop :=
  st.header = s.store.header ∧
  (∀ i, catGet st.entries i = catGet s.store.entries i ∨
    ∃ w, s.ctc.writes.find? (fun w => decide (w.index = i)) = some w ∧ catGet st.entries i = w.entry) ∧
  (st.highWater = s.store.highWater ∨
    s.store.highWater < st.highWater ∧ ∃ w ∈ s.ctc.writes, w.highWater = some st.highWater) ∧
  (∀ i, st.holds.getD i none = s.store.holds.getD i none ∨
    s.store.header = true ∧ ∃ w, s.hdu.writes.find? (fun w => decide (w.slot = i)) = some w ∧ w.record ≠ none ∧
      st.holds.getD i none = w.record) ∧
  (st.rf = s.store.rf ∨ s.rck.floorWrites.head? = some st.rf) ∧
  (st.cursor = s.store.cursor ∨ s.scs.cursorWrites.head? = some st.cursor) ∧
  (st.settings = s.store.settings ∨
    ∃ st', s.rli.starting = some st' ∧ st'.prepare = false ∧ st.settings = st'.settings)

theorem cutFrom_same (s : State) : CutFrom s s.store :=
  ⟨rfl, fun _ => .inl rfl, .inl rfl, fun _ => .inl rfl, .inl rfl, .inl rfl, .inl rfl⟩

theorem cutFloor_cut (s : State) : StoreOnly (cutFloor s) s ∧ ∃ rf,
    (cutFloor s).store = { s.store with rf := rf } ∧ (rf = s.store.rf ∨ s.rck.floorWrites.head? = some rf) := by
  rw [cutFloor_eq]
  split
  · exact ⟨rfl, _, rfl, .inl rfl⟩
  · rename_i v vs hv
    obtain h | h := landing_cases (fun s : State => { s with store := { s.store with rf := v } }) s <;> rw [h]
    · exact ⟨rfl, v, rfl, .inr (by rw [hv]; rfl)⟩
    · exact ⟨rfl, _, rfl, .inl rfl⟩

theorem cutCursor_cut (s : State) : StoreOnly (cutCursor s) s ∧ ∃ n,
    (cutCursor s).store = { s.store with cursor := n } ∧ (n = s.store.cursor ∨ s.scs.cursorWrites.head? = some n) := by
  rw [cutCursor_eq]
  split
  · exact ⟨rfl, _, rfl, .inl rfl⟩
  · rename_i v vs hv
    obtain h | h := landing_cases (fun s : State => { s with store := { s.store with cursor := v } }) s <;> rw [h]
    · exact ⟨rfl, v, rfl, .inr (by rw [hv]; rfl)⟩
    · exact ⟨rfl, _, rfl, .inl rfl⟩

theorem cutStart_cut (s : State) : StoreOnly (cutStart s) s ∧ ∃ cfg,
    (cutStart s).store = { s.store with settings := cfg } ∧ (cfg = s.store.settings ∨
      ∃ st, s.rli.starting = some st ∧ st.prepare = false ∧ cfg = st.settings) := by
  rw [cutStart_eq]
  split
  · exact ⟨rfl, _, rfl, .inl rfl⟩
  · rename_i st hst
    split
    · exact ⟨rfl, _, rfl, .inl rfl⟩
    · rename_i hp
      obtain h | h := landing_cases (fun s : State => { s with store := { s.store with settings := st.settings } }) s <;> rw [h]
      · exact ⟨rfl, _, rfl, .inr ⟨st, hst, by simpa using hp, rfl⟩⟩
      · exact ⟨rfl, _, rfl, .inl rfl⟩

/-- The slot writes of a blank store have not begun (R68). -/
theorem cutHolds_cut (s : State) : ∃ holds,
    (if s.store.header then cutSlots [] s.hdu.writes s else s).store = { s.store with holds := holds } ∧
    StoreOnly (if s.store.header then cutSlots [] s.hdu.writes s else s) s ∧
    ∀ i, holds.getD i none = s.store.holds.getD i none ∨ s.store.header = true ∧
      ∃ w, s.hdu.writes.find? (fun w => decide (w.slot = i)) = some w ∧ w.record ≠ none ∧ holds.getD i none = w.record := by
  by_cases hh : s.store.header = true
  · rw [if_pos hh]
    obtain ⟨honly, hrest, hslots⟩ := cutSlots_cut [] s.hdu.writes s
    exact ⟨_, hrest, honly, fun i => (hslots i).imp_right fun ⟨_, w⟩ => ⟨hh, w⟩⟩
  · rw [if_neg hh]
    exact ⟨_, rfl, rfl, fun i => .inl rfl⟩

/-- The cut changes the store and the free values alone, and the store as `CutFrom` says, where its entries are canonical. -/
theorem cutWrites_cut (s : State) :
    StoreOnly (cutWrites s) s ∧ (catWf s.store.entries = true → CutFrom s (cutWrites s).store) := by
  have honly := cutEntries_storeOnly [] s.ctc.writes s
  have hcut := cutEntries_cut [] s.ctc.writes s
  unfold cutWrites
  dsimp only
  generalize cutEntries [] s.ctc.writes s = a at honly hcut ⊢
  obtain ⟨holds, hb, hbonly, hslots⟩ := cutHolds_cut a
  generalize (if a.store.header then cutSlots [] a.hdu.writes a else a) = b at hb hbonly ⊢
  obtain ⟨hconly, rf, hc, hrf⟩ := cutFloor_cut b
  generalize cutFloor b = v at hconly hc ⊢
  obtain ⟨hdonly, cursor, hd, hcursor⟩ := cutCursor_cut v
  generalize cutCursor v = d at hdonly hd ⊢
  obtain ⟨heonly, cfg, he, hcfg⟩ := cutStart_cut d
  refine ⟨heonly.trans (hdonly.trans (hconly.trans (hbonly.trans honly))), fun wf => ?_⟩
  obtain ⟨hrest, hentries, hhw⟩ := hcut wf
  rw [honly.hdu] at hslots
  rw [(hbonly.trans honly).rck] at hrf
  rw [(hconly.trans (hbonly.trans honly)).scs] at hcursor
  rw [(hdonly.trans (hconly.trans (hbonly.trans honly))).rli] at hcfg
  rw [he, hd, hc, hb, hrest]
  rw [hd, hc, hb, hrest] at hcfg
  rw [hc, hb, hrest] at hcursor
  rw [hb, hrest] at hrf
  rw [hrest] at hslots
  exact ⟨rfl, fun i => (hentries i).imp_right And.right, hhw, hslots, hrf, hcursor, hcfg⟩

/-! ### Resets and power loss (R33) -/

theorem cutWrites_keeps (s : State) :
    (cutWrites s).pins = s.pins ∧ (cutWrites s).rck = s.rck ∧ (cutWrites s).pending = s.pending := by
  have h := (cutWrites_cut s).1
  have hp := congrArg State.pins h
  have hr := congrArg State.rck h
  have hq := congrArg State.pending h
  exact ⟨hp, hr, hq⟩

theorem peerAt_freshPeers (slot id : NodeId) : (freshPeers slot).getD id.toNat {} =
    ⟨if id = slot then .self else .absent, .invalid, none, none, none, false, false⟩ := by
  have hid : allNodes[id.toNat]? = some id := by
    have hlt := id.isLt
    unfold allNodes
    rw [List.getElem?_map, List.getElem?_range (by omega), Option.map_some]
    simp
  rw [List.getD_eq_getElem?_getD, freshPeers, List.getElem?_map, hid, Option.map_some, Option.getD_some]
  split <;> rfl

theorem afterReset_boot (slot : NodeId) (rt : Nat) (valid : Bool) (s : State) :
    AfterReset slot rt valid s (boot slot rt valid (cutWrites s)) := by
  obtain ⟨hpins, -, hpending⟩ := cutWrites_keeps s
  unfold AfterReset
  generalize cutWrites s = u at hpins hpending ⊢
  have hpeer (id : NodeId) : peerAt (boot slot rt valid u) id =
      ⟨if id = slot then .self else .absent, .invalid, none, none, none, false, false⟩ := peerAt_freshPeers slot id
  have hlen : (boot slot rt valid u).pbc.peers.length = 16 := by simp [boot, freshPeers, allNodes]
  simp only [hpeer, hlen]
  rw [← hpins, ← hpending]
  simp only [boot, bootFlags, implies_true, true_and]
  exact ⟨rfl, rfl, rfl, rfl, rfl, rfl, rfl, trivial⟩

/-- Settles O4. -/
theorem resetLeavesResetValues : Obligations.ResetLeavesResetValues := by
  unfold Obligations.ResetLeavesResetValues
  refine ⟨fun slot s hp => ⟨_, (powered_on hp _ : execWarmReset slot s = _), afterReset_boot slot s.rck.rt s.rck.rtValid s⟩,
    fun slot kept s => ⟨_, rfl, ?_⟩⟩
  obtain ⟨-, hrck, -⟩ := cutWrites_keeps s
  split
  · rename_i h
    have hkept : (kept && decide (s.pins.power ≠ .offLost)) = true := by simp [h.1, h.2]
    show AfterReset _ _ _ s (boot slot _ _ _)
    rw [hkept]
    exact afterReset_boot ..
  · rename_i h
    have hlost : (kept && decide (s.pins.power ≠ .offLost)) = false := by
      rw [← Bool.not_eq_true, Bool.and_eq_true, decide_eq_true_iff]
      exact h
    show AfterReset _ _ _ s (boot slot _ _ _)
    rw [hlost]
    exact afterReset_boot ..

theorem onPin_on {level : Pins → Pins} {f : State → State} (hp : Powered s) (hl : (level s.pins).power = s.pins.power) :
    onPin level f s = .next (f { s with pins := level s.pins }) :=
  powered_on (s := { s with pins := level s.pins }) (hl.trans hp) f

/-- Settles O6. -/
theorem pinsAndPowerLoss : Obligations.PinsAndPowerLoss := by
  unfold Obligations.PinsAndPowerLoss
  refine ⟨fun s hp => ⟨?_, ?_, ?_, ?_⟩, fun s battery => ⟨fun hp => ?_, fun hp => ?_, fun hp => ?_⟩⟩
  · have hx : exec .guardAsserted s = _ := (onPin_on hp rfl : execGuardAsserted s = _)
    rw [hx]
    split <;> rfl
  · exact (onPin_on hp rfl : execMediaReadyFall s = _)
  · exact (onPin_on hp rfl : execSvcEnRise s = _)
  · exact (onPin_on hp rfl : execSvcEnFall s = _)
  · have hx : exec (.corePowerLoss battery) s = .next (powerOff battery (cutWrites s)) := by
      show execCorePowerLoss battery s = _
      unfold execCorePowerLoss
      rw [show s.pins.power = .on from hp]
    obtain ⟨hpins, hrck, hpending⟩ := cutWrites_keeps s
    refine ⟨_, hx, ?_, ?_, hpending, rfl⟩
    · unfold powerOff
      rw [hpins]
    · unfold powerOff
      rw [hrck]
      cases battery <;> rfl
  · have hx : exec (.corePowerLoss battery) s = .next (if battery then s else powerOff false s) := by
      show execCorePowerLoss battery s = _
      unfold execCorePowerLoss
      rw [hp]
    refine ⟨_, hx, ?_⟩
    cases battery
    · exact ⟨rfl, rfl, fun h => absurd h Bool.false_ne_true, fun _ => ⟨rfl, rfl, rfl⟩⟩
    · exact ⟨rfl, rfl, fun _ => rfl, fun h => absurd h.symm Bool.false_ne_true⟩
  · show execCorePowerLoss battery s = _
    unfold execCorePowerLoss
    rw [hp]

/-! ### STORE FAULT and the store (R11) -/

theorem foldl_store {α : Type} {f : State → α → State} (hf : ∀ s x, (f s x).store = s.store) (xs : List α) (s : State) :
    (xs.foldl f s).store = s.store := by
  induction xs generalizing s with
  | nil => rfl
  | cons x xs ih => rw [List.foldl_cons, ih, hf]

theorem abandonEntry_store (s : State) (w : EntryWrite) : (abandonEntry s w).store = s.store := by
  unfold abandonEntry
  dsimp only
  rw [foldl_store, foldl_store]
  · exact fun _ _ => rfl
  · intro u l
    unfold answerLookup
    split
    · split <;> rfl
    · rfl

theorem abandonSlot_store (s : State) (w : SlotWrite) : (abandonSlot s w).store = s.store := by
  unfold abandonSlot
  dsimp only
  split
  · exact foldl_store (f := answerFault) (fun _ _ => rfl) _ s
  · exact foldl_store (f := answerFault) (fun _ _ => rfl) _ s

theorem moveOn_store (i : Nat) (s : State) : (moveOn i s).store = s.store := by
  unfold moveOn
  split <;> rfl

theorem leaveVisit_store (s : State) : (leaveVisit s).store = s.store := by
  unfold leaveVisit
  split
  · split
    · exact moveOn_store _ _
    · rfl
  · rfl

theorem enterStoreFault_store (s : State) :
    (enterStoreFault s).store = if s.ctc.node = .storeFault then s.store else (cutWrites s).store := by
  unfold enterStoreFault
  split
  · rfl
  · dsimp only
    rw [leaveVisit_store]
    show ((waitingReqs _).foldl answerFault _).store = _
    rw [foldl_store (f := answerFault) (fun _ _ => rfl), foldl_store abandonSlot_store, foldl_store abandonEntry_store]

theorem haveAtLists_store (key : ShortKey) (sender : NodeId) (s : State) : (haveAtLists key sender s).store = s.store := by
  unfold haveAtLists
  dsimp only
  split
  · split <;> rfl
  · rfl

theorem dropAtLists_store (key : ShortKey) (reason : DropReason) (sender : NodeId) (s : State) :
    (dropAtLists key reason sender s).store = s.store := by
  unfold dropAtLists
  dsimp only
  split
  · split <;> rfl
  · rfl

theorem resetReadFails_store (r : StoreRead) (s : State) : (resetReadFails r s).store = s.store := by
  unfold resetReadFails
  split
  · rfl
  · rfl
  · rfl
  · split <;> rfl
  · rfl
  · rfl

/-- A failed read leaves the store as it was, or as the entry to STORE FAULT does. -/
theorem readFails_store (r : StoreRead) (s : State) :
    (readFails r s).store = s.store ∨ (readFails r s).store = (enterStoreFault s).store := by
  by_cases hr : isResetRead r = true
  · rw [readFails_reset hr]
    split
    · exact .inr (resetReadFails_store ..)
    · exact .inl rfl
  · cases r with
    | loadVisit =>
      rw [readFails_loadVisit]
      split
      · split
        · exact .inr rfl
        · exact .inl rfl
      · exact .inl rfl
    | refreshVisit =>
      rw [readFails_refreshVisit]
      split
      · split
        · exact .inr (moveOn_store ..)
        · exact .inl rfl
      · exact .inl rfl
    | dispatch =>
      show (passDispatch s).store = _ ∨ (passDispatch s).store = _
      unfold passDispatch
      split
      · exact .inr (haveAtLists_store ..)
      · exact .inr (dropAtLists_store ..)
      · exact .inr rfl
      · exact .inl rfl
    | entry i => exact .inr rfl
    | _ => exact absurd rfl hr

theorem tail_store (s : State) : (linkEnd (mediaTail s)).store = s.store := by
  have hl := congrArg State.store (linkEnd_same (mediaTail s))
  have hm := congrArg State.store (mediaTail_only s)
  exact Eq.trans hl hm

theorem cutFrom_fault (s : State) (wf : catWf s.store.entries = true) : CutFrom s (enterStoreFault s).store := by
  rw [enterStoreFault_store]
  split
  · exact cutFrom_same s
  · exact (cutWrites_cut s).2 wf

/-- Settles O5. -/
theorem cutWritesLeaveWholeRecords : Obligations.CutWritesLeaveWholeRecords := by
  unfold Obligations.CutWritesLeaveWholeRecords
  intro c s ⟨_, wf⟩ hc
  have hcut := (cutWrites_cut s).2 wf
  have hpowered (f : State → State) (hf : Powered s → CutFrom s (f s).store) :
      ∃ t, powered s f = .next t ∧ CutFrom s t.store := by
    by_cases hp : Powered s
    · exact ⟨_, powered_on hp f, hf hp⟩
    · exact ⟨s, powered_off hp f, cutFrom_same s⟩
  suffices h : ∃ t, exec c s = .next t ∧ CutFrom s t.store from h
  obtain ⟨slot, rfl⟩ | ⟨slot, kept, rfl⟩ | ⟨battery, rfl⟩ | ⟨record, rfl⟩ | ⟨record, rfl⟩ := hc
  · exact hpowered (fun s => boot slot s.rck.rt s.rck.rtValid (cutWrites s)) fun _ => hcut
  · exact ⟨_, rfl, hcut⟩
  · show ∃ t, execCorePowerLoss battery s = .next t ∧ _
    unfold execCorePowerLoss
    split
    · exact ⟨_, rfl, hcut⟩
    · refine ⟨_, rfl, ?_⟩
      split <;> exact cutFrom_same s
    · exact ⟨_, rfl, cutFrom_same s⟩
  · refine hpowered (fun s => if writeOutstanding s record then linkEnd (mediaTail (enterStoreFault s)) else s) fun _ => ?_
    split
    · rw [tail_store]
      exact cutFrom_fault s wf
    · exact cutFrom_same s
  · refine hpowered (fun s => linkEnd (mediaTail (readFails record s))) fun _ => ?_
    rw [tail_store]
    obtain h | h := readFails_store record s <;> rw [h]
    · exact cutFrom_same s
    · exact cutFrom_fault s wf

end Sys2Proof.Machine
end

section
/-! PROOFS. The media port: GUARD_N released, MEDIA_READY rising, and the port's grant. -/

namespace Sys2Proof.Machine

variable {c : Instr} {s t u e : State} {tag kind : Byte}

/-! ### GUARD_N released and MEDIA_READY rising -/

theorem maybeRunning_running (hn : s.ctc.node = .loading) (he : s.rwk.loadEnded = true) (hr : s.pins.mediaReady = true) :
    maybeRunning s = enterRunning s := if_pos ⟨hn, he, hr⟩

theorem maybeRunning_same (h : ¬ (s.ctc.node = .loading ∧ s.rwk.loadEnded = true)) : maybeRunning s = s :=
  if_neg fun hc => h ⟨hc.1, hc.2.1⟩

theorem wakeComplete_answers (hn : s.ctc.node = .waking) (hr : s.pins.mediaReady = true) :
    wakeComplete s = pushAnswers (s.scs.wake.toList.map fun r => ⟨r, true, .done, .none⟩) { s with
      ctc := { s.ctc with node := .running }, scs := { s.scs with wake := none } } := by
  unfold wakeComplete
  rw [if_pos ⟨hn, hr⟩]
  exact foldl_answerDone _ _

/-- Settles O7. -/
theorem guardReleaseAndMediaReadyRise : Obligations.GuardReleaseAndMediaReadyRise := by
  unfold Obligations.GuardReleaseAndMediaReadyRise
  refine fun s hp => ⟨(onPin_on hp rfl : execGuardReleased s = _), fun size => ⟨_, rfl, ?_⟩⟩
  have hx : exec (.mediaReadyRise size) s = _ := (onPin_on hp rfl : execMediaReadyRise size s = _)
  have hsize : takeMediaSize { s with pins := { s.pins with mediaReady := true, presentedSize := size.toNat } } = { s with
      pins := { s.pins with mediaReady := true, presentedSize := size.toNat }
      exg := if s.ctc.inForce.isSome ∧ s.exg.sizeTaken = false then
          { s.exg with reportedSize := size.toNat, sizeTaken := true } else s.exg } := by
    rw [takeMediaSize_exg]
    congr 1
    exact if_congr (by simp) rfl rfl
  rw [hsize] at hx
  generalize hu : ({ s with
      pins := { s.pins with mediaReady := true, presentedSize := size.toNat }
      exg := if s.ctc.inForce.isSome ∧ s.exg.sizeTaken = false then
          { s.exg with reportedSize := size.toNat, sizeTaken := true } else s.exg } : State) = u at hx ⊢
  have hctc : u.ctc = s.ctc := by rw [← hu]
  have hrwk : u.rwk = s.rwk := by rw [← hu]
  have hrli : u.rli = s.rli := by rw [← hu]
  have hready : u.pins.mediaReady = true := by rw [← hu]
  split
  · rename_i h
    rw [maybeRunning_running (by rw [hctc]; exact h.1) (by rw [hrwk]; exact h.2) hready,
      wakeComplete_waits fun hw => absurd (show NodeState.running = .waking from hw.1) (by decide)] at hx
    have hrun : enterRunning u = { u with
        ctc := { s.ctc with node := .running }
        rwk := { s.rwk with settle := .until (s.coreMs + presenceWindow s) } } := by
      rw [← hu]
      rfl
    rw [hrun] at hx
    exact ends_linkEnd_same hx ((mediaTail_rli _).trans hrli)
  · rename_i h
    rw [maybeRunning_same (by rw [hctc, hrwk]; exact h)] at hx
    split
    · rename_i hw
      rw [wakeComplete_answers (by rw [hctc]; exact hw) hready, mediaTail_pushAnswers, hctc,
        show u.scs = s.scs by rw [← hu]] at hx
      exact ends_pushAnswers hx (by rw [mediaTail_rli]; exact congrArg Rli.tx hrli)
        (by rw [mediaTail_rli]; exact congrArg Rli.answers hrli)
    · rename_i hw
      rw [wakeComplete_waits fun h => hw (by rw [← hctc]; exact h.1)] at hx
      exact ends_linkEnd_same hx ((mediaTail_rli _).trans hrli)

/-! ### The walk's progress (R14, R71, R72, R81) -/

theorem nextOccupied_isSome (s : State) (low : Nat) :
    (nextOccupied s low).isSome = true ↔ ∃ p ∈ s.ctc.work, low ≤ p.1 ∧ p.2.state ≠ .free := by
  simp [nextOccupied, Entry.occupied]

theorem startRefresh_eq (s : State) : startRefresh s = { s with rwk := { s.rwk with
    walk := if ∃ p ∈ s.ctc.work, p.2.state ≠ .free then some ⟨.refresh s.hdu.epoch, 0, none⟩ else none } } := by
  unfold startRefresh
  simp only [nextOccupied_zero_isSome]

theorem endWalk_eq (s : State) : endWalk s = { s with rwk := { s.rwk with
    walk := if s.rwk.pendingWalk then
      (if ∃ p ∈ s.ctc.work, p.2.state ≠ .free then some ⟨.refresh s.hdu.epoch, 0, none⟩ else none) else none
    pendingWalk := false } } := by
  unfold endWalk
  rw [startRefresh_eq]
  cases h : s.rwk.pendingWalk
  · rw [if_neg Bool.false_ne_true, if_neg Bool.false_ne_true, ← h]
  · rfl

theorem walkProgress_refresh {epoch : BitVec 32} {low : Nat} (h : s.rwk.walk = some ⟨.refresh epoch, low, none⟩) :
    walkProgress s = if (nextOccupied s low).isSome then s else endWalk s := by
  unfold walkProgress
  rw [h]
  rfl

theorem walkProgress_load {low : Nat} (h : s.rwk.walk = some ⟨.load, low, none⟩) :
    walkProgress s = if low < catalogueSize then s else endLoadWalk s := by
  unfold walkProgress
  rw [h]
  rfl

/-! ### The port's grant (R26, R150 to R152) -/

theorem verifyEligible_iff (h : s.mar.inFlight = none) (v : VerifyWork) : verifyEligible s v = true ↔
    ∀ c ∈ s.mar.gated, c.op ≠ .read → c.seq < v.before → ∀ x ∈ v.extents,
      x.first + x.count ≤ c.first ∨ c.first + c.count ≤ x.first := by
  have hout : outstandingHost s = s.mar.gated := by
    unfold outstandingHost
    rw [h]
    simp
  unfold verifyEligible
  rw [hout, List.all_eq_true]
  refine forall_congr' fun c => forall_congr' fun hc => ?_
  simp only [Bool.or_eq_true, decide_eq_true_eq, Bool.not_eq_true', List.any_eq_false, sharesBlock_iff]
  constructor
  · rintro ((hop | hseq) | hx) hne hlt x hm
    · exact absurd hop hne
    · omega
    · have := hx x hm
      omega
  · intro hx
    by_cases hop : c.op = .read
    · exact .inl (.inl hop)
    · by_cases hseq : v.before ≤ c.seq
      · exact .inl (.inr hseq)
      · refine .inr fun x hm => ?_
        have := hx hop (by omega) x hm
        omega

theorem grantFromVerify_some {before after : List VerifyWork} {v : VerifyWork} (hv : s.mar.verifies = before ++ v :: after)
    (he : verifyEligible s v = true) (hb : ∀ x ∈ before, ¬ verifyEligible s x = true) : grantFromVerify s =
      release (.verify v) { s with mar := { s.mar with verifies := before ++ after } } := by
  have hfind : s.mar.verifies.find? (verifyEligible s) = some v := by
    rw [hv, List.find?_append, List.find?_eq_none.mpr hb, Option.none_or, List.find?_cons, he]
  have herase : s.mar.verifies.erase v = before ++ after := by
    rw [hv, List.erase_append_right _ fun h => hb v h he, List.erase_cons_head]
  unfold grantFromVerify grantVerify
  rw [hfind]
  dsimp only
  rw [herase]

theorem grantFromVerify_none (h : ∀ v ∈ s.mar.verifies, ¬ verifyEligible s v = true) :
    grantFromVerify s = grantFromHost s := by
  unfold grantFromVerify
  rw [List.find?_eq_none.mpr h]

theorem grantFromHost_cons {cmd : HostCmd} {rest : List HostCmd} (h : s.mar.gated = cmd :: rest) :
    grantFromHost s = grantHost cmd rest s := by
  unfold grantFromHost
  rw [h]

theorem grantFromHost_nil (h : s.mar.gated = []) : grantFromHost s = grantFromErase s := by
  unfold grantFromHost
  rw [h]

theorem grantFromErase_ready {w : EraseWork} {rest : List EraseWork} (h : s.mar.erases = w :: rest)
    (hg : s.pins.guardAsserted = false) (hn : s.ctc.node ≠ .storeFault) : grantFromErase s = grantErase w rest s := by
  unfold grantFromErase
  rw [h]
  exact if_pos (by simp [eraseReady, hg, hn])

theorem grantFromErase_late (h : s.mar.erases = [] ∨ s.pins.guardAsserted = true ∨ s.ctc.node = .storeFault) :
    grantFromErase s = grantLateScrub s := by
  unfold grantFromErase
  split
  · rename_i w rest hw
    refine if_neg ?_
    unfold eraseReady
    obtain h | h | h := h
    · exact absurd (hw.symm.trans h) (by simp)
    · simp [h]
    · simp [h]
  · rfl

theorem grantErase_begun {w : EraseWork} (rest : List EraseWork) (h : (entryAt s w.index).eraseBegun = true) :
    grantErase w rest s = release (.erase w) { s with mar := { s.mar with erases := rest } } := if_pos h

theorem grantErase_waits {w : EraseWork} (rest : List EraseWork) (h : (entryAt s w.index).eraseBegun = false)
    (hn : s.ctc.node ≠ .storeFault) : grantErase w rest s = { s with
      mar := { s.mar with erases := rest, grantedErase := some w }
      ctc := { s.ctc with
        work := catSet s.ctc.work w.index { entryAt s w.index with eraseBegun := true }
        writes := s.ctc.writes ++ [{
          index := w.index, entry := { entryAt s w.index with eraseBegun := true }, effects := [.releaseErase] }] } } := by
  unfold grantErase
  dsimp only
  rw [if_neg (by simp [h]), changeEntry_eq (by exact hn), hitOf_none, notedScs_same]
  rfl

/-- Settles O8. -/
theorem portIsGrantedByRank : Obligations.PortIsGrantedByRank := by
  unfold Obligations.PortIsGrantedByRank
  refine ⟨fun s => ⟨rfl, fun pending hpend => ⟨fun h => ?_, fun w i h hv => ?_, fun epoch low h => ⟨fun ho => ?_, fun ho => ?_⟩,
    fun low h => ⟨fun hlt => ?_, fun hle u hu => ?_⟩⟩⟩, fun s => ⟨fun h => ?_, fun hfly hgr hready hn1 hn2 hn3 toPort hto scrubGrant
    hscrub eligible helig => ?_⟩⟩
  · unfold walkProgress
    rw [h]
  · unfold walkProgress
    rw [h]
    exact if_pos (by rw [hv]; rfl)
  · rw [walkProgress_refresh h, if_pos ((nextOccupied_isSome s low).mpr ho)]
  · rw [walkProgress_refresh h, if_neg (by rw [nextOccupied_isSome]; simpa using ho), endWalk_eq, ← hpend]
  · rw [walkProgress_load h, if_pos (show low < catalogueSize from hlt)]
  · rw [walkProgress_load h, if_neg (show ¬ low < catalogueSize from Nat.not_lt.mpr hle)]
    have hended : endWalk { s with
        rwk := { s.rwk with loadEnded := true, pendingWalk := true }
        scs := { s.scs with tickTimer := some (s.coreMs + seconds (inForceOr s Settings.scrubTick 1)) } } = u := by
      rw [endWalk_eq, hu, hpend]
      rfl
    unfold endLoadWalk
    dsimp only
    rw [hended]
    unfold maybeRunning
    refine if_ctx_congr ?_ (fun _ => ?_) fun _ => rfl
    · rw [hu]
      exact and_congr_right fun _ => and_iff_right rfl
    · rw [hu]
      rfl
  · refine if_neg ?_
    rw [portFree_iff]
    rintro ⟨h1, h2, h3, h4, h5, h6⟩
    simp [h1, h2, h3, h4, h5, h6] at h
  · have hfree : portFree s = true := (portFree_iff s).mpr ⟨hfly, hgr, hready, hn1, hn2, hn3⟩
    have hport : ∀ cmd u, u.mar.issueTag = s.mar.issueTag → u.coreMs = s.coreMs → u.ctc.inForce = s.ctc.inForce →
        release cmd u = toPort cmd u := fun cmd u h1 h2 h3 => by
      rw [hto]
      unfold release inForceOr seconds
      rw [h1, h2, h3]
    have hgrant : grantPort s = match s.scs.request with
        | some i => if s.scs.balance = 8 then grantScrub i s else grantFromVerify s
        | none => grantFromVerify s := if_pos hfree
    have hscrub' (i : Nat) : grantScrub i s = scrubGrant i := by
      rw [hscrub]
      exact hport _ _ rfl rfl rfl
    refine ⟨fun i hi h8 => ?_, fun hlow => ?_⟩
    · rw [hgrant, hi]
      exact (if_pos h8).trans (hscrub' i)
    · have hverify : grantPort s = grantFromVerify s := by
        rw [hgrant]
        obtain h | h := hlow
        · rw [h]
        · split
          · exact if_neg h
          · rfl
      rw [hverify]
      have helig' (v : VerifyWork) : verifyEligible s v = true ↔ eligible v := (verifyEligible_iff hfly v).trans (helig v).symm
      refine ⟨fun before v after hv he hb => ?_, fun hno => ⟨fun cmd rest hg => ?_, fun hg => ⟨fun w rest hw hguard hn =>
        ⟨fun hbegun => ?_, fun hbegun => ?_⟩, fun hnoerase => ⟨fun i hi hbal => ?_, fun hnone => ?_⟩⟩⟩⟩
      · rw [grantFromVerify_some hv ((helig' v).mpr he) fun x hx => mt (helig' x).mp (hb x hx)]
        exact hport _ _ rfl rfl rfl
      · rw [grantFromVerify_none fun v hv => mt (helig' v).mp (hno v hv), grantFromHost_cons hg]
        exact hport _ _ rfl rfl rfl
      · rw [grantFromVerify_none fun v hv => mt (helig' v).mp (hno v hv), grantFromHost_nil hg,
          grantFromErase_ready hw hguard hn, grantErase_begun rest hbegun]
        exact hport _ _ rfl rfl rfl
      · rw [grantFromVerify_none fun v hv => mt (helig' v).mp (hno v hv), grantFromHost_nil hg,
          grantFromErase_ready hw hguard hn, grantErase_waits rest hbegun hn]
      · rw [grantFromVerify_none fun v hv => mt (helig' v).mp (hno v hv), grantFromHost_nil hg, grantFromErase_late hnoerase]
        unfold grantLateScrub
        rw [hi]
        exact (if_pos hbal).trans (hscrub' i)
      · rw [grantFromVerify_none fun v hv => mt (helig' v).mp (hno v hv), grantFromHost_nil hg, grantFromErase_late hnoerase]
        unfold grantLateScrub
        obtain h | h := hnone
        · rw [h]
        · split
          · exact if_neg (by omega)
          · rfl

end Sys2Proof.Machine
end

section
/-! PROOFS. The endings of media commands at their owners. -/

namespace Sys2Proof.Machine

variable {c : Instr} {s t u : State} {tag kind : Byte}

/-! ### A completion and the media timer's end (R153, R154) -/

/-- The part once the port has let the command in flight go. -/
def portLet (s : State) : State := { s with mar := { s.mar with inFlight := none, timer := none } }

/-- What the media timer's end adds. -/
def timedOut (s : State) : State := raise .mediaTimeout (pulseAbort s)

theorem completion_taken {cmd : MediaCmd} (hp : Powered s) (hf : s.mar.inFlight = some ⟨tag, cmd⟩) (result : MediaResult) :
    exec (.mediaCompletion tag result) s =
      .next (linkEnd (mediaTail (endInFlight ⟨tag, cmd⟩ (endingOf cmd result) s))) := by
  have hx : exec (.mediaCompletion tag result) s = _ := (powered_on hp _ : execMediaCompletion tag result s = _)
  rw [hx, hf]
  exact congrArg Host.Outcome.next (if_pos rfl)

theorem timer_over_taken {f : InFlight} (hp : Powered s) (hf : s.mar.inFlight = some f) (ho : MediaTimerOver s) :
    exec .mediaTimerExpiry s = .next (linkEnd (mediaTail (timedOut (endInFlight f .timeout s)))) := by
  have hx : exec .mediaTimerExpiry s = _ := (powered_on hp _ : execMediaTimerExpiry s = _)
  rw [hx, hf]
  exact congrArg Host.Outcome.next (if_pos ((isDue_iff s s.mar.timer).mpr ho))

theorem completion_discarded (hp : Powered s) (h : ∀ f, s.mar.inFlight = some f → f.tag ≠ tag) (result : MediaResult) :
    exec (.mediaCompletion tag result) s = .next s := by
  have hx : exec (.mediaCompletion tag result) s = _ := (powered_on hp _ : execMediaCompletion tag result s = _)
  rw [hx]
  split
  · rename_i f hf
    exact congrArg Host.Outcome.next (if_neg (h f hf))
  · rfl

theorem timer_idle (hp : Powered s) (h : s.mar.inFlight = none ∨ ¬ MediaTimerOver s) :
    exec .mediaTimerExpiry s = .next s := by
  have hx : exec .mediaTimerExpiry s = _ := (powered_on hp _ : execMediaTimerExpiry s = _)
  rw [hx]
  split
  · rename_i f hf
    obtain h | h := h
    · rw [h] at hf
      exact absurd hf (by simp)
    · exact congrArg Host.Outcome.next (if_neg (mt (isDue_iff s s.mar.timer).mp h))
  · rfl

/-- A command that ends with the media port and the request link. -/
theorem ends_tail {e : State} {as : List Answer} (hx : exec c s = .next (linkEnd (mediaTail u))) (hu : u = pushAnswers as e)
    (hr : e.rli = s.rli) : Ends c s (mediaTail e) as := by
  rw [hu, mediaTail_pushAnswers] at hx
  exact ends_pushAnswers hx (by rw [mediaTail_rli, hr]) (by rw [mediaTail_rli, hr])

theorem ends_tail_silent {e : State} (hx : exec c s = .next (linkEnd (mediaTail e))) (hr : e.rli = s.rli) :
    Ends c s (mediaTail e) [] :=
  ends_tail (as := []) hx (pushAnswers_nil e).symm hr

/-! ### An entry freed or RETAINED again, outside STORE FAULT -/

/-- An entry that held no counted copy is freed. -/
theorem commit_free (hn : s.ctc.node ≠ .storeFault) {i : Nat} {e : Entry} (he : e = entryAt s i) (ho : e.state ≠ .free)
    (hc : storedCopy e.state = false) (fs : List Effect) : commit i freeEntry fs s = { s with ctc := { s.ctc with
      work := catSet s.ctc.work i {}
      writes := s.ctc.writes ++ [{
        index := i, entry := {}, effects := fs, hit := some ⟨e.shortKey, { state := true }, i, .free, 0, 0⟩ }] } } := by
  subst he
  have hcauses : changeCauses (entryAt s i) freeEntry = { state := true } := by
    simp [changeCauses, freeEntry, ho]
  rw [commit_eq hn, changeEntry_eq hn, watchedKey_of_taken ho, hcauses, hitOf_state _ _ _ rfl, notedScs_same hc]
  rfl

/-- An entry that held no counted copy is RETAINED. -/
theorem commit_retained (hn : s.ctc.node ≠ .storeFault) {i : Nat} {e e' : Entry} (he : e = entryAt s i) (ho : e.state ≠ .free)
    (hc : storedCopy e.state = false)
    (h' : e'.state = .retained ∧ e'.holdCount = e.holdCount ∧ e'.holders = e.holders) (fs : List Effect) :
    commit i e' fs s = { s with
      ctc := { s.ctc with
        work := catSet s.ctc.work i e'
        writes := s.ctc.writes ++ [{
          index := i, entry := e', effects := fs
          hit := some ⟨e.shortKey, { state := true }, i, .retained, e.holdCount, e.holders⟩ }] }
      scs := { s.scs with scrubbable := if i < s.ctc.loaded then s.scs.scrubbable + 1 else s.scs.scrubbable } } := by
  subst he
  obtain ⟨hs, hh, hd⟩ := h'
  have hne : (entryAt s i).state ≠ .retained := fun h => by
    rw [h] at hc
    exact absurd hc (by decide)
  have hcauses := changeCauses_state hne (by decide) e' ⟨hs, hh, hd⟩
  have hscs : notedScs i (entryAt s i).state .retained s =
      { s.scs with scrubbable := if i < s.ctc.loaded then s.scs.scrubbable + 1 else s.scs.scrubbable } := by
    unfold notedScs
    rw [hc]
    by_cases hi : i < s.ctc.loaded
    · rw [if_pos hi]
      refine (if_neg ?_).trans rfl
      rintro (h | h)
      · exact absurd hi (Nat.not_lt.mpr h)
      · exact absurd h (by decide)
    · rw [if_neg hi]
      exact if_pos (.inl (Nat.not_lt.mp hi))
  rw [commit_eq hn, changeEntry_eq hn, watchedKey_of_taken ho, hcauses, hitOf_state _ _ _ rfl, hs, hh, hd, hscs]
  simp

/-! ### Host commands and disposition ERASEs (R27, R147) -/

theorem erasesDone_countErase (i : Nat) (s : State) : erasesDone (countErase i s) i = erasesDone s i + 1 := by
  show (((((i, erasesDone s i + 1) :: _ : List (Nat × Nat)).find? fun p => decide (p.1 = i)).map Prod.snd).getD 0) = _
  rw [List.find?_cons, decide_eq_true rfl]
  rfl

/-- A DONE of an ERASE is counted, and the last one frees the entry. -/
theorem endErase_done (w : EraseWork) (s : State) : endErase w .done s =
    if erasesDone s w.index + 1 = (entryAt s w.index).extents.length ∧ (entryAt s w.index).state = .disposing ∧
        s.ctc.node ≠ .storeFault then
      commit w.index freeEntry [.freed (entryAt s w.index).shortKey true] (countErase w.index s)
    else countErase w.index s := by
  unfold endErase
  dsimp only
  rw [erasesDone_countErase]
  rfl

/-- Settles O12. -/
theorem hostCommandsAndErasesEnd : Obligations.HostCommandsAndErasesEnd := by
  unfold Obligations.HostCommandsAndErasesEnd
  refine ⟨fun tag result s hp => ⟨fun h => completion_discarded hp h result, timer_idle hp, fun cmd base hf hb =>
    ⟨?_, fun ho => ?_⟩⟩, fun tag result s w hp hf e n he hn base hb back hback done hdone =>
    ⟨fun hres => ?_, fun ho => ?_, fun hres hstay => ?_, fun hres hlast hs hnode => ?_⟩⟩
  · refine ends_tail (completion_taken hp hf result) ?_ (by rw [hb])
    rw [hb]
    cases result <;> rfl
  · refine ends_tail (timer_over_taken hp hf ho) ?_ (by rw [hb])
    rw [hb]
    rfl
  · have hhow : endingOf (.erase w) result = .failed := by
      cases result with
      | done => exact absurd rfl hres
      | _ => rfl
    refine ends_tail_silent ((completion_taken hp hf result).trans ?_) (by rw [hback, hb])
    rw [hhow, hback, hb]
    rfl
  · refine ends_tail_silent ((timer_over_taken hp hf ho).trans ?_) (by rw [hback, hb])
    rw [hback, hb]
    rfl
  · subst hres
    refine ends_tail_silent ((completion_taken hp hf .done).trans ?_) (by rw [hb])
    have hend : endErase w .done base = { base with ctc := { s.ctc with eraseDone := done } } := by
      rw [endErase_done, if_neg]
      · rw [hdone, hn, hb]
        rfl
      · rintro ⟨h1, h2, h3⟩
        rw [hb] at h1 h2 h3
        obtain h | h | h := hstay
        · exact h (hn.trans (h1.trans (by rw [he]; rfl)))
        · exact h (by rw [he]; exact h2)
        · exact h3 h
    rw [← hend, hb]
    rfl
  · subst hres
    refine ends_tail_silent ((completion_taken hp hf .done).trans ?_) (by rw [hb])
    have hend : endErase w .done base = { base with ctc := { s.ctc with
        eraseDone := done
        work := catSet s.ctc.work w.index {}
        writes := s.ctc.writes ++ [{
          index := w.index, entry := {}, effects := [.freed e.shortKey true]
          hit := some ⟨e.shortKey, { state := true }, w.index, .free, 0, 0⟩ }] } } := by
      have hentry : entryAt base w.index = e := by rw [he, hb]; rfl
      rw [endErase_done, if_pos, commit_free (e := e)]
      · rw [hentry, hdone, hn, hb]
        rfl
      · rw [hb]; exact hnode
      · exact hentry.symm
      · rw [hs]; decide
      · rw [hs]; rfl
      · rw [hentry, hb]
        exact ⟨hn.symm.trans hlast, hs, hnode⟩
    rw [← hend, hb]
    rfl

/-! ### VERIFYs (R19, R20, R24) -/

theorem verifyAnswer_eq (v : VerifyWork) (o : Reply) (res : Results) :
    verifyAnswer v o res = v.req.toList.map fun r => Effect.answer r o res := by
  unfold verifyAnswer
  cases v.req <;> rfl

theorem endVerify_fault (hn : s.ctc.node = .storeFault) (v : VerifyWork) (how : Ending) :
    endVerify v how s = pushAnswers (v.req.toList.map fun r => ⟨r, true, .storeFault, .none⟩) s := by
  refine (if_pos hn).trans ?_
  cases v.req
  · exact (pushAnswers_nil s).symm
  · rfl

theorem endVerify_lodge (hn : s.ctc.node ≠ .storeFault) {v : VerifyWork} (hv : v.refill = false) (how : Ending) :
    endVerify v how s = endLodge v how s := (if_neg hn).trans (if_neg (by simp [hv]))

theorem endVerify_refill (hn : s.ctc.node ≠ .storeFault) {v : VerifyWork} (hv : v.refill = true) (how : Ending) :
    endVerify v how s = endRefill v how s := (if_neg hn).trans (if_pos hv)

theorem commit_timedOut (hn : s.ctc.node ≠ .storeFault) (i : Nat) (e : Entry) (fs : List Effect) :
    commit i e fs (timedOut s) = timedOut (commit i e fs s) := by
  rw [commit_eq hn, commit_eq (by exact hn), changeEntry_eq hn, changeEntry_eq (by exact hn)]
  rfl

/-- The media timer's end does not touch what a VERIFY's end does. -/
theorem endVerify_timedOut (v : VerifyWork) (how : Ending) (s : State) :
    endVerify v how (timedOut s) = timedOut (endVerify v how s) := by
  by_cases hn : s.ctc.node = .storeFault
  · rw [endVerify_fault hn, endVerify_fault (by exact hn)]
    rfl
  · have hentry : entryAt (timedOut s) v.index = entryAt s v.index := rfl
    cases hv : v.refill
    · rw [endVerify_lodge hn hv, endVerify_lodge (by exact hn) hv]
      unfold endLodge
      dsimp only
      rw [hentry]
      split
      · split <;> exact commit_timedOut hn ..
      · rfl
    · rw [endVerify_refill hn hv, endVerify_refill (by exact hn) hv]
      unfold endRefill
      dsimp only
      rw [hentry]
      split
      · split <;> exact commit_timedOut hn ..
      · rfl

/-- The reply of an ending that did not match. -/
def verifyFailure (how : Ending) : Option Reply := if how = .matched then none else some (verifyReply how)

theorem verifyFailure_none {how : Ending} (h : verifyFailure how = none) : how = .matched := by
  unfold verifyFailure at h
  split at h
  · assumption
  · exact absurd h (by simp)

theorem endLodge_other {v : VerifyWork} {e : Entry} {how : Ending} (he : e = entryAt s v.index) (hs : e.state ≠ .lodging) :
    endLodge v how s = s := by
  subst he
  exact if_neg hs

theorem endLodge_matched {v : VerifyWork} {e : Entry} (he : e = entryAt s v.index)
    (hs : e.state = .lodging) : endLodge v .matched s = commit v.index { e with state := .retained }
      (verifyAnswer v .done (.index v.index) ++ [.announceHave, .census]) s := by
  subst he
  exact if_pos hs

theorem endLodge_failed {v : VerifyWork} {e : Entry} {how : Ending} {o : Reply} (he : e = entryAt s v.index)
    (hs : e.state = .lodging) (hh : verifyFailure how = some o) : endLodge v how s =
      commit v.index freeEntry (verifyAnswer v o .none ++ [.freed e.shortKey false]) s := by
  subst he
  unfold verifyFailure at hh
  split at hh
  · exact absurd hh (by simp)
  · rename_i hne
    obtain rfl := Option.some.inj hh
    unfold endLodge
    dsimp only
    rw [if_pos hs]
    split
    · exact absurd rfl hne
    · rfl

theorem endRefill_matched {v : VerifyWork} {e : Entry} {extents : List Extent} (he : e = entryAt s v.index)
    (hs : e.state = .damaged) (hr : e.refill = some extents) : endRefill v .matched s =
      commit v.index { e with state := .retained, extents := extents, refill := none }
        (.refillTaken e.extents extents :: verifyAnswer v .done (.index v.index) ++ [.announceHave, .census]) s := by
  subst he
  unfold endRefill
  dsimp only
  rw [if_pos hs, hr]

theorem endRefill_failed {v : VerifyWork} {e : Entry} {extents : List Extent} {how : Ending} {o : Reply}
    (he : e = entryAt s v.index) (hs : e.state = .damaged) (hr : e.refill = some extents)
    (hh : verifyFailure how = some o) : endRefill v how s =
      commit v.index { e with refill := none } (.refillDropped extents :: verifyAnswer v o .none) s := by
  subst he
  unfold verifyFailure at hh
  split at hh
  · exact absurd hh (by simp)
  · rename_i hne
    obtain rfl := Option.some.inj hh
    unfold endRefill
    dsimp only
    rw [if_pos hs, hr]
    dsimp only
    split
    · exact absurd rfl hne
    · rfl

theorem endRefill_idle {v : VerifyWork} {e : Entry} (he : e = entryAt s v.index) (h : e.state ≠ .damaged ∨ e.refill = none)
    (how : Ending) : endRefill v how s = s := by
  subst he
  have hnone : (if (entryAt s v.index).state = .damaged then (entryAt s v.index).refill else none) = none := by
    split
    · rename_i hd
      exact h.elim (fun hne => absurd hd hne) id
    · rfl
  unfold endRefill
  dsimp only
  rw [hnone]

/-- The refill's extents dropped, with no change of what SCS counts and no hit. -/
theorem commit_refillDropped (hn : s.ctc.node ≠ .storeFault) {i : Nat} {e : Entry} (he : e = entryAt s i) (fs : List Effect) :
    commit i { e with refill := none } fs s = { s with ctc := { s.ctc with
      work := catSet s.ctc.work i { e with refill := none }
      writes := s.ctc.writes ++ [{ index := i, entry := { e with refill := none }, effects := fs }] } } := by
  subst he
  have hcauses : changeCauses (entryAt s i) { entryAt s i with refill := none } = {} := by simp [changeCauses]
  rw [commit_eq hn, changeEntry_eq hn, hcauses, hitOf_none, notedScs_same rfl]

/-- A VERIFY's end comes to its owner, by completion and by the media timer. -/
theorem verify_ends {result : MediaResult} {v : VerifyWork} {base : State} {failure : Option Reply} (hp : Powered s)
    (hf : s.mar.inFlight = some ⟨tag, .verify v⟩)
    (h : (c = .mediaCompletion tag result ∧ base = portLet s ∧ failure = match result with
            | .matched => none
            | .mismatched => some .checkMismatch
            | _ => some .mediaFault) ∨
        (c = .mediaTimerExpiry ∧ MediaTimerOver s ∧ failure = some Reply.mediaFault ∧ base = timedOut (portLet s))) :
    ∃ how, verifyFailure how = failure ∧ exec c s = .next (linkEnd (mediaTail (endVerify v how base))) := by
  obtain ⟨rfl, hb, hfail⟩ | ⟨rfl, ho, hfail, hb⟩ := h
  · refine ⟨endingOf (.verify v) result, ?_, (completion_taken hp hf result).trans (by rw [hb]; rfl)⟩
    rw [hfail]
    cases result <;> rfl
  · refine ⟨.timeout, hfail.symm, (timer_over_taken hp hf ho).trans ?_⟩
    rw [hb, endVerify_timedOut]
    rfl

/-- Settles O13. -/
theorem verifiesEnd : Obligations.VerifiesEnd := by
  unfold Obligations.VerifiesEnd
  intro c tag result s v hp hf base failure h answered hans counted hcount e he
  obtain ⟨how, hfail, hx⟩ := verify_ends hp hf h
  have hbase : base.ctc = s.ctc ∧ base.scs = s.scs ∧ base.rli = s.rli := by
    obtain ⟨-, hb, -⟩ | ⟨-, -, -, hb⟩ := h <;> rw [hb] <;> exact ⟨rfl, rfl, rfl⟩
  clear h
  obtain ⟨hctc, hscs, hrli⟩ := hbase
  have hentry : e = entryAt base v.index := by rw [he, entryAt, entryAt, hctc]
  have hans' (o : Reply) (res : Results) : verifyAnswer v o res = answered o res := by rw [hans, verifyAnswer_eq]
  refine ⟨fun hn => ?_, fun hn hv => ⟨fun hs => ?_, fun hs hnone => ?_, fun o hs hsome => ?_⟩, fun hn hv =>
    ⟨fun hidle => ?_, fun extents hs hr => ⟨fun hnone => ?_, fun o hsome => ?_⟩⟩⟩
  · exact ends_tail hx (endVerify_fault (by rw [hctc]; exact hn) v how) hrli
  · have hend := endVerify_lodge (by rw [hctc]; exact hn) hv how (s := base)
    refine ends_tail_silent (hx.trans (by rw [hend, endLodge_other hentry hs])) hrli
  · have hend := endVerify_lodge (by rw [hctc]; exact hn) hv how (s := base)
    obtain rfl := verifyFailure_none (hfail.trans hnone)
    refine ends_tail_silent (hx.trans ?_) hrli
    rw [hend, endLodge_matched hentry hs, commit_retained (e' := { e with state := .retained }) (by rw [hctc]; exact hn) hentry
      (by simp [hs]) (by rw [hs]; rfl) ⟨rfl, rfl, rfl⟩, hctc, hscs, hcount, hans']
  · have hend := endVerify_lodge (by rw [hctc]; exact hn) hv how (s := base)
    refine ends_tail_silent (hx.trans ?_) hrli
    rw [hend, endLodge_failed hentry hs (hfail.trans hsome), commit_free (by rw [hctc]; exact hn) hentry (by simp [hs])
      (by rw [hs]; rfl), hctc, hans']
  · have hend := endVerify_refill (by rw [hctc]; exact hn) hv how (s := base)
    refine ends_tail_silent (hx.trans (by rw [hend, endRefill_idle hentry hidle])) hrli
  · have hend := endVerify_refill (by rw [hctc]; exact hn) hv how (s := base)
    obtain rfl := verifyFailure_none (hfail.trans hnone)
    refine ends_tail_silent (hx.trans ?_) hrli
    rw [hend, endRefill_matched hentry hs hr,
      commit_retained (e' := { e with state := .retained, extents := extents, refill := none }) (by rw [hctc]; exact hn) hentry
      (by simp [hs]) (by rw [hs]; rfl) ⟨rfl, rfl, rfl⟩, hctc, hscs, hcount, hans']
  · have hend := endVerify_refill (by rw [hctc]; exact hn) hv how (s := base)
    refine ends_tail_silent (hx.trans ?_) hrli
    rw [hend, endRefill_failed hentry hs hr (hfail.trans hsome), commit_refillDropped (by rw [hctc]; exact hn) hentry,
      hctc, hans']

end Sys2Proof.Machine
end

section
/-! PROOFS. The end of a scrub, and which scrub is asked for. -/

namespace Sys2Proof.Machine

variable {c : Instr} {s t u : State} {tag : Byte}

/-! ### The DORMANT request that waited (R168) -/

theorem recheckDormant_none (h : s.scs.waitingDormant = none) : recheckDormant s = s := by
  unfold recheckDormant
  rw [h]

theorem recheckDormant_some {r : Req} {v : State} (h : s.scs.waitingDormant = some r)
    (hv : v = { s with scs := { s.scs with waitingDormant := none } }) :
    recheckDormant s = checked r (dormantChecks v) (enterDormant r) v := by
  subst hv
  unfold recheckDormant
  rw [h]

theorem checkedDormant_timedOut (r : Req) (s : State) : checked r (dormantChecks s) (enterDormant r) (timedOut s) =
    timedOut (checked r (dormantChecks s) (enterDormant r) s) := by
  unfold checked
  cases firstFailing (dormantChecks s) <;> rfl

theorem recheckDormant_timedOut (s : State) : recheckDormant (timedOut s) = timedOut (recheckDormant s) := by
  cases h : s.scs.waitingDormant with
  | none => rw [recheckDormant_none h, recheckDormant_none (by exact h)]
  | some r =>
    rw [recheckDormant_some h rfl, recheckDormant_some (by exact h) rfl]
    exact checkedDormant_timedOut r { s with scs := { s.scs with waitingDormant := none } }

/-- A scrub's end, with the DORMANT request that waited checked again. -/
theorem scrubEnded_of (hx : exec c s = .next (linkEnd (mediaTail (recheckDormant u)))) (hr : u.rli = s.rli)
    (hw : u.scs.waitingDormant = s.scs.waitingDormant) : ScrubEnded c s u := by
  refine ⟨fun h => ends_tail_silent (hx.trans (by rw [recheckDormant_none (hw.trans h)])) hr, fun r v h hv => ?_⟩
  rw [recheckDormant_some (hw.trans h) hv] at hx
  have hrv : v.rli = s.rli := by rw [hv]; exact hr
  split
  · rename_i hb
    refine ends_tail hx ?_ hrv
    unfold checked dormantChecks firstFailing
    rw [if_pos hb]
    rfl
  · rename_i hb
    have hff : firstFailing (dormantChecks v) = firstFailing [(v.scs.owed, .scrubOwed, .none)] := if_neg hb
    split
    · rename_i ho
      refine ends_tail hx ?_ hrv
      unfold checked
      rw [hff]
      unfold firstFailing
      rw [if_pos ho]
      rfl
    · rename_i ho
      refine ends_tail hx ?_ hrv
      unfold checked
      rw [hff]
      unfold firstFailing
      rw [if_neg ho, hv]
      rfl

/-! ### The result of a scrub (R162 to R166) -/

theorem scrubCauses_same (e : Entry) (r : MediaResult) : scrubCauses e e r = { scrub := some r } := by
  simp [scrubCauses, changeCauses]

theorem hitOf_scrub (i : Nat) (key : ShortKey) (e : Entry) (r : MediaResult) : hitOf i key e { scrub := some r } =
    some ⟨key, { scrub := some r }, i, e.state, e.holdCount, e.holders⟩ := if_neg (by simp)

theorem storedCopy_iff (st : EntryState) : storedCopy st = true ↔ st = .retained ∨ st = .releasable := decide_eq_true_iff

theorem scrubResult_gone {i : Nat} (h : ¬ ScrubbableAt s i) (r : MediaResult) : scrubResult i r s = s :=
  if_pos (by
    rw [Bool.not_eq_true', ← Bool.not_eq_true, storedCopy_iff]
    exact h)

theorem scrubResult_hit {i : Nat} {e : Entry} {r : MediaResult} (he : e = entryAt s i) (h : ScrubbableAt s i)
    (hn : s.ctc.node = .storeFault ∨ r = .matched ∧ s.rck.rtValid = false) : scrubResult i r s =
      recordHit (some ⟨e.shortKey, { scrub := some r }, i, e.state, e.holdCount, e.holders⟩) s := by
  subst he
  have hhit : scrubHit i r s = recordHit (some ⟨(entryAt s i).shortKey, { scrub := some r }, i, (entryAt s i).state,
      (entryAt s i).holdCount, (entryAt s i).holders⟩) s := by
    unfold scrubHit
    dsimp only
    rw [scrubCauses_same, hitOf_scrub]
  rw [← hhit]
  have hstored : (!storedCopy (entryAt s i).state) = false := by rw [Bool.not_eq_false', storedCopy_iff]; exact h
  unfold scrubResult
  dsimp only
  rw [hstored, if_neg (by decide)]
  by_cases hf : s.ctc.node = .storeFault
  · rw [if_pos hf]
  · obtain ⟨hr, hv⟩ := hn.resolve_left hf
    rw [if_neg hf, if_pos hr, hv, if_neg (by decide)]

theorem scrubResult_matched {i : Nat} {e : Entry} (he : e = entryAt s i) (h : ScrubbableAt s i)
    (hn : s.ctc.node ≠ .storeFault) (hv : s.rck.rtValid = true) : scrubResult i .matched s = { s with ctc := { s.ctc with
      work := catSet s.ctc.work i { e with lastScrub := some s.rck.rt }
      writes := s.ctc.writes ++ [{
        index := i, entry := { e with lastScrub := some s.rck.rt }
        hit := some ⟨e.shortKey, { scrub := some .matched }, i, e.state, e.holdCount, e.holders⟩ }] } } := by
  subst he
  have hstored : (!storedCopy (entryAt s i).state) = false := by rw [Bool.not_eq_false', storedCopy_iff]; exact h
  have hfree : (entryAt s i).state ≠ .free := by obtain h | h := h <;> rw [h] <;> decide
  unfold scrubResult
  dsimp only
  rw [hstored, if_neg (by decide), if_neg hn, if_pos rfl, if_pos hv, changeEntry_eq hn, watchedKey_of_taken hfree,
    show scrubCauses (entryAt s i) { entryAt s i with lastScrub := some s.rck.rt } .matched = { scrub := some .matched } from
      by simp [scrubCauses, changeCauses], hitOf_scrub, notedScs_same rfl]

theorem scrubResult_damaged {i : Nat} {e : Entry} {r : MediaResult} (he : e = entryAt s i) (h : ScrubbableAt s i)
    (hn : s.ctc.node ≠ .storeFault) (hr : r ≠ .matched) : scrubResult i r s = { s with
      ctc := { s.ctc with
        work := catSet s.ctc.work i { e with state := .damaged }
        writes := s.ctc.writes ++ [{
          index := i, entry := { e with state := .damaged }, effects := [.announceDamaged, .damagedNotices]
          hit := some ⟨e.shortKey, { state := true, scrub := some r }, i, .damaged, e.holdCount, e.holders⟩ }] }
      scs := notedScs i e.state .damaged s } := by
  subst he
  have hstored : (!storedCopy (entryAt s i).state) = false := by rw [Bool.not_eq_false', storedCopy_iff]; exact h
  have hfree : (entryAt s i).state ≠ .free := by obtain h | h := h <;> rw [h] <;> decide
  have hne : (entryAt s i).state ≠ .damaged := by obtain h | h := h <;> rw [h] <;> decide
  unfold scrubResult
  dsimp only
  rw [hstored, if_neg (by decide), if_neg hn, if_neg hr, changeEntry_eq hn, watchedKey_of_taken hfree,
    show scrubCauses (entryAt s i) { entryAt s i with state := .damaged } r = { state := true, scrub := some r } from
      by simp [scrubCauses, changeCauses, hne], hitOf_state _ _ _ rfl]

/-- What SCS counts of a damaged copy, with no scrub owed. -/
theorem notedScs_damaged {i : Nat} (h : ScrubbableAt s i) (ho : s.scs.owed = false) : notedScs i (entryAt s i).state .damaged s =
    { s.scs with scrubbable := if i < s.ctc.loaded then s.scs.scrubbable - 1 else s.scs.scrubbable } := by
  have hstored : storedCopy (entryAt s i).state = true := (storedCopy_iff _).mpr h
  unfold notedScs
  rw [hstored]
  by_cases hi : i < s.ctc.loaded
  · rw [if_pos hi]
    refine (if_neg ?_).trans ?_
    · rintro (h | h)
      · exact absurd hi (Nat.not_lt.mpr h)
      · exact absurd h (by decide)
    · refine (if_neg (by decide)).trans ?_
      rw [show (s.scs.owed && decide (1 < s.scs.scrubbable)) = s.scs.owed by rw [ho, Bool.false_and]]
  · rw [if_neg hi]
    exact if_pos (.inl (Nat.not_lt.mp hi))

/-! ### Which scrub SCS asks for (R161) -/

theorem scrubInFlight_eq_false (s : State) : scrubInFlight s = false ↔
    ∀ f, s.mar.inFlight = some f → ∀ i es key, f.cmd ≠ .scrub i es key := by
  unfold scrubInFlight
  split
  · rename_i n i es key hf
    exact ⟨fun h => absurd h (by decide), fun h => absurd rfl (h _ hf i es key)⟩
  · rename_i hf
    refine ⟨fun _ f hs i es key hc => hf f.tag i es key ?_, fun _ => rfl⟩
    rw [hs, ← hc]

theorem scrubWanted_iff (s : State) : scrubWanted s = true ↔ MayScrub s := by
  unfold scrubWanted
  rw [Bool.and_eq_true, Bool.and_eq_true, Bool.and_eq_true, Bool.and_eq_true, Bool.or_eq_true, Bool.and_eq_true,
    Bool.not_eq_true', scrubInFlight_eq_false, Option.isNone_iff_eq_none]
  simp only [decide_eq_true_eq, and_assoc]

theorem requestStands_iff (s : State) : requestStands s = true ↔ ∃ i, s.scs.request = some i ∧ ScrubbableAt s i := by
  unfold requestStands
  split
  · rename_i i hi
    rw [storedCopy_iff, hi]
    exact ⟨fun h => ⟨i, rfl, h⟩, fun ⟨j, hj, h⟩ => by rwa [Option.some.inj hj]⟩
  · rename_i hi
    rw [hi]
    exact ⟨fun h => absurd h (by decide), fun ⟨j, hj, _⟩ => absurd hj (by simp)⟩

/-- The search in a canonical catalogue finds the lowest index that passes. -/
theorem catFind_lowest {cat : Cat} (wf : catWf cat = true) {p : Nat × Entry → Bool} {q : Nat × Entry} (hq : q ∈ cat)
    (hp : p q = true) (hlow : ∀ x ∈ cat, x.1 < q.1 → p x = false) : cat.find? p = some q := by
  have hrise := catWf_rising wf
  rw [List.pairwise_map] at hrise
  clear wf
  induction cat with
  | nil => exact absurd hq List.not_mem_nil
  | cons x rest ih =>
    rw [List.pairwise_cons] at hrise
    obtain rfl | hq := List.mem_cons.mp hq
    · exact List.find?_cons_of_pos hp
    · have hx : p x = false := hlow x List.mem_cons_self (hrise.1 q hq)
      rw [List.find?_cons_of_neg (by rw [hx]; decide)]
      exact ih hq (fun y hy => hlow y (List.mem_cons_of_mem _ hy)) hrise.2

theorem mem_of_scrubbable {i : Nat} (h : ScrubbableAt s i) : (i, entryAt s i) ∈ s.ctc.work :=
  mem_of_catGet fun hc => by
    rw [ScrubbableAt, entryAt, hc] at h
    exact absurd h (by decide)

theorem scrubbable_of_mem (wf : catWf s.ctc.work = true) {q : Nat × Entry} (hq : q ∈ s.ctc.work)
    (h : storedCopy q.2.state = true) : ScrubbableAt s q.1 := by
  have hget : entryAt s q.1 = q.2 := catGet_of_mem wf hq
  rw [storedCopy_iff, ← hget] at h
  exact h

theorem nextScrub_above (wf : catWf s.ctc.work = true) {i : Nat} (hc : s.scs.cursor ≤ i) (h : ScrubbableAt s i)
    (hlow : ∀ j, s.scs.cursor ≤ j → j < i → ¬ ScrubbableAt s j) : nextScrub s = some i := by
  unfold nextScrub
  dsimp only
  rw [catFind_lowest wf (mem_of_scrubbable h)]
  · rw [Bool.and_eq_true]
    exact ⟨decide_eq_true hc, (storedCopy_iff _).mpr h⟩
  · intro q hq hlt
    rw [← Bool.not_eq_true, Bool.and_eq_true]
    rintro ⟨hcq, hs⟩
    exact hlow q.1 (of_decide_eq_true hcq) hlt (scrubbable_of_mem wf hq hs)

theorem nextScrub_wraps (wf : catWf s.ctc.work = true) (hno : ∀ j, s.scs.cursor ≤ j → ¬ ScrubbableAt s j) : nextScrub s =
    (s.ctc.work.find? fun p => storedCopy p.2.state).map Prod.fst := by
  unfold nextScrub
  dsimp only
  rw [List.find?_eq_none.mpr]
  intro q hq
  rw [Bool.and_eq_true]
  rintro ⟨hcq, hs⟩
  exact hno q.1 (of_decide_eq_true hcq) (scrubbable_of_mem wf hq hs)

theorem nextScrub_below (wf : catWf s.ctc.work = true) {i : Nat} (hno : ∀ j, s.scs.cursor ≤ j → ¬ ScrubbableAt s j)
    (h : ScrubbableAt s i) (hlow : ∀ j < i, ¬ ScrubbableAt s j) : nextScrub s = some i := by
  rw [nextScrub_wraps wf hno, catFind_lowest wf (mem_of_scrubbable h)]
  · rfl
  · exact (storedCopy_iff _).mpr h
  · intro q hq hlt
    rw [← Bool.not_eq_true]
    exact fun hs => hlow q.1 hlt (scrubbable_of_mem wf hq hs)

theorem nextScrub_none (wf : catWf s.ctc.work = true) (hno : ∀ j, ¬ ScrubbableAt s j) : nextScrub s = none := by
  rw [nextScrub_wraps wf fun j _ => hno j, List.find?_eq_none.mpr]
  · rfl
  · exact fun q hq hs => hno q.1 (scrubbable_of_mem wf hq hs)

/-- Settles O14. -/
theorem scrubsEnd : Obligations.ScrubsEnd := by
  unfold Obligations.ScrubsEnd
  refine ⟨fun tag result s i extents key hp hf c base hc hb e cur he hcur u hu res hres => ?_, fun s => ⟨fun h => ?_, fun h =>
    ⟨fun i hi hs => ?_, fun hno wf => ⟨nextScrub s, ?_, fun i => nextScrub_above wf, fun i => nextScrub_below wf,
      nextScrub_none wf⟩⟩⟩⟩
  · have hx : exec c s = .next (linkEnd (mediaTail (recheckDormant (scrubResult i res u)))) := by
      rw [hc, completion_taken hp hf result, hu, hres, hcur, hb]
      cases result <;> rfl
    have hur : u.rli = s.rli := by rw [hu, hb]
    have huw : u.scs.waitingDormant = s.scs.waitingDormant := by rw [hu]
    have hun : u.ctc = s.ctc := by rw [hu, hb]
    have huv : u.rck = s.rck := by rw [hu, hb]
    have heu : e = entryAt u i := by rw [he, entryAt, entryAt, hun]
    have hsu : ScrubbableAt u i ↔ ScrubbableAt s i := by rw [ScrubbableAt, ← heu, he]
    refine ⟨fun ho => ?_, fun hs => ?_, fun hs => ⟨fun hn => ?_, fun hn hm hv => ?_, fun hn hm => ?_⟩⟩
    · refine scrubEnded_of ((timer_over_taken hp hf ho).trans ?_) (by rw [hb]) (by rw [hb])
      rw [hb]
      exact congrArg (fun v => Host.Outcome.next (linkEnd (mediaTail v))) (recheckDormant_timedOut (portLet s)).symm
    · rw [scrubResult_gone (mt hsu.mp hs)] at hx
      exact scrubEnded_of hx hur huw
    · rw [scrubResult_hit heu (hsu.mpr hs) (by rw [hun, huv]; exact hn)] at hx
      exact scrubEnded_of hx (by rw [recordHit_rli, hur]) (by rw [recordHit_eq]; exact huw)
    · rw [hm, scrubResult_matched heu (hsu.mpr hs) (by rw [hun]; exact hn) (by rw [huv]; exact hv), hun] at hx
      rw [← huv]
      exact scrubEnded_of hx hur huw
    · rw [scrubResult_damaged heu (hsu.mpr hs) (by rw [hun]; exact hn) hm, heu, notedScs_damaged (hsu.mpr hs) (by rw [hu]),
        ← heu, hun, show u.scs.scrubbable = s.scs.scrubbable by rw [hu]] at hx
      exact scrubEnded_of hx hur huw
  · exact if_neg (mt (scrubWanted_iff s).mp h)
  · exact (if_pos ((scrubWanted_iff s).mpr h)).trans (if_pos ((requestStands_iff s).mpr ⟨i, hi, hs⟩))
  · refine (if_pos ((scrubWanted_iff s).mpr h)).trans (if_neg ?_)
    rw [requestStands_iff]
    exact fun ⟨i, hi, hs⟩ => hno i hi hs

end Sys2Proof.Machine
end

section
/-! PROOFS. Sets of nodes, ranks and the Appeal List. -/

namespace Sys2Proof.Machine

variable {c : Instr} {s t u : State} {i : Nat} {a : Appeal} {before after : List Appeal} {e : Entry}

/-! ### Sets of nodes (R121) -/

theorem setHas_setAdd (set : NodeSet) (id x : NodeId) : setHas (setAdd set id) x = true ↔ x = id ∨ setHas set x = true := by
  have hid : id.toNat < 16 := id.isLt
  have heq : id.toNat = x.toNat ↔ x = id := ⟨fun h => BitVec.eq_of_toNat_eq h.symm, fun h => by rw [h]⟩
  simp only [setHas, setAdd, BitVec.getLsbD_or, BitVec.getLsbD_twoPow, Bool.or_eq_true, Bool.and_eq_true, decide_eq_true_eq,
    hid, true_and, heq]
  exact or_comm

theorem setHas_setRemove (set : NodeSet) (id x : NodeId) :
    setHas (setRemove set id) x = true ↔ x ≠ id ∧ setHas set x = true := by
  have hid : id.toNat < 16 := id.isLt
  have hx : x.toNat < 16 := x.isLt
  have heq : id.toNat = x.toNat ↔ x = id := ⟨fun h => BitVec.eq_of_toNat_eq h.symm, fun h => by rw [h]⟩
  simp only [setHas, setRemove, BitVec.getLsbD_and, BitVec.getLsbD_not, BitVec.getLsbD_twoPow, Bool.and_eq_true,
    Bool.not_eq_true', hid, hx, decide_eq_false_iff_not, heq, decide_true, Bool.true_and]
  exact and_comm

theorem setHas_setOf (ids : List NodeId) (x : NodeId) : setHas (setOf ids) x = true ↔ x ∈ ids := by
  have hfold (z : NodeSet) : setHas (ids.foldl setAdd z) x = true ↔ x ∈ ids ∨ setHas z x = true := by
    induction ids generalizing z with
    | nil => simp
    | cons id rest ih => rw [List.foldl_cons, ih, setHas_setAdd, List.mem_cons, or_left_comm, or_assoc]
  exact (hfold 0).trans (or_iff_left (by simp [setHas]))

/-- A list without repetition of all the nodes that pass a test. -/
theorem filter_perm_of_mem {p : NodeId → Bool} {ids : List NodeId} (hn : ids.Nodup) (h : ∀ id, id ∈ ids ↔ p id = true) :
    (allNodes.filter p).Perm ids := by
  refine (List.perm_ext_iff_of_nodup (nodup_allNodes.filter p) hn).mpr fun id => ?_
  rw [List.mem_filter, h]
  exact and_iff_right (mem_allNodes id)

theorem presentMembers_eq (s : State) (set : NodeSet) :
    presentMembers s set = allNodes.filter fun id => setHas set id && isPresent s id := by
  rw [presentMembers, setMembers, List.filter_filter]
  simp only [Bool.and_comm]

theorem isPresent_iff (s : State) (id : NodeId) : isPresent s id = true ↔ (peerAt s id).presence = .present :=
  decide_eq_true_iff

theorem presentMembers_perm {set : NodeSet} {ids : List NodeId} (hn : ids.Nodup)
    (h : ∀ id, id ∈ ids ↔ (peerAt s id).presence = .present ∧ set.getLsbD id.toNat = true) :
    (presentMembers s set).Perm ids := by
  rw [presentMembers_eq]
  refine filter_perm_of_mem hn fun id => ?_
  rw [h, Bool.and_eq_true, isPresent_iff]
  exact and_comm

theorem appealRank_eq_length {ids : List NodeId} (hn : ids.Nodup) (h : ∀ id, id ∈ ids ↔ (peerAt s id).presence = .present ∧
    e.holders.getLsbD id.toNat = true ∧ placementPosition e.shortKey id < placementPosition e.shortKey s.pbc.ownId) :
    appealRank s e = ids.length := by
  rw [appealRank, presentMembers_eq, List.filter_filter]
  refine (filter_perm_of_mem hn fun id => ?_).length_eq
  rw [h, Bool.and_eq_true, Bool.and_eq_true, isPresent_iff, standsBefore, decide_eq_true_iff]
  exact ⟨fun ⟨h1, h2, h3⟩ => ⟨h3, h2, h1⟩, fun ⟨h3, h2, h1⟩ => ⟨h1, h2, h3⟩⟩

theorem recruitRank_eq_length {key : ShortKey} {holders : NodeSet} {ids : List NodeId} (hn : ids.Nodup)
    (h : ∀ id, id ∈ ids ↔ (peerAt s id).presence = .present ∧ holders.getLsbD id.toNat = false ∧
      placementPosition key id < placementPosition key s.pbc.ownId) : recruitRank s key holders = ids.length := by
  refine (filter_perm_of_mem hn fun id => ?_).length_eq
  rw [h, Bool.and_eq_true, Bool.and_eq_true, isPresent_iff, standsBefore, decide_eq_true_iff, Bool.not_eq_true', and_assoc]
  rfl

theorem ownCopy_toNat (st : EntryState) : (ownCopy st).toNat =
    if st = .retained ∨ st = .releasable ∨ st = .disposing then 1 else 0 := by
  cases st <;> rfl

/-! ### The Appeal List (R126 to R129) -/

theorem appealable_iff (s : State) (e : Entry) : appealable s e = true ↔ AppealDue s e := by
  rw [appealable, isShort, eligibleForAppeal, Bool.and_eq_true, Bool.and_eq_true, Bool.or_eq_true, storedCopy_iff]
  simp only [decide_eq_true_eq]

theorem pastSettle_iff (s : State) : pastSettle s = true ↔ s.rwk.settle = .ended := decide_eq_true_iff

theorem appealOf_isNone (s : State) (i : Nat) : (appealOf s i).isNone = true ↔ ∀ a ∈ s.cnu.appeals, a.index ≠ i := by
  simp [appealOf]

/-- The Appeal List holds this entry of an index, and no other of it. -/
structure AppealAt (s : State) (i : Nat) (before : List Appeal) (a : Appeal) (after : List Appeal) : Prop where
  appeals : s.cnu.appeals = before ++ a :: after
  index : a.index = i
  notBefore : ∀ x ∈ before, x.index ≠ i
  notAfter : ∀ x ∈ after, x.index ≠ i

/-- The part with this Appeal List. -/
def withAppeals (s : State) (l : List Appeal) : State := { s with cnu := { s.cnu with appeals := l } }

theorem appealOf_at (h : AppealAt s i before a after) : appealOf s i = some a := by
  rw [appealOf, h.appeals, List.find?_append, List.find?_eq_none.mpr fun x hx => by simpa using h.notBefore x hx,
    List.find?_cons_of_pos (by simpa using h.index)]
  rfl

theorem updateAppeal_at (h : AppealAt s i before a after) (f : Appeal → Appeal) :
    updateAppeal i f s = withAppeals s (before ++ f a :: after) := by
  unfold updateAppeal withAppeals
  rw [h.appeals, updateFirst_append_cons f (fun x hx => decide_eq_false (h.notBefore x hx)) (decide_eq_true h.index)]

theorem removeAppeal_at (h : AppealAt s i before a after) : removeAppeal i s = withAppeals s (before ++ after) := by
  have hself (l : List Appeal) (hl : ∀ x ∈ l, x.index ≠ i) : l.filter (fun x => decide (x.index ≠ i)) = l :=
    List.filter_eq_self.mpr fun x hx => decide_eq_true (hl x hx)
  unfold removeAppeal withAppeals
  rw [h.appeals, List.filter_append, List.filter_cons_of_neg (by simpa using h.index), hself _ h.notBefore,
    hself _ h.notAfter]

theorem atAppeal_at (h : AppealAt s i before a after) (test : Appeal → Bool) (act : State → State) :
    atAppeal i test act s = if test a = true then act s else s := by
  unfold atAppeal
  rw [appealOf_at h]

theorem atAppeal_none (h : ∀ x ∈ s.cnu.appeals, x.index ≠ i) (test : Appeal → Bool) (act : State → State) :
    atAppeal i test act s = s := by
  unfold atAppeal
  rw [Option.isNone_iff_eq_none.mp ((appealOf_isNone s i).mpr h)]

/-- The Appeal List entry of an index that is appealed for now. -/
def appealedNow (s : State) (a : Appeal) : Appeal := { a with appealed := true, timer := none, appealTime := s.coreMs }

/-- The part with an entry of the Appeal List appealed for, by a WANT offered or owed. -/
def wantOffered (s : State) (e : Entry) (before : List Appeal) (a : Appeal) (after : List Appeal) : State :=
  if canOffer s then enqueueFrame (wantOf s e) (withAppeals s (before ++ appealedNow s a :: after))
  else withAppeals s (before ++ { appealedNow s a with wantOwed := true } :: after)

theorem AppealAt.replace (h : AppealAt s i before a after) {a' : Appeal} (ha : a'.index = i) :
    AppealAt (withAppeals s (before ++ a' :: after)) i before a' after := ⟨rfl, ha, h.notBefore, h.notAfter⟩

theorem appealOrLeave_due (h : AppealAt s i before a after) (hd : AppealDue s (entryAt s i)) :
    appealOrLeave i s = wantOffered s (entryAt s i) before a after := by
  have hnow : AppealAt (withAppeals s (before ++ appealedNow s a :: after)) i before (appealedNow s a) after :=
    h.replace h.index
  refine (if_pos ((appealable_iff _ _).mpr hd)).trans ?_
  rw [updateAppeal_at h]
  show offerWant i (withAppeals s (before ++ appealedNow s a :: after)) = _
  unfold offerWant wantOffered
  rw [updateAppeal_at hnow]
  rfl

theorem appealOrLeave_idle (h : AppealAt s i before a after) (hd : ¬ AppealDue s (entryAt s i)) :
    appealOrLeave i s = withAppeals s (before ++ after) :=
  (if_neg (mt (appealable_iff _ _).mp hd)).trans (removeAppeal_at h)

/-- An appeal that starts: after its delay, or at once. -/
theorem startAppeal_due (h : AppealAt s i before a after) (hd : AppealDue s (entryAt s i)) :
    startAppeal i s =
      if appealDelay s (entryAt s i) = 0 then wantOffered s (entryAt s i) before a after
      else withAppeals s
        (before ++ { a with appealed := false, timer := some (s.coreMs + appealDelay s (entryAt s i)) } :: after) := by
  unfold startAppeal
  dsimp only
  rw [updateAppeal_at h]
  split
  · rename_i h0
    have hw := h.replace (a' := { a with appealed := false, timer := some (s.coreMs + appealDelay s (entryAt s i)) }) h.index
    unfold appealExpire
    have hwant := appealOrLeave_due hw hd
    rw [atAppeal_at hw]
    exact (if_pos rfl).trans hwant
  · rfl

/-- A hand-over to CNU, as the statements write it. -/
theorem offerAppeal_eq (he : e = entryAt s i) : offerAppeal i s = handedToCnu i e s := by
  subst he
  unfold offerAppeal handedToCnu
  have hcond : (appealable s (entryAt s i) && pastSettle s && (appealOf s i).isNone) = true ↔
      AppealDue s (entryAt s i) ∧ s.rwk.settle = .ended ∧ ∀ x ∈ s.cnu.appeals, x.index ≠ i := by
    rw [Bool.and_eq_true, Bool.and_eq_true, appealable_iff, pastSettle_iff, appealOf_isNone, and_assoc]
  dsimp only
  by_cases hc : AppealDue s (entryAt s i) ∧ s.rwk.settle = .ended ∧ ∀ x ∈ s.cnu.appeals, x.index ≠ i
  · rw [if_pos (hcond.mpr hc), if_pos hc]
    obtain ⟨hd, -, hno⟩ := hc
    split
    · rfl
    · have hnew : AppealAt (withAppeals s (s.cnu.appeals ++ [{ index := i, key := (entryAt s i).shortKey, timer := none }])) i
          s.cnu.appeals { index := i, key := (entryAt s i).shortKey, timer := none } [] :=
        ⟨rfl, rfl, hno, fun x hx => absurd hx List.not_mem_nil⟩
      refine (startAppeal_due hnew hd).trans ?_
      by_cases h0 : appealDelay s (entryAt s i) = 0
      · refine (if_pos h0).trans ?_
        rw [if_neg (by rw [Nat.not_lt, Nat.le_zero]; exact h0)]
        rfl
      · refine (if_neg h0).trans ?_
        have hpos : 0 < appealRank s (entryAt s i) * inForceOr s Settings.appealStep 0 := Nat.pos_of_ne_zero h0
        rw [if_pos hpos]
        rfl
  · rw [if_neg (mt hcond.mp hc), if_neg hc]

theorem testAppeal_eq (he : e = entryAt s i) : testAppeal i s = testedByCnu i e s := by
  subst he
  exact if_congr (appealable_iff _ _) rfl rfl

theorem entryAt_testedByCnu (j : Nat) : entryAt (testedByCnu i e s) j = entryAt s j := by
  unfold testedByCnu
  split <;> rfl

theorem recheckAppeal_eq (he : e = entryAt s i) : recheckAppeal i s = handedToCnu i e (testedByCnu i e s) := by
  unfold recheckAppeal
  rw [testAppeal_eq he, offerAppeal_eq (he.trans (entryAt_testedByCnu i).symm)]

/-- Settles O38. -/
theorem appealTimersSendWants : Obligations.AppealTimersSendWants := by
  unfold Obligations.AppealTimersSendWants
  refine ⟨fun s e ids hn => ⟨fun h => ⟨presentMembers_perm hn h, fun id => ?_, ?_⟩, appealRank_eq_length hn⟩,
    fun s cfg hc => ⟨inForceOr_some hc _ _, ?_, inForceOr_some hc _ _, inForceOr_some hc _ _⟩, ?_⟩
  · refine (setHas_setAdd _ _ _).trans ?_
    rw [setHas_setOf, (presentMembers_perm hn h).mem_iff]
    exact or_comm
  · rw [liveHolders, (presentMembers_perm hn h).length_eq, ownCopy_toNat]
  · rw [claimLifetime, inForceOr_some hc, seconds]
    omega
  intro index s hp i e hi he
  have htimer : exec (.appealTimerExpiry index) s =
      .next (atAppeal i (fun a => !a.appealed) (withRecord i (appealOrLeave i)) s) := by
    subst hi
    exact (powered_on hp _ : execAppealTimerExpiry index s = _)
  have hrearm : exec (.appealRearm index) s =
      .next (atAppeal i (fun a => a.appealed && isDue s (some (rearmTime s a))) (withRecord i (rearmOrLeave i)) s) := by
    subst hi
    exact (powered_on hp _ : execAppealRearm index s = _)
  refine ⟨fun hno => ⟨by rw [htimer, atAppeal_none hno], by rw [hrearm, atAppeal_none hno]⟩, ?_⟩
  intro due hdue before a after happeals hai hb ha a' wanted ha' hwanted ended hended
  have hat : AppealAt s i before a after := ⟨happeals, hai, hb, ha⟩
  have hdue' : due = true ↔ AppealDue s (entryAt s i) := by
    rw [hdue, he]
    simp only [Bool.and_eq_true, decide_eq_true_eq, and_assoc]
  have hw : wantOffered s (entryAt s i) before a after = wanted := by
    rw [hwanted, ha', he]
    rfl
  have hover : isDue s (some (rearmTime s a)) = true ↔ ended := by
    rw [hended, isDue_iff]
    exact ⟨fun ⟨d, h, hd⟩ => by rw [← Option.some.inj h] at hd; exact hd, fun h => ⟨_, rfl, h⟩⟩
  rw [htimer, hrearm, atAppeal_at hat, atAppeal_at hat, withRecord_eq, withRecord_eq]
  refine ⟨fun hu => ⟨fun hna => ?_, fun happ hend => ?_⟩, fun hna hu hd => ?_, fun hna hu hd => ?_, fun happ => ?_, fun h => ?_,
    fun happ hend hu hd => ?_, fun delay hdelay happ hend hu hd => ?_⟩
  · rw [if_pos (by rw [hna]; rfl), if_pos hu]
  · rw [if_pos (by rw [happ, hover.mpr hend]; rfl), if_pos hu]
  · rw [if_pos (by rw [hna]; rfl), if_neg hu, appealOrLeave_idle hat (by rw [← hdue', hd]; decide)]
    rfl
  · rw [if_pos (by rw [hna]; rfl), if_neg hu, appealOrLeave_due hat (hdue'.mp hd), hw]
  · rw [if_neg (by rw [happ]; decide)]
  · rw [if_neg]
    rw [Bool.and_eq_true, hover]
    rintro ⟨h1, h2⟩
    exact h.elim (fun h => absurd (h.symm.trans h1) (by decide)) fun h => h h2
  · rw [if_pos (by rw [happ, hover.mpr hend]; rfl), if_neg hu]
    have hleave : rearmOrLeave i s = removeAppeal i s :=
      if_neg (mt (appealable_iff _ _).mp (by rw [← hdue', hd]; decide))
    rw [hleave, removeAppeal_at hat]
    rfl
  · rw [if_pos (by rw [happ, hover.mpr hend]; rfl), if_neg hu]
    have hstart : rearmOrLeave i s = startAppeal i s := if_pos ((appealable_iff _ _).mpr (hdue'.mp hd))
    have hdel : appealDelay s (entryAt s i) = delay := by rw [hdelay, he]; rfl
    rw [hstart, startAppeal_due hat (hdue'.mp hd), hw, hdel]
    rfl

end Sys2Proof.Machine
end

section
/-! PROOFS. Candidates and claims: their timers and their expiries. -/

namespace Sys2Proof.Machine

variable {c : Instr} {s t u : State} {key : ShortKey} {d : Candidate} {before after : List Candidate}

/-! ### The Candidate List (R131 to R136) -/

/-- The Candidate List holds this candidate of a key, and none of it before. -/
structure CandidateAt (s : State) (key : ShortKey) (before : List Candidate) (d : Candidate) (after : List Candidate) : Prop where
  candidates : s.cnu.candidates = before ++ d :: after
  keyed : d.key = key
  notBefore : ∀ x ∈ before, x.key ≠ key

/-- The part with this Candidate List. -/
def withCandidates (s : State) (l : List Candidate) : State := { s with cnu := { s.cnu with candidates := l } }

theorem CandidateAt.replace (h : CandidateAt s key before d after) {d' : Candidate} (hd : d'.key = key) :
    CandidateAt (withCandidates s (before ++ d' :: after)) key before d' after := ⟨rfl, hd, h.notBefore⟩

theorem candidateOf_at (h : CandidateAt s key before d after) : candidateOf s key = some d := by
  rw [candidateOf, h.candidates, List.find?_append, List.find?_eq_none.mpr fun x hx => by simpa using h.notBefore x hx,
    List.find?_cons_of_pos (by simpa using h.keyed)]
  rfl

theorem candidateOf_none (h : ∀ x ∈ s.cnu.candidates, x.key ≠ key) : candidateOf s key = none :=
  List.find?_eq_none.mpr fun x hx => by simpa using h x hx

theorem updateCandidate_at (h : CandidateAt s key before d after) (f : Candidate → Candidate) :
    updateCandidate key f s = withCandidates s (before ++ f d :: after) := by
  unfold updateCandidate withCandidates
  rw [h.candidates, updateFirst_append_cons f (fun x hx => decide_eq_false (h.notBefore x hx)) (decide_eq_true h.keyed)]

theorem removeCandidate_at (h : CandidateAt s key before d after) (ha : ∀ x ∈ after, x.key ≠ key) :
    removeCandidate key s = withCandidates s (before ++ after) := by
  have hself (l : List Candidate) (hl : ∀ x ∈ l, x.key ≠ key) : l.filter (fun x => decide (x.key ≠ key)) = l :=
    List.filter_eq_self.mpr fun x hx => decide_eq_true (hl x hx)
  unfold removeCandidate withCandidates
  rw [h.candidates, List.filter_append, List.filter_cons_of_neg (by simpa using h.keyed), hself _ h.notBefore, hself _ ha]

theorem eligibleToRecruit_iff (s : State) (size lodgeTime cls : Nat) (held : Bool) :
    eligibleToRecruit s size lodgeTime cls held = true ↔ MayRecruit s size lodgeTime cls held := by
  unfold eligibleToRecruit
  simp only [Bool.and_eq_true, Bool.or_eq_true, Bool.not_eq_true', decide_eq_true_eq, and_assoc]

/-! ### The end of a recruit timer (R134, R137) -/

/-- A candidate whose recruit timer has ended. -/
def timerEnded (s : State) (d : Candidate) : Candidate := { d with claimsHeard := recentClaims s d, timer := none }

theorem recruitExpire_none (h : ∀ x ∈ s.cnu.candidates, x.key ≠ key) : recruitExpire key s = s := by
  unfold recruitExpire
  rw [candidateOf_none h]

theorem recruitExpire_stopped (h : CandidateAt s key before d after) (ht : d.timer = none) : recruitExpire key s = s := by
  unfold recruitExpire
  rw [candidateOf_at h]
  exact if_pos (by rw [ht]; rfl)

theorem recruitExpire_running (h : CandidateAt s key before d after) {n : Nat} (ht : d.timer = some n) : recruitExpire key s =
    if copyTarget s ≤ livePeers s d.holders then
      removeCandidate key (withCandidates s (before ++ timerEnded s d :: after))
    else if livePeers s d.holders + (recentClaims s d).length < copyTarget s ∧
        eligibleToRecruit s d.size d.lodgeTime d.cls d.held = true then
      makeClaim (timerEnded s d) (withCandidates s (before ++ timerEnded s d :: after))
    else withCandidates s (before ++ timerEnded s d :: after) := by
  unfold recruitExpire
  rw [candidateOf_at h]
  dsimp only
  rw [if_neg (by simp [ht]), updateCandidate_at h]
  rfl

/-- The claim that a candidate becomes. -/
def claimMade (s : State) (d : Candidate) : Claim :=
  { key := d.key, lodgeTime := d.lodgeTime, cls := d.cls, cust := d.cust, size := d.size, holders := d.holders
    claimTime := s.coreMs, deadline := s.coreMs + claimLifetime s, owed := !canOffer s }

/-- A candidate becomes a claim while the Notice Queue has room: but for the stamp of its head. -/
theorem makeClaim_at (h : CandidateAt s key before d after) (ha : ∀ x ∈ after, x.key ≠ key)
    (hroom : s.rli.notices.length < 32) : ∃ k, makeClaim d s = { s with
      cnu := { s.cnu with candidates := before ++ after, claims := s.cnu.claims ++ [claimMade s d] }
      pbc := { s.pbc with sendQueue := (
        if canOffer s then insertSend { content := .frame (.claim key) } s.pbc.sendQueue else s.pbc.sendQueue) }
      rli := { s.rli with
        notices := s.rli.notices ++ [.fetchAdoption key d.lodgeTime d.cls d.cust d.size d.holders], noticeStamp := k } } := by
  obtain ⟨k, hk⟩ := postNotice_eq (.fetchAdoption key d.lodgeTime d.cls d.cust d.size d.holders)
    (withCandidates s (before ++ after))
  refine ⟨k, ?_⟩
  unfold makeClaim
  dsimp only
  rw [h.keyed, removeCandidate_at h ha, hk, ← h.keyed]
  rw [if_pos (show (withCandidates s (before ++ after)).rli.notices.length < 32 from hroom)]
  by_cases ho : canOffer s = true
  · rw [if_pos ho]
    exact (if_pos (by exact ho)).trans rfl
  · rw [if_neg ho]
    exact (if_neg (by exact ho)).trans rfl

theorem candidateUnwanted_eq (key : ShortKey) (s : State) : candidateUnwanted key s =
    withCandidates s (s.cnu.candidates.filter fun c => decide (c.key = key → s.coreMs < c.lastWant + claimLifetime s)) := by
  unfold candidateUnwanted withCandidates
  rw [List.filter_congr fun d _ => ?_]
  have hdue : isDue s (some (unwantedTime s d)) = decide (d.lastWant + claimLifetime s ≤ s.coreMs) := rfl
  rw [hdue, Bool.eq_iff_iff, Bool.or_eq_true, Bool.not_eq_true', decide_eq_true_iff, decide_eq_false_iff_not,
    decide_eq_true_iff, Nat.not_le]
  exact Decidable.imp_iff_not_or.symm

/-- Settles O37. -/
theorem recruitTimersAndExpiries : Obligations.RecruitTimersAndExpiries := by
  unfold Obligations.RecruitTimersAndExpiries
  refine ⟨fun key s hp => ?_, fun key s hp => ⟨?_, fun hno => ?_, fun hsome => ?_⟩⟩
  · have hx : exec (.recruitTimerExpiry key) s = .next (linkEnd (recruitExpire key s)) :=
      (powered_on hp _ : execRecruitTimerExpiry key s = _)
    refine ⟨fun hno => ?_, fun before d after hc hk ht hb => ?_, fun before d after n hc hk ht hb ha recent live hrec hlive => ?_⟩
    · rw [recruitExpire_none hno] at hx
      exact ends_linkEnd_same hx rfl
    · rw [recruitExpire_stopped ⟨hc, hk, hb⟩ ht] at hx
      exact ends_linkEnd_same hx rfl
    · have hat : CandidateAt s key before d after := ⟨hc, hk, hb⟩
      have hnew : CandidateAt (withCandidates s (before ++ timerEnded s d :: after)) key before (timerEnded s d) after :=
        hat.replace hk
      have hlive' : livePeers s d.holders = live := hlive.symm
      have hrec' : recentClaims s d = recent := hrec.symm
      rw [recruitExpire_running hat ht, hlive', hrec'] at hx
      simp only [eligibleToRecruit_iff] at hx
      split
      · rename_i h1
        rw [if_pos h1, removeCandidate_at hnew ha] at hx
        exact ends_linkEnd_same hx rfl
      · rename_i h1
        rw [if_neg h1] at hx
        split
        · rename_i h2
          intro e claim hclaim he
          rw [if_pos h2] at hx
          obtain ⟨-, -, -, -, -, -, hroom, -⟩ := h2
          obtain ⟨k, hk'⟩ := makeClaim_at hnew ha hroom
          rw [hk'] at hx
          have hmade : claimMade (withCandidates s (before ++ timerEnded s d :: after)) (timerEnded s d) = claim := by
            rw [hclaim, ← hk]
            rfl
          rw [hmade] at hx
          subst he
          exact ends_stamped (as := []) (n := k) (by rw [pushAnswers_nil]; exact hx) rfl rfl
        · rename_i h2
          rw [if_neg h2] at hx
          have hended : timerEnded s d = { d with claimsHeard := recent, timer := none } := by rw [← hrec']; rfl
          rw [hended] at hx
          exact ends_linkEnd_same hx rfl
  · have hx : exec (.candidateExpiry key) s = .next (candidateUnwanted key s) :=
      (powered_on hp _ : execCandidateExpiry key s = _)
    rw [hx]
    rw [candidateUnwanted_eq]
    rfl
  · have hx : exec (.claimLifetimeExpiry key) s = .next (linkEnd (claimLapse key s)) :=
      (powered_on hp _ : execClaimLifetimeExpiry key s = _)
    have hidle : claimLapse key s = s := if_neg (by simpa [claimOf] using hno)
    rw [hidle] at hx
    exact ends_linkEnd_same hx rfl
  · have hx : exec (.claimLifetimeExpiry key) s = .next (linkEnd (claimLapse key s)) :=
      (powered_on hp _ : execClaimLifetimeExpiry key s = _)
    have hlapse : claimLapse key s = postNotice (.claimLapsed key) (raise .claimLapsed (removeClaim key s)) :=
      if_pos (by simpa [claimOf] using hsome)
    obtain ⟨k, hk⟩ := postNotice_eq (.claimLapsed key) (raise .claimLapsed (removeClaim key s))
    rw [hlapse, hk] at hx
    exact ends_stamped (as := []) (n := k) (by rw [pushAnswers_nil]; exact hx) rfl rfl

end Sys2Proof.Machine
end

section
/-! PROOFS. The frames of the census: HAVE, DROP, WANT and CLAIM. -/

namespace Sys2Proof.Machine

variable {c : Instr} {s t u v : State} {key : ShortKey} {sender : NodeId} {i : Nat}

/-! ### The holder set of an entry (R122, R123) -/

theorem nodeSet_ext {a b : NodeSet} (h : ∀ x : NodeId, setHas a x = true ↔ setHas b x = true) : a = b := by
  refine BitVec.eq_of_getLsbD_eq fun n hn => ?_
  have hx := h (BitVec.ofNat 4 n)
  unfold setHas at hx
  rw [BitVec.toNat_ofNat, Nat.mod_eq_of_lt hn] at hx
  exact Bool.eq_iff_iff.mpr hx

theorem setAdd_eq_iff (set : NodeSet) (id : NodeId) : setAdd set id = set ↔ setHas set id = true := by
  refine ⟨fun h => ?_, fun h => nodeSet_ext fun x => ?_⟩
  · rw [← h, setHas_setAdd]
    exact .inl rfl
  · rw [setHas_setAdd]
    exact or_iff_right_of_imp fun hx => by rw [hx]; exact h

theorem setRemove_eq_iff (set : NodeSet) (id : NodeId) : setRemove set id = set ↔ setHas set id = false := by
  refine ⟨fun h => ?_, fun h => nodeSet_ext fun x => ?_⟩
  · rw [← Bool.not_eq_true, ← h, setHas_setRemove]
    exact fun hx => hx.1 rfl
  · rw [setHas_setRemove]
    exact and_iff_right_of_imp fun hx hxid => by rw [hxid, h] at hx; exact absurd hx (by decide)

/-- The entry at an index with this holder set. -/
def heldBy (s : State) (i : Nat) (holders : NodeSet) : Entry := { entryAt s i with holders := holders }

theorem holdersTaken_same {holders : NodeSet} (h : holders = (entryAt s i).holders) (fs : List Effect) :
    holdersTaken i (heldBy s i holders) fs s = s := if_pos h

theorem holdersTaken_fault {holders : NodeSet} (hn : s.ctc.node = .storeFault) (fs gs : List Effect) :
    holdersTaken i (heldBy s i holders) fs s = holdersTaken i (heldBy s i holders) gs s := by
  unfold holdersTaken
  dsimp only
  rw [if_pos hn, if_pos hn]

/-- A change of the holder set of a taken entry. -/
theorem changeEntry_holders {holders : NodeSet} (h : holders ≠ (entryAt s i).holders) (hf : (entryAt s i).state ≠ .free)
    (fs : List Effect) : changeEntry i (heldBy s i holders) (changeCauses (entryAt s i) (heldBy s i holders)) fs s =
      holdersTaken i (heldBy s i holders) fs s := by
  have hcauses : changeCauses (entryAt s i) (heldBy s i holders) = { holder := true } := by
    simp [changeCauses, heldBy, hf, Ne.symm h]
  have hhit : hitOf i (watchedKey (entryAt s i) (heldBy s i holders)) (heldBy s i holders) { holder := true } =
      some ⟨(entryAt s i).shortKey, { holder := true }, i, (entryAt s i).state, (entryAt s i).holdCount, holders⟩ := by
    rw [watchedKey_of_taken hf]
    exact if_neg (by decide)
  have hscs : notedScs i (entryAt s i).state (heldBy s i holders).state s = s.scs := notedScs_same rfl s
  unfold holdersTaken
  refine Eq.trans ?_ (if_neg (by exact h)).symm
  rw [hcauses]
  split
  · rename_i hn
    rw [changeEntry_fault hn, hhit, hscs]
    rfl
  · rename_i hn
    rw [changeEntry_eq hn, hhit, hscs]
    rfl

theorem commit_holders {holders : NodeSet} (h : holders ≠ (entryAt s i).holders) (hf : (entryAt s i).state ≠ .free)
    (fs : List Effect) : commit i (heldBy s i holders) fs s =
      if s.ctc.node = .storeFault then
        runEffects i (heldBy s i holders) fs (holdersTaken i (heldBy s i holders) fs s)
      else holdersTaken i (heldBy s i holders) fs s := by
  unfold commit
  dsimp only
  rw [changeEntry_holders h hf]

theorem addHolder_eq (hf : (entryAt s i).state ≠ .free) (id : NodeId) (fs : List Effect) {e : Entry}
    (he : e = heldBy s i (setAdd (entryAt s i).holders id)) : addHolder i id fs s =
      if e.holders = (entryAt s i).holders ∨ s.ctc.node = .storeFault then runEffects i e fs (holdersTaken i e fs s)
      else holdersTaken i e fs s := by
  subst he
  have hiff : setAdd (entryAt s i).holders id = (entryAt s i).holders ↔
      setHas (entryAt s i).holders id = true := setAdd_eq_iff _ _
  unfold addHolder
  dsimp only
  by_cases h : setHas (entryAt s i).holders id = true
  · have hsame := hiff.mpr h
    have hentry : heldBy s i (setAdd (entryAt s i).holders id) = entryAt s i := by
      rw [heldBy, hsame]
    rw [if_pos h, if_pos (.inl hsame), holdersTaken_same hsame, hentry]
  · rw [if_neg h, show ({ entryAt s i with holders := setAdd (entryAt s i).holders id } : Entry) = heldBy s i _ from rfl,
      commit_holders (mt hiff.mp h) hf]
    exact if_congr (or_iff_right (mt hiff.mp h)).symm rfl rfl

theorem removeHolder_eq (hf : (entryAt s i).state ≠ .free) (id : NodeId) (fs : List Effect) {e : Entry}
    (he : e = heldBy s i (setRemove (entryAt s i).holders id)) : removeHolder i id fs s =
      if e.holders = (entryAt s i).holders ∨ s.ctc.node = .storeFault then runEffects i e fs (holdersTaken i e fs s)
      else holdersTaken i e fs s := by
  subst he
  have hiff : setRemove (entryAt s i).holders id = (entryAt s i).holders ↔
      setHas (entryAt s i).holders id = false := setRemove_eq_iff _ _
  unfold removeHolder
  dsimp only
  by_cases h : setHas (entryAt s i).holders id = true
  · have hne : ¬ setRemove (entryAt s i).holders id = (entryAt s i).holders := by
      rw [hiff, h]
      decide
    rw [if_pos h, show ({ entryAt s i with holders := setRemove (entryAt s i).holders id } : Entry) = heldBy s i _ from rfl,
      commit_holders hne hf]
    exact if_congr (or_iff_right hne).symm rfl rfl
  · have hsame := hiff.mpr (Bool.not_eq_true _ ▸ h)
    have hentry : heldBy s i (setRemove (entryAt s i).holders id) = entryAt s i := by
      rw [heldBy, hsame]
    rw [if_neg h, if_pos (.inl hsame), holdersTaken_same hsame, hentry]

theorem entryAt_holdersTaken (wf : catWf s.ctc.work = true) {holders : NodeSet} (fs : List Effect) :
    entryAt (holdersTaken i (heldBy s i holders) fs s) i = heldBy s i holders := by
  unfold holdersTaken
  dsimp only
  split
  · rename_i h
    rw [heldBy, show holders = _ from h]
  · split
    · rw [entryAt, recordHit_eq]
      exact catGet_catSet_self i _ wf
    · exact catGet_catSet_self i _ wf

/-- What the lists of CNU and the Peer Table keep under a change of a holder set and the tests that follow. -/
abbrev SameLists (t s : State) : Prop :=
  t.cnu.claims = s.cnu.claims ∧ t.cnu.candidates = s.cnu.candidates ∧ t.pbc.peers = s.pbc.peers ∧
    t.ctc.inForce = s.ctc.inForce

theorem sameLists_holdersTaken {e : Entry} (fs : List Effect) : SameLists (holdersTaken i e fs s) s := by
  unfold holdersTaken
  dsimp only
  split
  · exact ⟨rfl, rfl, rfl, rfl⟩
  · split
    · rw [recordHit_eq]
      exact ⟨rfl, rfl, rfl, rfl⟩
    · exact ⟨rfl, rfl, rfl, rfl⟩

theorem sameLists_testedByCnu {e : Entry} : SameLists (testedByCnu i e s) s := by
  unfold testedByCnu
  split <;> exact ⟨rfl, rfl, rfl, rfl⟩

theorem sameLists_handedToCnu {e : Entry} : SameLists (handedToCnu i e s) s := by
  unfold handedToCnu
  dsimp only
  split
  · split
    · exact ⟨rfl, rfl, rfl, rfl⟩
    · split
      · exact ⟨rfl, rfl, rfl, rfl⟩
      · split <;> exact ⟨rfl, rfl, rfl, rfl⟩
  · exact ⟨rfl, rfl, rfl, rfl⟩

theorem SameLists.trans (h : SameLists v u) (g : SameLists u s) : SameLists v s :=
  ⟨h.1.trans g.1, h.2.1.trans g.2.1, h.2.2.1.trans g.2.2.1, h.2.2.2.trans g.2.2.2⟩

theorem SameLists.members (h : SameLists t s) (set : NodeSet) : presentMembers t set = presentMembers s set := by
  obtain ⟨-, -, hp, -⟩ := h
  unfold presentMembers isPresent
  rw [hp]

theorem SameLists.target (h : SameLists t s) : copyTarget t = copyTarget s := by
  obtain ⟨-, -, -, hf⟩ := h
  unfold copyTarget inForceOr
  rw [hf]

/-! ### HAVE and DROP at CNU's own lists -/

/-- The part with these claims and candidates. -/
def withLists (s : State) (cl : List Claim) (ca : List Candidate) : State :=
  { s with cnu := { s.cnu with claims := cl, candidates := ca } }

theorem find?_updateFirst {α : Type} {p : α → Bool} {f : α → α} (hf : ∀ x, p x = true → p (f x) = true) (l : List α) :
    (updateFirst p f l).find? p = (l.find? p).map f := by
  induction l with
  | nil => rfl
  | cons x l ih =>
    by_cases hx : p x = true
    · rw [updateFirst, if_pos hx, List.find?_cons_of_pos (hf x hx), List.find?_cons_of_pos hx]
      rfl
    · rw [updateFirst, if_neg hx, List.find?_cons_of_neg hx, List.find?_cons_of_neg hx, ih]

theorem filter_updateFirst {α : Type} {p q : α → Bool} {f : α → α} (hq : ∀ x, p x = true → q x = false ∧ q (f x) = false)
    (l : List α) : (updateFirst p f l).filter q = l.filter q := by
  induction l with
  | nil => rfl
  | cons x l ih =>
    by_cases hx : p x = true
    · obtain ⟨h1, h2⟩ := hq x hx
      rw [updateFirst, if_pos hx, List.filter_cons_of_neg (by rw [h2]; decide), List.filter_cons_of_neg (by rw [h1]; decide)]
    · rw [updateFirst, if_neg hx, List.filter_cons, List.filter_cons, ih]

theorem updateFirst_of_find?_none {α : Type} {p : α → Bool} (f : α → α) {l : List α} (h : l.find? p = none) :
    updateFirst p f l = l := by
  induction l with
  | nil => rfl
  | cons x l ih =>
    rw [List.find?_eq_none] at h
    rw [updateFirst, if_neg (h x List.mem_cons_self),
      ih (List.find?_eq_none.mpr fun y hy => h y (List.mem_cons_of_mem _ hy))]

theorem candidateOf_updateCandidate {f : Candidate → Candidate} (hf : ∀ x, (f x).key = x.key) (s : State) :
    candidateOf (updateCandidate key f s) key = (candidateOf s key).map f :=
  find?_updateFirst (fun x hx => by simpa [hf] using hx) _

theorem removeCandidate_updateCandidate {f : Candidate → Candidate} (hf : ∀ x, (f x).key = x.key) (s : State) :
    removeCandidate key (updateCandidate key f s) = removeCandidate key s :=
  congrArg (withCandidates s) (filter_updateFirst (fun x hx => by simpa [hf] using hx) _)

theorem updateCandidate_absent {f : Candidate → Candidate} (h : candidateOf s key = none) : updateCandidate key f s = s :=
  congrArg (withCandidates s) (updateFirst_of_find?_none f h)

/-- A candidate that a HAVE changes. -/
def heldToo (sender : NodeId) (d : Candidate) : Candidate :=
  { d with holders := setAdd d.holders sender, claimsHeard := d.claimsHeard.filter fun h => decide (h.1 ≠ sender) }

/-- A candidate that a DROP changes. -/
def heldNoMore (sender : NodeId) (d : Candidate) : Candidate := { d with holders := setRemove d.holders sender }

/-- The claims of a key with their holder set changed. -/
def claimsHeldBy (key : ShortKey) (g : NodeSet → NodeSet) (s : State) : State :=
  updateClaim key (fun c => { c with holders := g c.holders }) s

theorem haveAtLists_absent (h : candidateOf s key = none) (sender : NodeId) :
    haveAtLists key sender s = claimsHeldBy key (fun hs => setAdd hs sender) s := by
  have hu := updateCandidate_absent (s := claimsHeldBy key (fun hs => setAdd hs sender) s) (f := heldToo sender) h
  have hc : candidateOf (updateCandidate key (heldToo sender) (claimsHeldBy key (fun hs => setAdd hs sender) s)) key = none := by
    rw [hu]
    exact h
  unfold haveAtLists
  dsimp only
  show (match candidateOf (updateCandidate key (heldToo sender) (claimsHeldBy key (fun hs => setAdd hs sender) s)) key with
    | some _ => _ | none => _) = _
  rw [hc]
  exact hu

theorem haveAtLists_candidate {d : Candidate} (h : candidateOf s key = some d) (sender : NodeId) :
    haveAtLists key sender s = if copyTarget s ≤ (presentMembers s (setAdd d.holders sender)).length then
      removeCandidate key (claimsHeldBy key (fun hs => setAdd hs sender) s)
    else updateCandidate key (heldToo sender) (claimsHeldBy key (fun hs => setAdd hs sender) s) := by
  have hfind : candidateOf (updateCandidate key (heldToo sender) (claimsHeldBy key (fun hs => setAdd hs sender) s)) key =
      (candidateOf s key).map (heldToo sender) := candidateOf_updateCandidate (f := heldToo sender) (fun _ => rfl) _
  rw [h] at hfind
  rw [← removeCandidate_updateCandidate (key := key) (f := heldToo sender) (fun _ => rfl)]
  unfold haveAtLists
  dsimp only
  show (match candidateOf (updateCandidate key (heldToo sender) (claimsHeldBy key (fun hs => setAdd hs sender) s)) key with
    | some _ => _ | none => _) = _
  rw [hfind]
  rfl

theorem haveAtLists_lists (key : ShortKey) (sender : NodeId) (s : State) :
    HaveAtLists key sender s (haveAtLists key sender s) ∧
      withLists (haveAtLists key sender s) s.cnu.claims s.cnu.candidates = s := by
  unfold HaveAtLists
  cases h : candidateOf s key with
  | none =>
    rw [show s.cnu.candidates.find? _ = none from h, haveAtLists_absent h]
    exact ⟨⟨rfl, rfl⟩, rfl⟩
  | some d =>
    rw [show s.cnu.candidates.find? _ = some d from h, haveAtLists_candidate h]
    dsimp only
    split <;> exact ⟨⟨rfl, rfl⟩, rfl⟩

theorem dropAtLists_absent (h : candidateOf s key = none) (reason : DropReason) (sender : NodeId) :
    dropAtLists key reason sender s = claimsHeldBy key (fun hs => setRemove hs sender) s := by
  have hu := updateCandidate_absent (s := claimsHeldBy key (fun hs => setRemove hs sender) s) (f := heldNoMore sender) h
  have hc : candidateOf (updateCandidate key (heldNoMore sender) (claimsHeldBy key (fun hs => setRemove hs sender) s)) key =
      none := by
    rw [hu]
    exact h
  unfold dropAtLists
  dsimp only
  show (match candidateOf (updateCandidate key (heldNoMore sender) (claimsHeldBy key (fun hs => setRemove hs sender) s)) key with
    | some _ => _ | none => _) = _
  rw [hc]
  exact hu

theorem dropAtLists_candidate {d : Candidate} (h : candidateOf s key = some d) (reason : DropReason) (sender : NodeId) :
    dropAtLists key reason sender s = if reason = .disposed ∧ d.held = false then
      removeCandidate key (claimsHeldBy key (fun hs => setRemove hs sender) s)
    else updateCandidate key (heldNoMore sender) (claimsHeldBy key (fun hs => setRemove hs sender) s) := by
  have hfind : candidateOf (updateCandidate key (heldNoMore sender) (claimsHeldBy key (fun hs => setRemove hs sender) s)) key =
      (candidateOf s key).map (heldNoMore sender) := candidateOf_updateCandidate (f := heldNoMore sender) (fun _ => rfl) _
  rw [h] at hfind
  rw [← removeCandidate_updateCandidate (key := key) (f := heldNoMore sender) (fun _ => rfl)]
  unfold dropAtLists
  dsimp only
  show (match candidateOf (updateCandidate key (heldNoMore sender) (claimsHeldBy key (fun hs => setRemove hs sender) s)) key with
    | some _ => _ | none => _) = _
  rw [hfind]
  rfl

theorem dropAtLists_lists (key : ShortKey) (reason : DropReason) (sender : NodeId) (s : State) :
    DropAtLists key reason sender s (dropAtLists key reason sender s) ∧
      withLists (dropAtLists key reason sender s) s.cnu.claims s.cnu.candidates = s := by
  unfold DropAtLists
  cases h : candidateOf s key with
  | none =>
    rw [show s.cnu.candidates.find? _ = none from h, dropAtLists_absent h]
    exact ⟨⟨rfl, rfl⟩, rfl⟩
  | some d =>
    rw [show s.cnu.candidates.find? _ = some d from h, dropAtLists_candidate h]
    dsimp only
    split <;> exact ⟨⟨rfl, rfl⟩, rfl⟩

theorem SameLists.haveAtLists (h : SameLists u s) (hl : HaveAtLists key sender u t) : HaveAtLists key sender s t := by
  unfold HaveAtLists at hl ⊢
  rw [h.1, h.2.1, h.target] at hl
  simp only [h.members] at hl
  exact hl

theorem SameLists.dropAtLists {reason : DropReason} (h : SameLists u s) (hl : DropAtLists key reason sender u t) :
    DropAtLists key reason sender s t := by
  unfold DropAtLists at hl ⊢
  rw [h.1, h.2.1] at hl
  exact hl

end Sys2Proof.Machine
end

section
/-! PROOFS. The dispatch of the census frames. -/

namespace Sys2Proof.Machine

variable {c : Instr} {s t u v : State} {key : ShortKey} {sender : NodeId} {i : Nat} {e : Entry}

/-! ### HAVE and DROP (R122, R123) -/

/-- CTC's part in a HAVE. -/
theorem addHolder_have (hf : (entryAt s i).state ≠ .free) (he : e = heldBy s i (setAdd (entryAt s i).holders sender)) :
    addHolder i sender [] s = holdersTaken i e [] s := by
  rw [addHolder_eq hf sender [] he]
  exact ite_self _

/-- CTC's part in a DROP, with CNU's re-check after the write or at once. -/
theorem removeHolder_drop (wf : catWf s.ctc.work = true) (hf : (entryAt s i).state ≠ .free)
    (he : e = heldBy s i (setRemove (entryAt s i).holders sender)) : removeHolder i sender [.recheck] s =
      if e.holders = (entryAt s i).holders ∨ s.ctc.node = .storeFault then
        handedToCnu i e (testedByCnu i e (holdersTaken i e [] s))
      else holdersTaken i e [.recheck] s := by
  subst he
  rw [removeHolder_eq hf sender [.recheck] rfl]
  split
  · rename_i h
    have hfs : holdersTaken i (heldBy s i (setRemove (entryAt s i).holders sender)) [.recheck] s =
        holdersTaken i (heldBy s i (setRemove (entryAt s i).holders sender)) [] s := by
      obtain h | h := h
      · have h' : setRemove (entryAt s i).holders sender = (entryAt s i).holders := h
        rw [holdersTaken_same h', holdersTaken_same h']
      · exact holdersTaken_fault h _ _
    rw [hfs]
    exact recheckAppeal_eq (entryAt_holdersTaken wf _).symm
  · rfl

theorem takeHave_found (wf : catWf s.ctc.work = true) (hk : findKey s key = some i)
    (he : e = heldBy s i (setAdd (entryAt s i).holders sender)) :
    takeHave sender key s = haveAtLists key sender (testedByCnu i e (holdersTaken i e [] s)) := by
  unfold takeHave
  rw [hk]
  dsimp only
  rw [addHolder_have (occupied_of_findKey wf hk) he, testAppeal_eq (he.trans (by rw [he]; exact (entryAt_holdersTaken wf _).symm))]

theorem takeHave_unfound (hk : findKey s key = none) : takeHave sender key s = haveAtLists key sender s := by
  unfold takeHave
  rw [hk]

theorem takeDrop_found (wf : catWf s.ctc.work = true) (hk : findKey s key = some i) (reason : DropReason)
    (he : e = heldBy s i (setRemove (entryAt s i).holders sender)) : takeDrop sender key reason s =
      dropAtLists key reason sender (
        if e.holders = (entryAt s i).holders ∨ s.ctc.node = .storeFault then
          handedToCnu i e (testedByCnu i e (holdersTaken i e [] s))
        else holdersTaken i e [.recheck] s) := by
  unfold takeDrop
  rw [hk]
  dsimp only
  rw [removeHolder_drop wf (occupied_of_findKey wf hk) he]

theorem takeDrop_unfound (hk : findKey s key = none) (reason : DropReason) :
    takeDrop sender key reason s = dropAtLists key reason sender s := by
  unfold takeDrop
  rw [hk]

/-! ### A WANT at a holder (R128, R130) -/

/-- An Appeal List entry at a WANT heard. -/
def wantHeard (now : Nat) (a : Appeal) : Appeal :=
  if a.appealed then { a with appealTime := now, wantOwed := false }
  else { a with appealed := true, timer := none, appealTime := now }

/-- The Appeal List after a WANT heard for an index with this entry. -/
def appealsHeard (i : Nat) (e : Entry) (s : State) : List Appeal :=
  updateFirst (fun a => decide (a.index = i)) (wantHeard s.coreMs) (testedByCnu i e s).cnu.appeals

theorem appealHeard_eq (he : e = entryAt s i) : appealHeard i s = withAppeals s (appealsHeard i e s) := by
  unfold appealHeard
  rw [testAppeal_eq he]
  unfold testedByCnu appealsHeard
  by_cases h : AppealDue s e
  · rw [if_pos h, testedByCnu, if_pos h]
    rfl
  · rw [if_neg h, testedByCnu, if_neg h]
    rfl

/-- What the test of an appeal reads. -/
abbrev SameTest (t s : State) : Prop :=
  t.pbc.peers = s.pbc.peers ∧ t.ctc.inForce = s.ctc.inForce ∧ t.rck = s.rck ∧ t.coreMs = s.coreMs ∧
    t.cnu.appeals = s.cnu.appeals

theorem SameTest.appealsHeard (h : SameTest t s) : appealsHeard i e t = appealsHeard i e s := by
  obtain ⟨hp, hf, hr, hc, ha⟩ := h
  have hdue : AppealDue t e ↔ AppealDue s e := by
    unfold AppealDue liveHolders copyTarget presentMembers isPresent inForceOr
    rw [hp, hf, hr]
  unfold Sys2Proof.Machine.appealsHeard testedByCnu
  rw [hc]
  by_cases hd : AppealDue s e
  · rw [if_pos hd, if_pos (hdue.mpr hd), ha]
  · rw [if_neg hd, if_neg (mt hdue.mp hd), ha]

theorem appealHeard_of (he : e = entryAt t i) (h : SameTest t s) : appealHeard i t = withAppeals t (appealsHeard i e s) := by
  rw [appealHeard_eq he, h.appealsHeard]

theorem holdersTaken_sameTest (fs : List Effect) : SameTest (holdersTaken i e fs s) s := by
  unfold holdersTaken
  dsimp only
  split
  · exact ⟨rfl, rfl, rfl, rfl, rfl⟩
  · split
    · rw [recordHit_eq]
      exact ⟨rfl, rfl, rfl, rfl, rfl⟩
    · exact ⟨rfl, rfl, rfl, rfl, rfl⟩

theorem recordHit_withAppeals (h : Option Hit) (s : State) (l : List Appeal) :
    recordHit h (withAppeals s l) = withAppeals (recordHit h s) l := by
  have hsli : (recordHit h (withAppeals s l)).sli = (recordHit h s).sli := recordHit_sli rfl rfl
  have hevu : (recordHit h (withAppeals s l)).evu = (recordHit h s).evu := by
    rw [recordHit_evu, recordHit_evu]
    rfl
  rw [recordHit_eq h (withAppeals s l), hsli, hevu, recordHit_eq h s]
  rfl

theorem offerRepair_other (h : ¬ ScrubbableAt s i) : offerRepair i s = s :=
  if_neg (mt (storedCopy_iff _).mp h)

theorem offerRepair_sent (h : ScrubbableAt s i) (ho : canOffer s = true) (he : e = entryAt s i) : offerRepair i s =
    { s with pbc := { s.pbc with sendQueue := (insertSend
      { content := .frame (.haveCopy e.shortKey e.lodgeTime e.cls), producer := .repair i } s.pbc.sendQueue) } } := by
  subst he
  exact (if_pos ((storedCopy_iff _).mpr h)).trans (if_pos ho)

theorem offerRepair_kept (h : ScrubbableAt s i) (ho : canOffer s = false) : offerRepair i s = { s with cnu := { s.cnu with
    repairs := if i ∈ s.cnu.repairs ∨ 16 ≤ s.cnu.repairs.length then s.cnu.repairs else s.cnu.repairs ++ [i] } } := by
  refine (if_pos ((storedCopy_iff _).mpr h)).trans ((if_neg (by rw [ho]; decide)).trans ?_)
  unfold keepRepair
  split <;> rfl

/-- The effects of a WANT at a holder: a repair HAVE of an entry that SCS scrubs. -/
def repairEffects (e : Entry) : List Effect := if e.state = .retained ∨ e.state = .releasable then [.repairHave] else []

theorem takeWant_found (wf : catWf s.ctc.work = true) {w : Want} (hk : findKey s w.key = some i)
    (he : e = heldBy s i (setAdd (entryAt s i).holders sender)) : takeWant sender w s = appealHeard i (
      if e.holders = (entryAt s i).holders ∨ s.ctc.node = .storeFault then
        runEffects i e (repairEffects e) (holdersTaken i e (repairEffects e) s)
      else holdersTaken i e (repairEffects e) s) := by
  unfold takeWant
  rw [hk]
  dsimp only
  have hfs : (if storedCopy (entryAt s i).state = true then [Effect.repairHave] else []) = repairEffects e := by
    rw [he]
    exact if_congr (storedCopy_iff _) rfl rfl
  rw [hfs, addHolder_eq (occupied_of_findKey wf hk) sender (repairEffects e) he]

theorem holdersTaken_census (fs : List Effect) : (holdersTaken i e fs s).cnu = s.cnu ∧ (holdersTaken i e fs s).pbc = s.pbc ∧
    (holdersTaken i e fs s).rli = s.rli := by
  unfold holdersTaken
  dsimp only
  split
  · exact ⟨rfl, rfl, rfl⟩
  · split
    · rw [recordHit_eq]
      exact ⟨rfl, rfl, rfl⟩
    · exact ⟨rfl, rfl, rfl⟩

theorem canOffer_congr (h : t.pbc = s.pbc) : canOffer t = canOffer s := by
  unfold canOffer
  rw [h]

/-- A WANT at a holder that brings no write: the entry's holder set taken, its appeal heard, and the repair HAVE at once. -/
theorem takeWant_atOnce (wf : catWf s.ctc.work = true) {w : Want} (hk : findKey s w.key = some i)
    (he : e = heldBy s i (setAdd (entryAt s i).holders sender))
    (hw : e.holders = (entryAt s i).holders ∨ s.ctc.node = .storeFault) :
    ∃ x, x = withAppeals (holdersTaken i e [] s) (appealsHeard i e s) ∧
      (¬ ScrubbableAt s i → takeWant sender w s = x) ∧
      (ScrubbableAt s i → canOffer s = true → takeWant sender w s = { x with pbc := { x.pbc with sendQueue := (insertSend
        { content := .frame (.haveCopy e.shortKey e.lodgeTime e.cls), producer := .repair i } s.pbc.sendQueue) } }) ∧
      (ScrubbableAt s i → canOffer s = false → takeWant sender w s = { x with cnu := { x.cnu with
        repairs := if i ∈ s.cnu.repairs ∨ 16 ≤ s.cnu.repairs.length then s.cnu.repairs else s.cnu.repairs ++ [i] } }) := by
  have hfs : holdersTaken i e (repairEffects e) s = holdersTaken i e [] s := by
    subst he
    obtain h | h := hw
    · have h' : setAdd (entryAt s i).holders sender = (entryAt s i).holders := h
      rw [holdersTaken_same h', holdersTaken_same h']
    · exact holdersTaken_fault h _ _
  have hat : entryAt (holdersTaken i e [] s) i = e := by rw [he]; exact entryAt_holdersTaken wf []
  have hscrub : ScrubbableAt (holdersTaken i e [] s) i ↔ ScrubbableAt s i := by rw [ScrubbableAt, hat, he]; rfl
  have htest := holdersTaken_sameTest (s := s) (i := i) (e := e) []
  obtain ⟨hcnu, hpbc, -⟩ := holdersTaken_census (s := s) (i := i) (e := e) []
  have htake := takeWant_found wf hk he
  rw [if_pos hw, hfs] at htake
  refine ⟨_, rfl, fun hs => ?_, fun hs ho => ?_, fun hs ho => ?_⟩
  · have hnone : repairEffects e = [] := if_neg (by rw [he]; exact hs)
    rw [htake, hnone]
    exact appealHeard_of hat.symm htest
  · have hone : repairEffects e = [.repairHave] := if_pos (by rw [he]; exact hs)
    have hrun : runEffects i e [.repairHave] (holdersTaken i e [] s) = offerRepair i (holdersTaken i e [] s) := rfl
    rw [htake, hone, hrun, offerRepair_sent (hscrub.mpr hs) (by rw [canOffer_congr hpbc, ho]) hat.symm, ← hpbc]
    exact appealHeard_of (s := s) (by exact hat.symm) (by exact htest)
  · have hone : repairEffects e = [.repairHave] := if_pos (by rw [he]; exact hs)
    have hrun : runEffects i e [.repairHave] (holdersTaken i e [] s) = offerRepair i (holdersTaken i e [] s) := rfl
    rw [htake, hone, hrun, offerRepair_kept (hscrub.mpr hs) (by rw [canOffer_congr hpbc, ho]), ← hcnu]
    exact appealHeard_of (s := s) (by exact hat.symm) (by exact htest)

theorem takeWant_written (wf : catWf s.ctc.work = true) {w : Want} (hk : findKey s w.key = some i)
    (he : e = heldBy s i (setAdd (entryAt s i).holders sender))
    (hw : ¬ (e.holders = (entryAt s i).holders ∨ s.ctc.node = .storeFault)) :
    takeWant sender w s = withAppeals (holdersTaken i e (repairEffects e) s) (appealsHeard i e s) := by
  have hat : e = entryAt (holdersTaken i e (repairEffects e) s) i := by rw [he]; exact (entryAt_holdersTaken wf _).symm
  rw [takeWant_found wf hk he, if_neg hw, appealHeard_of hat (holdersTaken_sameTest _)]

end Sys2Proof.Machine
end

section
/-! PROOFS. Recruitment calls, and what the census frames do. -/

namespace Sys2Proof.Machine

variable {c : Instr} {s t u v : State} {key : ShortKey} {sender : NodeId} {i : Nat} {e : Entry} {d : Candidate}
  {before after : List Candidate}

/-! ### Recruitment calls (R131 to R133) -/

theorem claimOf_isSome (s : State) (key : ShortKey) : (claimOf s key).isSome = true ↔ ∃ c ∈ s.cnu.claims, c.key = key := by
  simp [claimOf]

/-- A recruit timer that starts with this rank, at the end of which it is at once where the delay is 0. -/
def recruitStarted (key : ShortKey) (rank : Nat) (s : State) (before : List Candidate) (d : Candidate)
    (after : List Candidate) : State :=
  let v := withCandidates s (before ++ { d with rank := rank, timer := some (s.coreMs + recruitDelay s rank) } :: after)
  if recruitDelay s rank = 0 then recruitExpire key v else v

theorem startRecruit_at (h : CandidateAt s key before d after) :
    startRecruit key s = recruitStarted key (recruitRank s key d.holders) s before d after := by
  unfold startRecruit recruitStarted
  rw [candidateOf_at h]
  dsimp only
  rw [updateCandidate_at h]
  rfl

theorem recruitStarted_withCandidates (key : ShortKey) (rank : Nat) (s : State) (l before : List Candidate) (d : Candidate)
    (after : List Candidate) : recruitStarted key rank (withCandidates s l) before d after =
      recruitStarted key rank s before d after := rfl

theorem makeClaim_rli (d : Candidate) (s : State) : (makeClaim d s).rli =
    (postNotice (.fetchAdoption d.key d.lodgeTime d.cls d.cust d.size d.holders) (removeCandidate d.key s)).rli := by
  unfold makeClaim
  dsimp only
  split <;> rfl

theorem makeClaim_link (d : Candidate) (s : State) :
    (makeClaim d s).rli.tx = s.rli.tx ∧ (makeClaim d s).rli.answers = s.rli.answers := by
  obtain ⟨k, hk⟩ := postNotice_eq (.fetchAdoption d.key d.lodgeTime d.cls d.cust d.size d.holders) (removeCandidate d.key s)
  rw [makeClaim_rli, hk]
  exact ⟨rfl, rfl⟩

/-- The end of a recruit timer gives no answer and begins no frame. -/
theorem recruitExpire_link (key : ShortKey) (s : State) :
    (recruitExpire key s).rli.tx = s.rli.tx ∧ (recruitExpire key s).rli.answers = s.rli.answers := by
  unfold recruitExpire
  split
  · rename_i d _
    dsimp only
    split
    · exact ⟨rfl, rfl⟩
    · split
      · exact ⟨rfl, rfl⟩
      · split
        · exact makeClaim_link _ _
        · exact ⟨rfl, rfl⟩
  · exact ⟨rfl, rfl⟩

theorem recruitCall_claimed {w : Want} (h : ∃ c ∈ s.cnu.claims, c.key = w.key) : recruitCall w s =
    updateClaim w.key (fun c => { c with holders := c.holders ||| setRemove w.holders s.pbc.ownId }) s :=
  if_pos ((claimOf_isSome s w.key).mpr h)

theorem recruitCall_ignored {w : Want} (h : ¬ ∃ c ∈ s.cnu.claims, c.key = w.key)
    (he : ¬ MayRecruit s w.size w.lodgeTime w.cls w.held) : recruitCall w s = s :=
  (if_neg (mt (claimOf_isSome s w.key).mp h)).trans (if_pos (by
    rw [Bool.not_eq_true', ← Bool.not_eq_true, eligibleToRecruit_iff]
    exact he))

/-- A recruitment call that the node takes, of no claim of its own. -/
structure CallTaken (s : State) (w : Want) : Prop where
  unclaimed : ¬ ∃ c ∈ s.cnu.claims, c.key = w.key
  may : MayRecruit s w.size w.lodgeTime w.cls w.held

theorem CallTaken.known {w : Want} (h : CallTaken s w) (hd : candidateOf s w.key = some d) :
    recruitCall w s = refreshCandidate d w (setRemove w.holders s.pbc.ownId) s := by
  unfold recruitCall
  dsimp only
  rw [if_neg (mt (claimOf_isSome s w.key).mp h.unclaimed), (eligibleToRecruit_iff s _ _ _ _).mpr h.may, hd]
  rfl

theorem CallTaken.new {w : Want} (h : CallTaken s w) (hd : candidateOf s w.key = none) :
    recruitCall w s = if 32 ≤ s.cnu.candidates.length then raise .candidateFull s
      else addCandidate w (setRemove w.holders s.pbc.ownId) s := by
  unfold recruitCall
  dsimp only
  rw [if_neg (mt (claimOf_isSome s w.key).mp h.unclaimed), (eligibleToRecruit_iff s _ _ _ _).mpr h.may, hd]
  rfl

/-- A candidate that a WANT refreshes. -/
def wantedAgain (s : State) (w : Want) (holders : NodeSet) (d : Candidate) : Candidate :=
  { d with
    holders := d.holders ||| holders
    claimsHeard := d.claimsHeard.filter fun h => !setHas (d.holders ||| holders) h.1
    held := w.held
    lastWant := s.coreMs }

theorem refreshCandidate_at {w : Want} (h : CandidateAt s w.key before d after) (holders : NodeSet) :
    refreshCandidate d w holders s =
      if d.timer = none then recruitStarted w.key (recruitRank s w.key (d.holders ||| holders)) s before
        (wantedAgain s w holders d) after
      else withCandidates s (before ++ wantedAgain s w holders d :: after) := by
  have hnew : CandidateAt (withCandidates s (before ++ wantedAgain s w holders d :: after)) w.key before
    (wantedAgain s w holders d) after := h.replace h.keyed
  unfold refreshCandidate
  dsimp only
  rw [updateCandidate_at h]
  by_cases ht : d.timer = none
  · rw [if_pos ht]
    refine (if_pos (by rw [ht]; rfl)).trans ?_
    have hstart := startRecruit_at hnew
    rw [recruitStarted_withCandidates] at hstart
    exact hstart
  · rw [if_neg ht]
    exact if_neg (by rwa [Option.isNone_iff_eq_none])

/-- A candidate that a WANT adds. -/
def wantedFirst (s : State) (w : Want) (holders : NodeSet) : Candidate :=
  { key := w.key, lodgeTime := w.lodgeTime, cls := w.cls, held := w.held, cust := w.cust, size := w.size
    holders := holders, lastWant := s.coreMs, rank := 0, timer := none }

theorem addCandidate_eq {w : Want} (h : ∀ x ∈ s.cnu.candidates, x.key ≠ w.key) (holders : NodeSet) :
    addCandidate w holders s = recruitStarted w.key (recruitRank s w.key holders) s s.cnu.candidates
      (wantedFirst s w holders) [] :=
  startRecruit_at (s := withCandidates s (s.cnu.candidates ++ [wantedFirst s w holders]))
    (d := wantedFirst s w holders) ⟨rfl, rfl, h⟩

theorem recruitStarted_link (key : ShortKey) (rank : Nat) (s : State) (before : List Candidate) (d : Candidate)
    (after : List Candidate) : (recruitStarted key rank s before d after).rli.tx = s.rli.tx ∧
      (recruitStarted key rank s before d after).rli.answers = s.rli.answers := by
  unfold recruitStarted
  dsimp only
  split
  · exact recruitExpire_link _ _
  · exact ⟨rfl, rfl⟩

/-- The dispatch of a WANT, up to the request link. -/
theorem wantDispatch_eq {w : Want} {rest : List RxItem} (hp : Powered s) (h : s.pbc.rxFifo = ⟨sender, .want w⟩ :: rest)
    (hu : u = { s with pbc := { s.pbc with rxFifo := rest } }) :
    exec .wantDispatch s = .next (linkEnd (takeWant sender w u)) := by
  have hx : exec .wantDispatch s = _ := (powered_on hp _ : execWantDispatch s = _)
  rw [hx, h, hu, ← popFifo_eq h]

theorem runs_haveAtLists (hx : exec c s = .next (haveAtLists key sender v)) (h : SameLists v s) :
    Runs c s fun t => HaveAtLists key sender s t ∧
      { t with cnu := { t.cnu with claims := s.cnu.claims, candidates := s.cnu.candidates } } = v := by
  obtain ⟨hl, ho⟩ := haveAtLists_lists key sender v
  refine ⟨_, hx, h.haveAtLists hl, ?_⟩
  rw [h.1, h.2.1] at ho
  exact ho

theorem runs_dropAtLists {reason : DropReason} (hx : exec c s = .next (dropAtLists key reason sender v)) (h : SameLists v s) :
    Runs c s fun t => DropAtLists key reason sender s t ∧
      { t with cnu := { t.cnu with claims := s.cnu.claims, candidates := s.cnu.candidates } } = v := by
  obtain ⟨hl, ho⟩ := dropAtLists_lists key reason sender v
  refine ⟨_, hx, h.dropAtLists hl, ?_⟩
  rw [h.1, h.2.1] at ho
  exact ho

theorem takeWant_unfound {w : Want} (hk : findKey s w.key = none) : takeWant sender w s = recruitCall w s := by
  unfold takeWant
  rw [hk]

/-- A recruitment call that starts a recruit timer, as it ends with the request link. -/
theorem ends_recruitStarted {n rank delay : Nat} (hx : exec c s = .next (linkEnd (recruitStarted key n u before d after)))
    (hr : u.rli = s.rli) (hn : n = rank) (hd : recruitDelay u rank = delay)
    (hv : v = withCandidates u (before ++ { d with rank := rank, timer := some (u.coreMs + delay) } :: after)) :
    Ends c s (if delay = 0 then recruitExpire key v else v) [] := by
  subst hn hd hv
  obtain ⟨htx, hans⟩ := recruitStarted_link key n u before d after
  exact ends_pushAnswers (as := []) (by rw [pushAnswers_nil]; exact hx) (htx.trans (by rw [hr])) (hans.trans (by rw [hr]))

/-- A HAVE: the lists of CNU, and the part of CTC with the test of the Appeal List entry. -/
theorem have_dispatched (hp : Powered s) (wf : catWf s.ctc.work = true) {time cls : Nat} {rest : List RxItem}
    (h : s.pbc.rxFifo = ⟨sender, .haveCopy key time cls⟩ :: rest) (hu : u = { s with pbc := { s.pbc with rxFifo := rest } }) :
    ∃ w, SameLists w s ∧ exec .haveDispatch s = .next (haveAtLists key sender w) ∧ (findKey s key = none → w = u) ∧
      ∀ i e, findKey s key = some i → e = heldBy u i (setAdd (entryAt u i).holders sender) →
        w = testedByCnu i e (holdersTaken i e [] u) := by
  have hx : exec .haveDispatch s = .next (takeHave sender key u) := by
    have hx : exec .haveDispatch s = _ := (powered_on hp _ : execHaveDispatch s = _)
    rw [hx, h, hu, ← popFifo_eq h]
  have hlists : SameLists u s := by rw [hu]; exact ⟨rfl, rfl, rfl, rfl⟩
  have hwf : catWf u.ctc.work = true := by rw [hu]; exact wf
  have hfind : findKey u key = findKey s key := by rw [hu]; rfl
  rw [← hfind]
  cases hk : findKey u key with
  | none =>
    rw [takeHave_unfound hk] at hx
    exact ⟨u, hlists, hx, fun _ => rfl, fun i e hi => absurd hi (by simp)⟩
  | some i =>
    rw [takeHave_found hwf hk rfl] at hx
    refine ⟨_, sameLists_testedByCnu.trans ((sameLists_holdersTaken _).trans hlists), hx, fun hn => absurd hn (by simp),
      fun j e hj he => ?_⟩
    obtain rfl := Option.some.inj hj
    rw [he]

/-- A DROP: the lists of CNU, and the part of CTC with the re-check that is made at once or follows the write. -/
theorem drop_dispatched (hp : Powered s) (wf : catWf s.ctc.work = true) {reason : DropReason} {rest : List RxItem}
    (h : s.pbc.rxFifo = ⟨sender, .drop key reason⟩ :: rest) (hu : u = { s with pbc := { s.pbc with rxFifo := rest } }) :
    ∃ w, SameLists w s ∧ exec .dropDispatch s = .next (dropAtLists key reason sender w) ∧ (findKey s key = none → w = u) ∧
      ∀ i e, findKey s key = some i → e = heldBy u i (setRemove (entryAt u i).holders sender) →
        w = if e.holders = (entryAt u i).holders ∨ u.ctc.node = .storeFault then
          handedToCnu i e (testedByCnu i e (holdersTaken i e [] u))
        else holdersTaken i e [.recheck] u := by
  have hx : exec .dropDispatch s = .next (takeDrop sender key reason u) := by
    have hx : exec .dropDispatch s = _ := (powered_on hp _ : execDropDispatch s = _)
    rw [hx, h, hu, ← popFifo_eq h]
  have hlists : SameLists u s := by rw [hu]; exact ⟨rfl, rfl, rfl, rfl⟩
  have hwf : catWf u.ctc.work = true := by rw [hu]; exact wf
  have hfind : findKey u key = findKey s key := by rw [hu]; rfl
  rw [← hfind]
  cases hk : findKey u key with
  | none =>
    rw [takeDrop_unfound hk] at hx
    exact ⟨u, hlists, hx, fun _ => rfl, fun i e hi => absurd hi (by simp)⟩
  | some i =>
    rw [takeDrop_found hwf hk reason rfl] at hx
    refine ⟨_, ?_, hx, fun hn => absurd hn (by simp), fun j e hj he => ?_⟩
    · split
      · exact sameLists_handedToCnu.trans (sameLists_testedByCnu.trans ((sameLists_holdersTaken _).trans hlists))
      · exact (sameLists_holdersTaken _).trans hlists
    · obtain rfl := Option.some.inj hj
      rw [he]

theorem holdersTaken_written (h : e.holders ≠ (entryAt s i).holders) (hn : s.ctc.node ≠ .storeFault) (fs : List Effect) :
    holdersTaken i e fs s = { s with ctc := { s.ctc with
      work := catSet s.ctc.work i e
      writes := s.ctc.writes ++ [{
        index := i, entry := e, effects := fs
        hit := some ⟨(entryAt s i).shortKey, { holder := true }, i, (entryAt s i).state, (entryAt s i).holdCount,
          e.holders⟩ }] } } :=
  (if_neg h).trans (if_neg hn)

theorem holdersTaken_hit (h : e.holders ≠ (entryAt s i).holders) (hn : s.ctc.node = .storeFault) (fs : List Effect) :
    holdersTaken i e fs s = recordHit (some ⟨(entryAt s i).shortKey, { holder := true }, i, (entryAt s i).state,
      (entryAt s i).holdCount, e.holders⟩) { s with ctc := { s.ctc with work := catSet s.ctc.work i e } } :=
  (if_neg h).trans (if_pos hn)

/-- Settles O36. -/
theorem wantsAndCensusFrames : Obligations.WantsAndCensusFrames := by
  unfold Obligations.WantsAndCensusFrames
  refine ⟨fun s key holders ids hn h => recruitRank_eq_length hn h, fun set id x => ⟨rfl, setHas_setAdd _ _ _,
    setHas_setRemove _ _ _⟩, fun sender key s hp wf => ⟨fun time cls rest hfifo u hu => ?_, fun reason rest hfifo u hu => ?_,
    fun w rest i hfifo hkey hfind e e' hit u v he he' hhit hu hv => ?_, fun rest hfifo => ?_⟩, ?_⟩
  · obtain ⟨w, hlists, hx, hnone, hsome⟩ := have_dispatched hp wf hfifo hu
    obtain ⟨t, ht, hl, hw⟩ := runs_haveAtLists hx hlists
    refine ⟨t, ht, hl, fun x hx' => ⟨fun hk => ?_, fun i e v hk he hv => ?_⟩⟩
    · rw [hx', hw, hnone hk]
    · rw [hx', hw, hsome i e hk (by rw [he, hu]; rfl), hv]
  · obtain ⟨w, hlists, hx, hnone, hsome⟩ := drop_dispatched hp wf hfifo hu
    obtain ⟨t, ht, hl, hw⟩ := runs_dropAtLists hx hlists
    refine ⟨t, ht, hl, fun x hx' => ⟨fun hk => ?_, fun i e hk he => ?_⟩⟩
    · rw [hx', hw, hnone hk]
    · rw [hx', hw, hsome i e hk (by rw [he, hu]; rfl), hu]
      rfl
  · subst hkey he
    obtain ⟨b, hb⟩ : ∃ b, b = { s with pbc := { s.pbc with rxFifo := rest } } := ⟨_, rfl⟩
    have hx := wantDispatch_eq hp hfifo hb
    have hwf : catWf b.ctc.work = true := by rw [hb]; exact wf
    have hfindb : findKey b w.key = some i := by rw [hb]; exact hfind
    have hentry : entryAt b i = entryAt s i := by rw [hb]; rfl
    have heb : e' = heldBy b i (setAdd (entryAt b i).holders sender) := by rw [he', heldBy, hentry]
    have htest : appealsHeard i e' b = appealsHeard i e' s :=
      SameTest.appealsHeard (by rw [hb]; exact ⟨rfl, rfl, rfl, rfl, rfl⟩)
    have hu' : u = withAppeals b (appealsHeard i e' s) := by rw [hu, hb]; rfl
    have hnode : b.ctc.node = s.ctc.node := by rw [hb]
    have hrli : b.rli = s.rli := by rw [hb]
    have hctc : b.ctc = s.ctc := by rw [hb]
    have hholders : e'.holders = (entryAt b i).holders ↔ setHas (entryAt s i).holders sender = true := by
      rw [heb, ← hentry]
      exact setAdd_eq_iff _ _
    refine ⟨fun hnot hn => ?_, fun hw => ?_⟩
    · have hne : e'.holders ≠ (entryAt b i).holders := by rw [Ne, hholders, hnot]; decide
      have hfs : repairEffects e' = if (entryAt s i).state = .retained ∨ (entryAt s i).state = .releasable then
          [Effect.repairHave] else [] := by rw [he']; rfl
      rw [takeWant_written hwf hfindb heb (not_or.mpr ⟨hne, by rw [hnode]; exact hn⟩),
        holdersTaken_written hne (by rw [hnode]; exact hn), htest, hfs, hentry, ← hhit, hctc] at hx
      rw [hu']
      exact ends_linkEnd_same hx hrli
    · obtain ⟨x, hxv, hother, hsent, hkept⟩ := takeWant_atOnce (sender := sender) (w := w) hwf hfindb heb (by
        rw [hholders, hnode]
        exact hw)
      have hv' : x = v := by
        rw [hxv, htest, hv, hu']
        by_cases hset : setHas (entryAt s i).holders sender = true
        · rw [if_pos hset, show holdersTaken i e' [] b = b from if_pos (hholders.mpr hset)]
        · have hne := mt hholders.mp hset
          rw [if_neg hset, holdersTaken_hit hne (hnode.trans (hw.resolve_left hset)), ← recordHit_withAppeals, hentry, ← hhit,
            hctc]
          rfl
      subst hv'
      have hscrub : ScrubbableAt b i ↔ ScrubbableAt s i := by rw [ScrubbableAt, hentry]
      have hoffer : canOffer b = canOffer s := by rw [hb]; rfl
      have hxr : x.rli = s.rli := by
        rw [hxv]
        exact (holdersTaken_census []).2.2.trans hrli
      refine ⟨fun hs => ?_, fun hs ho => ?_, fun hs ho => ?_⟩
      · rw [hother (mt hscrub.mp hs)] at hx
        exact ends_linkEnd_same hx hxr
      · rw [hsent (hscrub.mpr hs) (hoffer.trans ho)] at hx
        have hq : b.pbc.sendQueue = s.pbc.sendQueue := by rw [hb]
        rw [hq, he'] at hx
        exact ends_linkEnd_same hx hxr
      · rw [hkept (hscrub.mpr hs) (hoffer.trans ho)] at hx
        have hr : b.cnu.repairs = s.cnu.repairs := by rw [hb]
        rw [hr] at hx
        exact ends_linkEnd_same hx hxr
  · have hx : exec .claimDispatch s = _ := (powered_on hp _ : execClaimDispatch s = _)
    rw [hx, hfifo, popFifo_eq hfifo]
    rfl
  · intro sender w rest s hp hfifo hk u hu holders hholders
    have hx : exec .wantDispatch s = .next (linkEnd (recruitCall w u)) := by
      rw [wantDispatch_eq hp hfifo hu, takeWant_unfound (by rw [hu]; exact hk)]
    have hrli : u.rli = s.rli := by rw [hu]
    have hcnu : u.cnu = s.cnu := by rw [hu]
    have hms : u.coreMs = s.coreMs := by rw [hu]
    have hown : setRemove w.holders u.pbc.ownId = holders := by rw [hholders, hu]
    have hmay : MayRecruit u w.size w.lodgeTime w.cls w.held ↔ MayRecruit s w.size w.lodgeTime w.cls w.held := by rw [hu]; rfl
    have hrank (hs : NodeSet) : recruitRank u w.key hs = recruitRank s w.key hs := by rw [hu]; rfl
    have hdelay (n : Nat) : recruitDelay u n = n * inForceOr s Settings.recruitStep 0 := by rw [hu]; rfl
    split
    · rename_i hclaim
      rw [recruitCall_claimed (by rw [hcnu]; exact hclaim), hown] at hx
      rw [← hcnu]
      exact ends_linkEnd_same hx hrli
    · rename_i hclaim
      split
      · rename_i hnot
        rw [recruitCall_ignored (by rw [hcnu]; exact hclaim) (mt hmay.mp hnot)] at hx
        exact ends_linkEnd_same hx hrli
      · rename_i hyes
        have hcall : CallTaken u w := ⟨by rw [hcnu]; exact hclaim, hmay.mpr (not_not.mp hyes)⟩
        split
        · intro before d after merged d' hcand hkey hb hmerged hd'
          have hat : CandidateAt u w.key before d after := ⟨by rw [hcnu]; exact hcand, hkey, hb⟩
          rw [hcall.known (candidateOf_at hat), hown, refreshCandidate_at hat, ← hmerged] at hx
          have hwanted : wantedAgain u w holders d = d' := by rw [hd', hmerged, wantedAgain, hms]
          rw [hwanted] at hx
          refine ⟨fun ht => ?_, fun rank delay v ht hr hd hv => ?_⟩
          · rw [if_neg ht] at hx
            rw [← hcnu]
            exact ends_linkEnd_same hx hrli
          · rw [if_pos ht] at hx
            exact ends_recruitStarted (rank := rank) (delay := delay) hx hrli ((hrank _).trans hr.symm) ((hdelay _).trans hd.symm)
              (by rw [hv, ← hcnu, ← hms]; rfl)
        · rename_i hnone
          have hno : ∀ x ∈ u.cnu.candidates, x.key ≠ w.key := fun x hx hk => hnone ⟨x, by rw [← hcnu]; exact hx, hk⟩
          rw [hcall.new (candidateOf_none hno), hown] at hx
          split
          · rename_i hfull
            rw [if_pos (by rw [hcnu]; exact hfull)] at hx
            have hevu : u.evu = s.evu := by rw [hu]
            rw [← hevu]
            exact ends_linkEnd_same hx hrli
          · rename_i hroom
            intro rank delay v hr hd hv
            rw [if_neg (by rw [hcnu]; exact hroom), addCandidate_eq hno] at hx
            exact ends_recruitStarted (rank := rank) (delay := delay) hx hrli ((hrank _).trans hr.symm) ((hdelay _).trans hd.symm)
              (by rw [hv, ← hcnu, ← hms]; rfl)

end Sys2Proof.Machine
end

section
/-! PROOFS. The completion of an entry's write: the answers, and the effects one by one. -/

namespace Sys2Proof.Machine

variable {c : Instr} {s t u v : State} {i : Nat} {e : Entry} {as bs : List Answer}

/-! ### What a step gives on the request link -/

/-- The part has given these answers since, and begun no frame. -/
structure GivesOnly (as : List Answer) (t s : State) : Prop where
  tx : t.rli.tx = s.rli.tx
  answers : t.rli.answers = s.rli.answers ++ as.map (ReadyAnswer.mk s.rli.moment)
  moment : t.rli.moment = s.rli.moment

theorem GivesOnly.same (h : t.rli = s.rli) : GivesOnly [] t s := ⟨by rw [h], by rw [h]; simp, by rw [h]⟩

theorem GivesOnly.pushed (as : List Answer) (s : State) : GivesOnly as (pushAnswers as s) s := ⟨rfl, rfl, rfl⟩

theorem GivesOnly.posted (n : Notice) (h : t.rli = s.rli) : GivesOnly [] (postNotice n t) s := by
  obtain ⟨k, hk⟩ := postNotice_eq n t
  rw [hk]
  exact ⟨by rw [h], by rw [h]; simp, by rw [h]⟩

theorem GivesOnly.trans (h : GivesOnly as t s) (g : GivesOnly bs u t) : GivesOnly (as ++ bs) u s :=
  ⟨g.tx.trans h.tx, by rw [g.answers, h.answers, h.moment]; simp, g.moment.trans h.moment⟩

theorem GivesOnly.given (h : GivesOnly as t s) (a : Answer) : Given t a ↔ Given s a ∨ a ∈ as := by
  rw [← pushAnswers_given]
  simp only [Given, h.tx, h.answers]
  rfl

/-- A command that gives answers at its effects and then these. -/
theorem ends_givesOnly {w : State} (hx : exec c s = .next (linkEnd (pushAnswers bs w))) (h : GivesOnly as w s) :
    Ends c s w (as ++ bs) := by
  have hall := h.trans (GivesOnly.pushed bs w)
  exact ends_linkEnd hx rfl rfl rfl rfl hall.tx hall.given

/-! ### The change of announce owed, and announcements (R29) -/

/-- A change that is no cause of a hit and does not move what SCS counts. -/
theorem putEntry_quiet (hc : changeCauses (entryAt s i) e = {}) (hs : storedCopy (entryAt s i).state = storedCopy e.state) :
    putEntry i e s = nowOwes i e s := by
  unfold putEntry nowOwes
  rw [hc]
  by_cases hn : s.ctc.node = .storeFault
  · rw [changeEntry_fault hn, hitOf_none, notedScs_same hs, if_pos hn]
    rfl
  · rw [changeEntry_eq hn, hitOf_none, notedScs_same hs, if_neg hn]

theorem putEntry_owed (o : Owed) : putEntry i { entryAt s i with owed := o } s = nowOwes i { entryAt s i with owed := o } s :=
  putEntry_quiet (by simp [changeCauses]) rfl

theorem setOwed_same {o : Owed} (h : (entryAt s i).owed = o) : setOwed i o s = s := if_pos (.inl h)

theorem setOwed_changed {o : Owed} (h : (entryAt s i).owed ≠ o) (hf : (entryAt s i).state ≠ .free) :
    setOwed i o s = nowOwes i { entryAt s i with owed := o } s :=
  (if_neg (not_or.mpr ⟨h, hf⟩)).trans (putEntry_owed o)

/-- The Send Queue with the earlier announcements of an entry superseded. -/
def superseded (i : Nat) (s : State) : List SendItem := (supersede i s).pbc.sendQueue

theorem length_superseded (i : Nat) (s : State) : (superseded i s).length = s.pbc.sendQueue.length := List.length_map _

/-- The part with this Send Queue. -/
def withQueue (s : State) (q : List SendItem) : State := { s with pbc := { s.pbc with sendQueue := q } }

theorem supersede_eq (i : Nat) (s : State) : supersede i s = withQueue s (superseded i s) := rfl

theorem canOffer_superseded (i : Nat) (s : State) : canOffer (withQueue s (superseded i s)) = canOffer s := by
  rw [Bool.eq_iff_iff, canOffer_iff, canOffer_iff]
  exact and_congr Iff.rfl (and_congr (by rw [← length_superseded i s]; rfl) Iff.rfl)

theorem heldBack_iff (s : State) (key : ShortKey) : heldBack s key = false ↔
    ∀ p ∈ s.ctc.work, (s.ctc.loadStopped = true → p.1 < s.ctc.loaded) → p.2.state = .free → p.2.owed = .dropFrame →
      p.2.shortKey ≠ key := by
  have hmem (p : Nat × Entry) : p ∈ readableCat s ↔ p ∈ s.ctc.work ∧ (s.ctc.loadStopped = true → p.1 < s.ctc.loaded) := by
    unfold readableCat
    split <;> simp_all
  unfold heldBack
  rw [List.any_eq_false]
  simp only [hmem, Entry.owedFree, Bool.and_eq_true, decide_eq_true_eq, not_and, and_imp]

theorem announceHave_taken (h : canOffer s = true ∧ heldBack s (entryAt s i).shortKey = false) : announceHave i s =
    setOwed i .nothing (withQueue s (insertSend
      { content := .frame (haveOf (entryAt s i)), producer := .announcement i false } (superseded i s))) := by
  unfold announceHave
  dsimp only
  rw [supersede_eq, canOffer_superseded]
  refine if_pos ?_
  rw [Bool.and_eq_true, Bool.not_eq_true']
  exact h

theorem announceHave_owed (h : ¬ (canOffer s = true ∧ heldBack s (entryAt s i).shortKey = false)) : announceHave i s =
    setOwed i .haveFrame (withQueue s (superseded i s)) := by
  unfold announceHave
  dsimp only
  rw [supersede_eq, canOffer_superseded]
  refine if_neg ?_
  rw [Bool.and_eq_true, Bool.not_eq_true']
  exact h

theorem announceDamaged_taken (h : canOffer s = true) : announceDamaged i s =
    setOwed i .nothing (withQueue s (insertSend
      { content := .frame (.drop (entryAt s i).shortKey .damaged), producer := .announcement i false } (superseded i s))) := by
  unfold announceDamaged
  dsimp only
  rw [supersede_eq, canOffer_superseded, if_pos h]
  rfl

theorem announceDamaged_owed (h : ¬ canOffer s = true) : announceDamaged i s =
    setOwed i .dropFrame (withQueue s (superseded i s)) := by
  unfold announceDamaged
  dsimp only
  rw [supersede_eq, canOffer_superseded, if_neg h]

/-! ### The freeing of an entry (R28) -/

/-- The part once a freed entry's runs, appeal and count of ERASEs are gone. -/
def clearedOf (i : Nat) (s : State) : State := removeAppeal i (clearErases i (removeRuns i s))

theorem returnIndex_cleared (h : entryAt s i = {}) : returnIndex i s =
    { s with ctc := { s.ctc with freeList := insertIndex i s.ctc.freeList } } := by
  unfold returnIndex
  rw [h]
  rfl

theorem putEntry_oweDrop (h : entryAt s i = {}) (key : ShortKey) : putEntry i { shortKey := key, owed := .dropFrame } s =
    nowOwes i { shortKey := key, owed := .dropFrame } s :=
  putEntry_quiet (by rw [h]; rfl) (by rw [h])

theorem oweDrop_cleared (h : entryAt s i = {}) (key : ShortKey) : oweDrop i key s = nowOwes i
    { shortKey := key, owed := .dropFrame } { s with ctc := { s.ctc with freeList := s.ctc.freeList.erase i } } :=
  putEntry_oweDrop (s := { s with ctc := { s.ctc with freeList := s.ctc.freeList.erase i } }) h key

theorem announceDisposed_taken (h : canOffer s = true) (hf : entryAt s i = {}) (key : ShortKey) : announceDisposed i key s =
    withQueue { s with ctc := { s.ctc with freeList := insertIndex i s.ctc.freeList } } (insertSend
      { content := .frame (.drop key .disposed), producer := .announcement i false } (superseded i s)) := by
  unfold announceDisposed
  dsimp only
  rw [supersede_eq, canOffer_superseded, if_pos h]
  exact returnIndex_cleared (by exact hf)

theorem announceDisposed_owed (h : ¬ canOffer s = true) (hf : entryAt s i = {}) (key : ShortKey) : announceDisposed i key s =
    nowOwes i { shortKey := key, owed := .dropFrame }
      (withQueue { s with ctc := { s.ctc with freeList := s.ctc.freeList.erase i } } (superseded i s)) := by
  unfold announceDisposed
  dsimp only
  rw [supersede_eq, canOffer_superseded, if_neg h]
  exact oweDrop_cleared (by exact hf) key

/-! ### Runs of a refill (R24, R143) -/

theorem foldl_erase_perm {α β : Type} [DecidableEq β] (f : α → β) (l : List α) {rs others : List β}
    (h : rs.Perm (l.map f ++ others)) : (l.foldl (fun rs x => rs.erase (f x)) rs).Perm others := by
  induction l generalizing rs with
  | nil => exact h
  | cons x l ih =>
    refine ih ?_
    have he := h.erase (f x)
    rwa [List.map_cons, List.cons_append, List.erase_cons_head] at he

theorem updateFirst_perm {α : Type} [DecidableEq α] (g : α → α) {p : α} {l : List α} (h : p ∈ l) :
    (updateFirst (fun r => decide (r = p)) g l).Perm (g p :: l.erase p) := by
  induction l with
  | nil => exact absurd h List.not_mem_nil
  | cons x l ih =>
    by_cases hx : x = p
    · subst hx
      rw [updateFirst, if_pos (decide_eq_true rfl), List.erase_cons_head]
    · rw [updateFirst, if_neg (by simpa using hx), List.erase_cons_tail (by simpa using hx)]
      exact ((ih ((List.mem_cons.mp h).resolve_left (Ne.symm hx))).cons x).trans (List.Perm.swap _ _ _)

theorem foldl_updateFirst_perm {α β : Type} [DecidableEq β] (f f' : α → β) (g : β → β) (hg : ∀ x, g (f x) = f' x)
    (l : List α) {rs others : List β} (h : rs.Perm (l.map f ++ others)) :
    (l.foldl (fun rs x => updateFirst (fun r => decide (r = f x)) g rs) rs).Perm (l.map f' ++ others) := by
  induction l generalizing rs others with
  | nil => exact h
  | cons x l ih =>
    have hmem : f x ∈ rs := h.mem_iff.mpr (by simp)
    have herase := h.erase (f x)
    rw [List.map_cons, List.cons_append, List.erase_cons_head] at herase
    have hstep := (updateFirst_perm g hmem).trans ((herase.cons (g (f x))).trans List.perm_middle.symm)
    refine (ih hstep).trans ?_
    rw [hg, List.map_cons, List.cons_append]
    exact List.perm_middle

end Sys2Proof.Machine
end

section
/-! PROOFS. What the completion of an entry's write answers, and what each effect does. -/

namespace Sys2Proof.Machine

variable {c : Instr} {s t u v : State} {i : Nat} {e : Entry}

/-! ### The answers of a completed write -/

theorem putEntry_rli (i : Nat) (e : Entry) (s : State) : (putEntry i e s).rli = s.rli := changeEntry_rli _ _ _ _ _

theorem setOwed_rli (i : Nat) (o : Owed) (s : State) : (setOwed i o s).rli = s.rli := by
  unfold setOwed
  dsimp only
  split
  · rfl
  · exact putEntry_rli _ _ _

theorem announceHave_rli (i : Nat) (s : State) : (announceHave i s).rli = s.rli := by
  by_cases h : canOffer s = true ∧ heldBack s (entryAt s i).shortKey = false
  · rw [announceHave_taken h, setOwed_rli]
    rfl
  · rw [announceHave_owed h, setOwed_rli]
    rfl

theorem announceDamaged_rli (i : Nat) (s : State) : (announceDamaged i s).rli = s.rli := by
  by_cases h : canOffer s = true
  · rw [announceDamaged_taken h, setOwed_rli]
    rfl
  · rw [announceDamaged_owed h, setOwed_rli]
    rfl

theorem announceDisposed_rli (i : Nat) (key : ShortKey) (s : State) : (announceDisposed i key s).rli = s.rli := by
  unfold announceDisposed
  dsimp only
  split
  · rw [returnIndex_rli]
    rfl
  · exact putEntry_rli _ _ _

theorem freed_rli (i : Nat) (key : ShortKey) (drop : Bool) (s : State) : (freed i key drop s).rli = s.rli := by
  unfold freed
  dsimp only
  split
  · rw [announceDisposed_rli]
    rfl
  · rw [returnIndex_rli]
    rfl

theorem handedToCnu_rli (i : Nat) (e : Entry) (s : State) : (handedToCnu i e s).rli = s.rli := by
  unfold handedToCnu
  dsimp only
  split
  · split
    · rfl
    · split
      · rfl
      · split <;> rfl
  · rfl

theorem testedByCnu_rli (i : Nat) (e : Entry) (s : State) : (testedByCnu i e s).rli = s.rli := by
  unfold testedByCnu
  split <;> rfl

theorem offerRepair_rli (i : Nat) (s : State) : (offerRepair i s).rli = s.rli := by
  unfold offerRepair keepRepair
  split
  · split
    · rfl
    · split <;> rfl
  · rfl

theorem releaseGranted_rli (s : State) : (releaseGranted s).rli = s.rli := by
  unfold releaseGranted
  split <;> rfl

theorem moveOn_eq (i : Nat) (s : State) : moveOn i s =
    { s with rwk := { s.rwk with walk := s.rwk.walk.map fun w => { w with next := i + 1, visiting := none } } } := by
  unfold moveOn
  split
  · rename_i w hw
    rw [hw]
    rfl
  · rename_i hw
    rw [hw, Option.map_none, ← hw]

/-- An effect gives its answer and no other, and begins no frame. -/
theorem runEffect_gives (i : Nat) (e : Entry) (s : State) (f : Effect) :
    GivesOnly (effectAnswer f).toList (runEffect i e s f) s := by
  cases f with
  | answer r o res => exact GivesOnly.pushed _ _
  | announceHave => exact .same (announceHave_rli i s)
  | announceDamaged => exact .same (announceDamaged_rli i s)
  | census =>
    refine .same ?_
    show (offerAppeal i s).rli = _
    rw [offerAppeal_eq rfl, handedToCnu_rli]
  | recheck =>
    refine .same ?_
    show (recheckAppeal i s).rli = _
    rw [recheckAppeal_eq rfl, handedToCnu_rli, testedByCnu_rli]
  | queueVerify refill before req => exact .same rfl
  | releasableNotice =>
    obtain ⟨h1, h2, h3⟩ := GivesOnly.posted (t := s) (s := s) (.releasable i (entryAt s i).shortKey) rfl
    exact ⟨h1, h2, h3⟩
  | damagedNotices =>
    have h := (GivesOnly.posted (t := raise .damaged s) (s := s) (.damaged i (entryAt s i).shortKey) rfl).trans
      (GivesOnly.posted (.fetchRefill i (entryAt s i).shortKey (entryAt s i).lodgeTime (entryAt s i).cls (entryAt s i).cust
        (extentsSize (entryAt s i).extents) (entryAt s i).holders) rfl)
    exact h
  | queueErases order =>
    refine .same ?_
    show (if stillDisposing s i then queueErases i e.extents order s else s).rli = _
    split <;> rfl
  | releaseErase => exact .same (releaseGranted_rli s)
  | freed key drop => exact .same (freed_rli i key drop s)
  | refillTaken old new => exact .same rfl
  | refillDropped es => exact .same rfl
  | repairHave => exact .same (offerRepair_rli i s)
  | visitDone =>
    refine .same ?_
    show (moveOn i s).rli = _
    rw [moveOn_eq]

theorem runEffects_gives (i : Nat) (e : Entry) (fs : List Effect) (s : State) :
    GivesOnly (fs.filterMap effectAnswer) (runEffects i e fs s) s := by
  induction fs generalizing s with
  | nil => exact .same rfl
  | cons f fs ih =>
    have h := (runEffect_gives i e s f).trans (ih (runEffect i e s f))
    have happ : (effectAnswer f).toList ++ fs.filterMap effectAnswer = (f :: fs).filterMap effectAnswer := by
      rw [List.filterMap_cons]
      cases effectAnswer f <;> rfl
    rw [happ] at h
    exact h

theorem answerLookup_eq (i : Nat) (e : Entry) (s : State) (w : LookupWait) :
    answerLookup i e s w = pushAnswers [lookupReply i e w] s := by
  unfold answerLookup lookupReply lookupEntry
  cases w.byKey with
  | none => rfl
  | some key =>
    dsimp only
    have hc : (e.occupied && decide (e.shortKey = key)) = true ↔ e.state ≠ .free ∧ e.shortKey = key := by
      rw [Bool.and_eq_true, Entry.occupied, decide_eq_true_iff, decide_eq_true_iff]
    by_cases h : e.state ≠ .free ∧ e.shortKey = key
    · rw [if_pos (hc.mpr h), if_pos h, if_neg h.1, answerReq_eq]
    · rw [if_neg (mt hc.mp h), if_neg h, answerReq_eq]

theorem foldl_answerLookup (i : Nat) (e : Entry) (ws : List LookupWait) (s : State) :
    ws.foldl (answerLookup i e) s = pushAnswers (ws.map (lookupReply i e)) s := by
  induction ws generalizing s with
  | nil => exact (pushAnswers_nil s).symm
  | cons w ws ih =>
    rw [List.foldl_cons, answerLookup_eq, ih, List.map_cons, pushAnswers_cons, pushAnswers_cons, pushAnswers_nil]

/-! ### The watch log (R191) -/

theorem recordHit_other {h : Hit} (hk : s.sli.watchKey ≠ some h.key) : recordHit (some h) s = s := if_neg hk

theorem recordHit_watched {h : Hit} {log : List WatchRec} (hk : s.sli.watchKey = some h.key)
    (hl : log = s.sli.watchLog ∧ log.length < 8 ∨ ∃ oldest, s.sli.watchLog = oldest :: log ∧ log.length = 7) :
    recordHit (some h) s = { s with
      sli := { s.sli with watchLog := log ++ [⟨s.rck.rt, s.rck.rtValid, h⟩] }
      evu := { s.evu with flags := s.evu.flags ||| 0x000020 } } := by
  refine (if_pos hk).trans ?_
  have hlog (x : WatchRec) : (s.sli.watchLog ++ [x]).drop ((s.sli.watchLog ++ [x]).length - 8) = log ++ [x] := by
    obtain ⟨rfl, hlen⟩ | ⟨oldest, ho, hlen⟩ := hl
    · rw [List.length_append, List.length_singleton, Nat.sub_eq_zero_of_le (by omega), List.drop_zero]
    · rw [ho, List.length_append, List.length_cons, hlen]
      rfl
  dsimp only
  rw [hlog]
  rfl

/-! ### The effects -/

theorem stillDisposing_iff (s : State) (i : Nat) : stillDisposing s i = true ↔
    (entryAt s i).state = .disposing ∧ ∀ w ∈ s.ctc.writes, w.index = i → w.entry.state = .disposing := by
  unfold stillDisposing
  rw [Bool.and_eq_true, decide_eq_true_iff, List.all_eq_true]
  refine and_congr Iff.rfl (forall₂_congr fun w _ => ?_)
  rw [Bool.or_eq_true, decide_eq_true_iff, decide_eq_true_iff]
  exact Decidable.imp_iff_not_or.symm

theorem postNotice_notices (n : Notice) (h : s.rli.notices.length ≤ 32) :
    (postNotice n s).rli.notices = (s.rli.notices ++ [n]).take 32 := by
  obtain ⟨k, hk⟩ := postNotice_eq n s
  rw [hk]
  dsimp only
  split
  · rw [List.take_of_length_le (by rw [List.length_append, List.length_singleton]; omega)]
  · rw [List.take_append_of_le_length (by omega), List.take_of_length_le h]

theorem postNotice_only (n : Notice) (s : State) :
    { (postNotice n s).rli with notices := s.rli.notices, noticeStamp := s.rli.noticeStamp } = s.rli ∧
      { postNotice n s with rli := s.rli } = s := by
  obtain ⟨k, hk⟩ := postNotice_eq n s
  rw [hk]
  exact ⟨rfl, rfl⟩

theorem postTwo_notices (n m : Notice) (h : s.rli.notices.length ≤ 32) :
    (postNotice m (postNotice n s)).rli.notices = (s.rli.notices ++ [n, m]).take 32 := by
  have hn := postNotice_notices n h
  rw [postNotice_notices m (by rw [hn]; exact List.length_take_le ..), hn]
  by_cases hl : s.rli.notices.length < 32
  · rw [List.take_of_length_le (l := s.rli.notices ++ [n]) (by rw [List.length_append, List.length_singleton]; omega),
      List.append_assoc]
    rfl
  · rw [List.take_append_of_le_length (l₁ := s.rli.notices) (by omega), List.take_of_length_le h,
      List.take_append_of_le_length (by omega), List.take_append_of_le_length (by omega)]

theorem GivesOnly.congr {as : List Answer} (h : GivesOnly as t s) (ht : u.rli = t.rli) (hs : v.rli = s.rli) :
    GivesOnly as u v := ⟨by rw [ht, hs]; exact h.tx, by rw [ht, hs]; exact h.answers, by rw [ht, hs]; exact h.moment⟩

theorem setOwed_both {o : Owed} {x : State} (hx : x.ctc = s.ctc) (hf : (entryAt s i).state ≠ .free) :
    ((entryAt s i).owed = o → setOwed i o x = x) ∧
    ((entryAt s i).owed ≠ o → setOwed i o x = { x with ctc := { s.ctc with
      work := catSet s.ctc.work i { entryAt s i with owed := o }
      writes := if s.ctc.node = .storeFault then s.ctc.writes
        else s.ctc.writes ++ [{ index := i, entry := { entryAt s i with owed := o } }] } }) := by
  have he : entryAt x i = entryAt s i := by rw [entryAt, entryAt, hx]
  rw [← he] at hf
  rw [← he, ← hx]
  exact ⟨setOwed_same, fun h => setOwed_changed h hf⟩

/-- The oldest outstanding write of an index. -/
theorem find_oldest {before after : List EntryWrite} {w : EntryWrite} (hws : s.ctc.writes = before ++ w :: after)
    (hw : w.index = i) (hb : ∀ x ∈ before, x.index ≠ i) :
    (s.ctc.writes.find? fun w => decide (w.index = i)) = some w := by
  rw [hws, List.find?_append, List.find?_eq_none.mpr fun x hx => by simpa using hb x hx,
    List.find?_cons_of_pos (by simpa using hw)]
  rfl

theorem completeEntry_eq {before after : List EntryWrite} {w : EntryWrite} (hws : s.ctc.writes = before ++ w :: after)
    (hb : ∀ x ∈ before, x.index ≠ w.index) : completeEntry w s =
      pushAnswers (w.lookups.map (lookupReply w.index w.entry)) (runEffects w.index w.entry w.effects (recordHit w.hit { s with
        ctc := { s.ctc with writes := before ++ after }
        store := { s.store with
          entries := catSet s.store.entries w.index w.entry
          highWater := max s.store.highWater (w.highWater.getD 0) } })) := by
  have hnot : w ∉ before := fun hmem => hb w hmem rfl
  unfold completeEntry
  dsimp only
  rw [foldl_answerLookup, hws, List.erase_append_right _ hnot, List.erase_cons_head]
  rfl

/-- Settles O43. -/
theorem entryWritesComplete : Obligations.EntryWritesComplete := by
  unfold Obligations.EntryWritesComplete
  refine ⟨fun s => ⟨rfl, fun hit => ⟨recordHit_other, fun log flags hk hf hl => by rw [hf]; exact recordHit_watched hk hl⟩⟩,
    fun index s hp => ⟨fun hno => ?_, fun before w after u hws hw hb hu => ?_⟩, ?_⟩
  · have hx : exec (.entryWriteComplete index) s = _ := (powered_on hp _ : execEntryWriteComplete index s = _)
    rw [hx, List.find?_eq_none.mpr fun w hw => by simpa using hno w hw]
  · have hx : exec (.entryWriteComplete index) s = _ := (powered_on hp _ : execEntryWriteComplete index s = _)
    rw [find_oldest hws hw hb] at hx
    have hcomplete := completeEntry_eq hws (by rw [hw]; exact hb)
    rw [hw] at hcomplete
    dsimp only at hx
    rw [hcomplete, ← hu, mediaTail_pushAnswers] at hx
    have hrli : u.rli = s.rli := by rw [hu, recordHit_rli]
    exact ends_givesOnly hx ((runEffects_gives _ _ _ u).congr (mediaTail_rli _) hrli.symm)
  intro i written s ran hran e he
  simp only [hran]
  subst he
  refine ⟨fun r o res => ⟨rfl, rfl⟩, fun refill k req => rfl, fun order before after hes hb ha => ⟨fun h => ?_, fun h => ?_⟩,
    fun hg => ?_, fun x hg => ?_, fun old new others hperm => ⟨rfl, ?_⟩, fun es others hperm => ⟨rfl, foldl_erase_perm _ _ hperm⟩,
    ?_, offerAppeal_eq rfl, recheckAppeal_eq rfl, offerRepair_other, fun hs ho => offerRepair_sent hs ho rfl, offerRepair_kept,
    ?_, moveOn_eq i s⟩
  · refine (if_pos ((stillDisposing_iff s i).mpr h)).trans ?_
    unfold queueErases
    rw [hes, insertErases_append _ hb ha]
  · refine if_neg fun hs => ?_
    obtain ⟨h1, h2⟩ := (stillDisposing_iff s i).mp hs
    obtain h | ⟨w, hw, hwi, h⟩ := h
    · exact h h1
    · exact h (h2 w hw hwi)
  · show releaseGranted s = s
    unfold releaseGranted
    rw [hg]
  · show releaseGranted s = _
    unfold releaseGranted
    rw [hg]
    rfl
  · have hentry := foldl_erase_perm (fun y : Extent => Run.mk y.first y.count i .entry) old (rs := s.exg.runs)
      (by rw [← List.append_assoc]; exact hperm)
    exact foldl_updateFirst_perm (fun y : Extent => Run.mk y.first y.count i .refill)
      (fun y : Extent => Run.mk y.first y.count i .entry) (fun r => { r with role := .entry }) (fun _ => rfl) new hentry
  · intro queue hqueue
    have hq : queue = superseded i s := by
      rw [hqueue]
      rfl
    refine ⟨fun effect frame taken owed x hfree hcases hx => ?_, fun key drop x hempty hx => ⟨fun hd => ?_, fun hd ho => ?_,
      fun hd ho => ?_⟩⟩
    · have hxctc : x.ctc = s.ctc := by rw [hx]
      have hran : runEffect i written s effect = setOwed i owed x := by
        rw [hx, hq]
        obtain ⟨rfl, rfl, rfl, htaken⟩ | ⟨rfl, rfl, rfl, htaken⟩ := hcases
        · rw [← heldBack_iff] at htaken
          cases taken with
          | true => exact announceHave_taken (htaken.mp rfl)
          | false => exact announceHave_owed (mt htaken.mpr (by decide))
        · cases taken with
          | true => exact announceDamaged_taken htaken.symm
          | false => exact announceDamaged_owed (by rw [← htaken]; decide)
      rw [hran]
      exact setOwed_both hxctc hfree
    · subst hd
      have hcleared : freed i key false s = returnIndex i (clearedOf i s) := rfl
      rw [hx]
      exact hcleared.trans (returnIndex_cleared hempty)
    · subst hd
      have hcleared : freed i key true s = announceDisposed i key (clearedOf i s) := rfl
      rw [hx, hq]
      exact hcleared.trans (announceDisposed_taken (s := clearedOf i s) ho hempty key)
    · subst hd
      have hcleared : freed i key true s = announceDisposed i key (clearedOf i s) := rfl
      rw [hx, hq]
      exact hcleared.trans (announceDisposed_owed (s := clearedOf i s) (by rw [Bool.not_eq_true]; exact ho) hempty key)
  · intro effect flags notices hlen hcases
    simp only [Prod.mk.injEq] at hcases
    obtain ⟨rfl, rfl, rfl⟩ | ⟨rfl, rfl, rfl⟩ := hcases
    · obtain ⟨hrest, honly⟩ := postNotice_only (.releasable i (entryAt s i).shortKey) s
      refine ⟨postNotice_notices _ hlen, hrest, ?_⟩
      obtain ⟨k, hk⟩ := postNotice_eq (.releasable i (entryAt s i).shortKey) s
      show { postReleasable i s with rli := s.rli } = _
      unfold postReleasable
      rw [hk]
      rfl
    · obtain ⟨k, hk⟩ := postNotice_eq (.damaged i (entryAt s i).shortKey) (raise .damaged s)
      obtain ⟨k', hk'⟩ := postNotice_eq (.fetchRefill i (entryAt s i).shortKey (entryAt s i).lodgeTime (entryAt s i).cls
        (entryAt s i).cust (extentsSize (entryAt s i).extents) (entryAt s i).holders)
        (postNotice (.damaged i (entryAt s i).shortKey) (raise .damaged s))
      refine ⟨postTwo_notices (s := raise .damaged s) _ _ hlen, ?_, ?_⟩
      · show { (postDamaged i s).rli with notices := s.rli.notices, noticeStamp := s.rli.noticeStamp } = _
        unfold postDamaged
        dsimp only
        rw [hk', hk]
        rfl
      · show { postDamaged i s with rli := s.rli } = _
        unfold postDamaged
        dsimp only
        rw [hk', hk]
        rfl

end Sys2Proof.Machine
end

section
/-! PROOFS. What the grants of the media port leave, and the visits of the load walk. -/

namespace Sys2Proof.Machine

variable {c : Instr} {s t u v : State} {i : Nat} {e : Entry}

/-! ### What a grant leaves (R150) -/

/-- What a grant of the media port leaves of the part. -/
structure GrantOnly (t s : State) : Prop where
  media : MediaOnly t s
  rwk : t.rwk = s.rwk
  node : t.ctc.node = s.ctc.node
  late : t.ctc.holdLateKey = s.ctc.holdLateKey
  tick : t.scs.tickTimer = s.scs.tickTimer
  writes : ∀ w ∈ s.ctc.writes, w ∈ t.ctc.writes
  erases : ∀ y ∈ t.mar.erases, y ∈ s.mar.erases
  entries : catWf s.ctc.work = true → ∀ j, ∃ begun, entryAt t j = { entryAt s j with eraseBegun := begun } ∧
    (begun = (entryAt s j).eraseBegun ∨ begun = true)

theorem GrantOnly.refl (s : State) : GrantOnly s s :=
  ⟨rfl, rfl, rfl, rfl, rfl, fun _ h => h, fun _ h => h, fun _ _ => ⟨_, rfl, .inl rfl⟩⟩

theorem grantOnly_scrub (i : Nat) (s : State) : GrantOnly (grantScrub i s) s :=
  ⟨rfl, rfl, rfl, rfl, rfl, fun _ h => h, fun _ h => h, fun _ _ => ⟨_, rfl, .inl rfl⟩⟩

theorem grantOnly_verify (w : VerifyWork) (s : State) : GrantOnly (grantVerify w s) s :=
  ⟨rfl, rfl, rfl, rfl, rfl, fun _ h => h, fun _ h => h, fun _ _ => ⟨_, rfl, .inl rfl⟩⟩

theorem grantOnly_host (d : HostCmd) (rest : List HostCmd) (s : State) : GrantOnly (grantHost d rest s) s :=
  ⟨rfl, rfl, rfl, rfl, rfl, fun _ h => h, fun _ h => h, fun _ _ => ⟨_, rfl, .inl rfl⟩⟩

theorem grantOnly_erase {w : EraseWork} {rest : List EraseWork} (h : s.mar.erases = w :: rest) (hn : s.ctc.node ≠ .storeFault) :
    GrantOnly (grantErase w rest s) s := by
  have hrest : ∀ y ∈ rest, y ∈ s.mar.erases := fun y hy => by rw [h]; exact List.mem_cons_of_mem _ hy
  cases hb : (entryAt s w.index).eraseBegun with
  | true =>
    rw [grantErase_begun rest hb]
    exact ⟨rfl, rfl, rfl, rfl, rfl, fun _ h => h, hrest, fun _ _ => ⟨_, rfl, .inl rfl⟩⟩
  | false =>
    rw [grantErase_waits rest hb hn]
    refine ⟨rfl, rfl, rfl, rfl, rfl, fun _ h => List.mem_append_left _ h, hrest, fun wf j => ?_⟩
    by_cases hj : j = w.index
    · subst hj
      exact ⟨true, catGet_catSet_self _ _ wf, .inr rfl⟩
    · exact ⟨_, catGet_catSet_ne _ hj, .inl rfl⟩

theorem grantOnly_lateScrub (s : State) : GrantOnly (grantLateScrub s) s := by
  unfold grantLateScrub
  split
  · split
    · exact grantOnly_scrub _ _
    · exact .refl s
  · exact .refl s

theorem grantOnly_fromErase (s : State) : GrantOnly (grantFromErase s) s := by
  unfold grantFromErase
  split
  · rename_i w rest hw
    split
    · rename_i hr
      exact grantOnly_erase hw (by simpa [eraseReady] using fun h => (by simp [eraseReady, h] at hr))
    · exact grantOnly_lateScrub s
  · exact grantOnly_lateScrub s

theorem grantOnly_fromVerify (s : State) : GrantOnly (grantFromVerify s) s := by
  unfold grantFromVerify grantFromHost
  split
  · exact grantOnly_verify _ _
  · split
    · exact grantOnly_host _ _ _
    · exact grantOnly_fromErase s

theorem grantOnly_port (s : State) : GrantOnly (grantPort s) s := by
  unfold grantPort
  split
  · split
    · split
      · exact grantOnly_scrub _ _
      · exact grantOnly_fromVerify s
    · exact grantOnly_fromVerify s
  · exact .refl s

theorem offerScrub_eq (s : State) : ∃ r, offerScrub s = { s with scs := { s.scs with request := r } } := by
  unfold offerScrub
  split
  · split
    · exact ⟨s.scs.request, rfl⟩
    · exact ⟨_, rfl⟩
  · exact ⟨_, rfl⟩

/-- What follows the walk's progress in a command's media tail. -/
theorem grantOnly_offered (s : State) : GrantOnly (grantPort (offerScrub s)) s := by
  obtain ⟨r, hr⟩ := offerScrub_eq s
  rw [hr]
  obtain ⟨h1, h2, h3, h4, h5, h6, h7, h8⟩ := grantOnly_port { s with scs := { s.scs with request := r } }
  exact ⟨h1.trans rfl, h2, h3, h4, h5, h6, h7, h8⟩

/-! ### The load visit (R80) -/

theorem loadVisit_idle (h : ∀ i, s.rwk.walk ≠ some ⟨.load, i, none⟩) : loadVisit s = s := by
  unfold loadVisit
  split
  · rename_i i hw
    exact absurd hw (h i)
  · rfl

/-- The part as a load visit begins. -/
def visitBegun (i : Nat) (s : State) : State := { s with ctc := { s.ctc with loaded := i + 1 } }

theorem loadVisit_at (hw : s.rwk.walk = some ⟨.load, i, none⟩) (hi : i < 131072) : loadVisit s =
    if (entryAt s i).state = .free then loadFree i (entryAt s i) (visitBegun i s)
    else loadOccupied i (entryAt s i) (visitBegun i s) := by
  unfold loadVisit
  rw [hw]
  exact if_pos hi

theorem loadVisit_ends (hp : Powered s) (hv : loadVisit s = u) (hr : u.rli = s.rli) : Ends .loadVisit s (mediaTail u) [] := by
  have hx : exec .loadVisit s = .next (linkEnd (mediaTail (loadVisit s))) := (powered_on hp _ : execLoadVisit s = _)
  rw [hv] at hx
  exact ends_tail_silent hx hr

/-- The walk moved on from the visit of an index. -/
def movedOn (i : Nat) (s : State) : State := { s with rwk := { s.rwk with walk := some ⟨.load, i + 1, none⟩ } }

theorem closeVisit_same {n : Nat} {vis : Option Nat} (hw : s.rwk.walk = some ⟨.load, n, vis⟩) (he : e = entryAt s i) :
    closeVisit i e [] s = movedOn i s := by
  refine (if_pos he).trans ?_
  show moveOn i s = _
  rw [moveOn_eq, hw]
  rfl

theorem closeVisit_changed (hn : s.ctc.node ≠ .storeFault) {n : Nat} {vis : Option Nat}
    (hw : s.rwk.walk = some ⟨.load, n, vis⟩) (he : e ≠ entryAt s i) : closeVisit i e [] s =
      changeEntry i e (changeCauses (entryAt s i) e) [.visitDone]
        { s with rwk := { s.rwk with walk := some ⟨.load, i, some i⟩ } } := by
  refine (if_neg he).trans ?_
  have hbegin : beginVisit i s = { s with rwk := { s.rwk with walk := some ⟨.load, i, some i⟩ } } := by
    unfold beginVisit
    rw [hw]
    rfl
  rw [hbegin, commit_eq (by exact hn)]
  rfl

theorem returnIndex_eq (hs : (entryAt s i).state = .free) (ho : (entryAt s i).owed ≠ .dropFrame) : returnIndex i s =
    { s with ctc := { s.ctc with freeList := insertIndex i s.ctc.freeList } } := by
  refine if_neg ?_
  simp [Entry.occupied, Entry.owedFree, hs, ho]

theorem loadFree_clear (he : e = entryAt s i) {n : Nat} (hw : s.rwk.walk = some ⟨.load, n, none⟩) (hs : e.state = .free)
    (ho : e.owed ≠ .dropFrame) : loadFree i e s =
      movedOn i { s with ctc := { s.ctc with freeList := insertIndex i s.ctc.freeList } } := by
  subst he
  refine (if_neg ho).trans ?_
  rw [returnIndex_eq hs ho]
  exact closeVisit_same (by exact hw) rfl

theorem loadFree_owes (he : e = entryAt s i) {n : Nat} (hw : s.rwk.walk = some ⟨.load, n, none⟩)
    (ho : e.owed = .dropFrame) (hoff : canOffer s = false) : loadFree i e s = movedOn i s := by
  refine (if_pos ho).trans ((if_neg (by rw [hoff]; decide)).trans ?_)
  exact closeVisit_same hw he

theorem loadFree_taken (he : e = entryAt s i) {n : Nat} (hw : s.rwk.walk = some ⟨.load, n, none⟩) (hs : e.state = .free)
    (ho : e.owed = .dropFrame) (hoff : canOffer s = true) (hn : s.ctc.node ≠ .storeFault) (wf : catWf s.ctc.work = true) :
    loadFree i e s = { s with
      rwk := { s.rwk with walk := some ⟨.load, i, some i⟩ }
      ctc := { s.ctc with
        work := catSet s.ctc.work i {}
        writes := s.ctc.writes ++ [{ index := i, entry := {}, effects := [.visitDone] }]
        freeList := insertIndex i s.ctc.freeList }
      pbc := { s.pbc with sendQueue := (insertSend
        { content := .frame (.drop e.shortKey .disposed), producer := .announcement i false } s.pbc.sendQueue) } } := by
  subst he
  have hframe : owedFrame (entryAt s i) = .drop (entryAt s i).shortKey .disposed := by
    unfold owedFrame
    rw [ho, hs]
    rfl
  have hne : freeEntry ≠ entryAt s i := fun h => by
    rw [← h] at ho
    exact absurd ho (by decide)
  have hcauses : changeCauses (entryAt s i) freeEntry = {} := by simp [changeCauses, hs, freeEntry]
  unfold loadFree
  rw [if_pos ho, if_pos hoff, hframe, closeVisit_changed (by exact hn) (by exact hw) (by exact hne)]
  show returnIndex i (changeEntry i freeEntry (changeCauses (entryAt s i) freeEntry) _ _) = _
  rw [hcauses, changeEntry_eq (by exact hn), hitOf_none, notedScs_same (by show storedCopy (entryAt s i).state = _; rw [hs]; rfl)]
  exact returnIndex_cleared (catGet_catSet_self i freeEntry wf)

end Sys2Proof.Machine
end

section
/-! PROOFS. The load visit of an occupied entry, and the end of the load walk. -/

namespace Sys2Proof.Machine

variable {c : Instr} {s t u v : State} {i : Nat} {e : Entry}

/-! ### What the load visit leaves of an entry (R30, R76, R80) -/

theorem raisedExpiry_live (hn : s.ctc.node ≠ .storeFault) (e : Entry) :
    raisedExpiry s e = max e.expiry (expiryOf e.lodgeTime (periodInForce s e.cls)) := if_neg hn

theorem raisedExpiry_kept (h : expiryOf e.lodgeTime (periodInForce s e.cls) ≤ e.expiry) : raisedExpiry s e = e.expiry := by
  unfold raisedExpiry
  split
  · rfl
  · exact max_eq_left h

theorem loadedEntry_retained (hs : e.state = .retained) (h : expiryOf e.lodgeTime (periodInForce s e.cls) ≤ e.expiry) :
    loadedEntry s e = e := by
  unfold loadedEntry
  dsimp only
  rw [raisedExpiry_kept h]
  cases e
  dsimp only at hs
  subst hs
  rfl

theorem loadedEntry_live (hn : s.ctc.node ≠ .storeFault) {n expiry : Nat} {st : EntryState}
    (hcount : n = if e.state = .disposing then holdsOn s e.cust else e.holdCount)
    (hexpiry : expiry = max e.expiry (expiryOf e.lodgeTime (periodInForce s e.cls)))
    (hst : st = if e.state = .releasable ∧ s.rck.rf < expiry ∨ e.state = .disposing ∧ 0 < n ∧ e.eraseBegun = false then
      EntryState.retained else e.state) : loadedEntry s e =
      { e with holdCount := n, expiry := expiry, state := st, refill := if e.state = .damaged then none else e.refill } := by
  unfold loadedEntry
  dsimp only
  rw [raisedExpiry_live hn, ← hexpiry, decide_eq_false hn]
  cases hs : e.state with
  | disposing =>
    rw [hs, if_pos rfl] at hcount
    rw [← hcount]
    simp only [hs, reduceCtorEq, false_and, false_or, true_and, if_false] at hst ⊢
    by_cases h : 0 < n ∧ e.eraseBegun = false
    · rw [if_pos h] at hst
      rw [if_neg (by simp [h, Nat.ne_of_gt h.1]), hst]
    · rw [if_neg h] at hst
      rw [if_pos ((Nat.eq_zero_or_pos n).imp_right fun hpos => .inl (by simpa [hpos] using h)), hst]
  | releasable =>
    simp only [hs, reduceCtorEq, false_and, or_false, true_and, if_false] at hst hcount ⊢
    rw [hcount, hst]
    by_cases h : s.rck.rf < expiry
    · simp [h]
    · simp [h]
  | _ =>
    simp only [hs, reduceCtorEq, false_and, or_false, if_false, if_true] at hst hcount ⊢
    rw [hcount, hst]

/-! ### The media work resumed -/

/-- MAR's registers once a load visit has resumed the media work of an entry. -/
def resumedMar (i : Nat) (e : Entry) (m : Mar) : Mar :=
  match e.state with
  | .lodging => { m with verifies := m.verifies ++ [⟨i, false, e.extents, e.fullKey, 0, none⟩] }
  | .disposing => { m with
    erases := insertErases (e.extents.map fun x => ⟨i, x, m.disposeSeq⟩) m.disposeSeq m.erases
    disposeSeq := m.disposeSeq + 1 }
  | _ => m

theorem resumeWork_eq (i : Nat) (e : Entry) (s : State) : resumeWork i e s = { s with mar := resumedMar i e s.mar } := by
  unfold resumeWork resumedMar
  cases e.state <;> rfl

/-- The part at the decision of a load visit: the runs placed, the entry counted, HOLD_LATE raised, the work resumed and the
announcement offered again. -/
def loadPlaced (i : Nat) (e new : Entry) (again : Bool) (s : State) : State :=
  let late := decide (new.state = .disposing) && decide (0 < new.holdCount) && e.eraseBegun
  { s with
    ctc := { s.ctc with holdLateKey := if late then some e.shortKey else s.ctc.holdLateKey }
    evu := { s.evu with flags := if late then s.evu.flags ||| 0x040000 else s.evu.flags }
    exg := { s.exg with
      runs := e.extents.foldl (fun runs x => insertRun ⟨x.first, x.count, i, .entry⟩ runs) s.exg.runs
      loadedEnd := e.extents.foldl (fun m x => max m (x.first + x.count)) s.exg.loadedEnd }
    scs := { s.scs with scrubbable := s.scs.scrubbable + (storedCopy e.state).toNat }
    mar := resumedMar i new s.mar
    pbc := { s.pbc with sendQueue := (
      if again then insertSend { content := .frame (owedFrame e), producer := .announcement i false } s.pbc.sendQueue
      else s.pbc.sendQueue) } }

theorem loadOccupied_eq (i : Nat) (e : Entry) (s : State) : loadOccupied i e s =
    closeVisit i { loadedEntry s e with owed := if offersAgain s e then .nothing else (loadedEntry s e).owed } []
      (loadPlaced i e (loadedEntry s e) (offersAgain s e) s) := by
  unfold loadOccupied loadPlaced
  dsimp only
  rw [resumeWork_eq]
  have hlate : (decide ((loadedEntry s e).state = .disposing) && decide (0 < (loadedEntry s e).holdCount) && e.eraseBegun) =
      decide ((loadedEntry s e).state = .disposing ∧ 0 < (loadedEntry s e).holdCount ∧ e.eraseBegun = true) := by
    rw [Bool.eq_iff_iff]
    simp only [Bool.and_eq_true, decide_eq_true_eq, and_assoc]
  rw [hlate]
  by_cases hl : (loadedEntry s e).state = .disposing ∧ 0 < (loadedEntry s e).holdCount ∧ e.eraseBegun = true
  · rw [if_pos hl, decide_eq_true hl]
    cases offersAgain s e <;> rfl
  · rw [if_neg hl, decide_eq_false hl]
    cases offersAgain s e <;> rfl

theorem offersAgain_iff (h : s.ctc.loadStopped = false) (e : Entry) : offersAgain (visitBegun i s) e = true ↔
    canOffer s = true ∧ e.owed ≠ .nothing ∧ (e.owed = .haveFrame → ∀ p ∈ s.ctc.work,
      p.2.state = .free → p.2.owed = .dropFrame → p.2.shortKey ≠ e.shortKey) := by
  have hback : heldBack (visitBegun i s) e.shortKey = false ↔ ∀ p ∈ s.ctc.work,
      p.2.state = .free → p.2.owed = .dropFrame → p.2.shortKey ≠ e.shortKey := by
    rw [heldBack_iff]
    exact forall₂_congr fun p _ => ⟨fun hp => hp fun hs => absurd (h.symm.trans hs) (by decide), fun hp _ => hp⟩
  unfold offersAgain
  rw [Bool.and_eq_true, Bool.and_eq_true, Bool.not_eq_true', decide_eq_true_iff, and_assoc, ← hback, Bool.and_eq_false_iff,
    decide_eq_false_iff_not, ← Decidable.imp_iff_not_or]
  rfl

/-- What SCS counts of an entry that a load visit places. -/
def countedPlaced (st : EntryState) (m : Scs) : Scs :=
  { m with scrubbable := if st = .retained ∨ st = .releasable then m.scrubbable + 1 else m.scrubbable }

theorem countedPlaced_eq (st : EntryState) (m : Scs) : countedPlaced st m =
    { m with scrubbable := m.scrubbable + (storedCopy st).toNat } := by
  unfold countedPlaced
  cases st <;> rfl

/-- A load visit reverts an entry, or leaves its state. -/
theorem notedScs_placed {st : EntryState} (h : st = e.state ∨ st = .retained) (hv : v.ctc.loaded = i + 1) {m : Scs}
    (hm : v.scs = { m with scrubbable := m.scrubbable + (storedCopy e.state).toNat }) :
    notedScs i e.state st v = countedPlaced st m := by
  rw [countedPlaced_eq]
  by_cases hc : storedCopy e.state = storedCopy st
  · rw [notedScs_same hc, hm, hc]
  · have hst : st = .retained := h.resolve_left fun hst => hc (by rw [hst])
    have hold : storedCopy e.state = false := by
      rw [hst] at hc
      exact Bool.eq_false_iff.mpr hc
    unfold notedScs
    rw [if_neg (by rw [hv]; exact not_or.mpr ⟨by omega, hc⟩), hst, hm, hold]
    rfl

/-- The hit of a load visit's write. -/
theorem hitOf_placed {e' : Entry} (hf : e.state ≠ .free) (hf' : e'.state ≠ .free) (hh : e'.holders = e.holders) :
    hitOf i (watchedKey e e') e' (changeCauses e e') = if e'.state = e.state ∧ e'.holdCount = e.holdCount then none
      else some ⟨e.shortKey, { state := decide (e.state ≠ e'.state), holdCount := decide (e.holdCount ≠ e'.holdCount) }, i,
        e'.state, e'.holdCount, e.holders⟩ := by
  have hcauses : changeCauses e e' =
      { state := decide (e.state ≠ e'.state), holdCount := decide (e.holdCount ≠ e'.holdCount) } := by
    simp [changeCauses, hf', hh]
  rw [hcauses, watchedKey_of_taken hf]
  by_cases h : e'.state = e.state ∧ e'.holdCount = e.holdCount
  · rw [if_pos h]
    exact if_pos (by simp [h.1, h.2])
  · rw [if_neg h, ← hh]
    refine if_neg fun hc => h ?_
    have hstate : decide (e.state ≠ e'.state) = false := congrArg HitCauses.state hc
    have hcount : decide (e.holdCount ≠ e'.holdCount) = false := congrArg HitCauses.holdCount hc
    exact ⟨(not_not.mp (of_decide_eq_false hstate)).symm, (not_not.mp (of_decide_eq_false hcount)).symm⟩

/-- A load visit's write, with what SCS counts and the hit given. -/
theorem closeVisit_written {e' : Entry} {n : Nat} {m : Scs} {hit : Option Hit} (hn : s.ctc.node ≠ .storeFault)
    (hw : s.rwk.walk = some ⟨.load, n, none⟩) (he : entryAt s i = e) (hne : e' ≠ e)
    (hscs : notedScs i e.state e'.state s = m)
    (hhit : hitOf i (watchedKey e e') e' (changeCauses e e') = hit) : closeVisit i e' [] s = { s with
      rwk := { s.rwk with walk := some ⟨.load, i, some i⟩ }
      ctc := { s.ctc with
        work := catSet s.ctc.work i e'
        writes := s.ctc.writes ++ [{ index := i, entry := e', effects := [.visitDone], hit := hit }] }
      scs := m } := by
  subst he hscs hhit
  rw [closeVisit_changed hn hw hne]
  exact changeEntry_eq (by exact hn) ..

/-- The request link's end of a command changes the link and the free values alone. -/
theorem linkEnd_eq (s : State) : linkEnd s = { s with rli := (linkEnd s).rli, free := (linkEnd s).free } := by
  have h : { linkEnd s with rli := s.rli, free := s.free } = s := linkEnd_same s
  exact congrArg (fun t : State => { t with rli := (linkEnd s).rli, free := (linkEnd s).free }) h

/-- The end of the load walk of a LOADING node. -/
theorem endLoadWalk_loading (hn : s.ctc.node = .loading) :
    (endLoadWalk s).rwk.loadEnded = true ∧ (endLoadWalk s).rwk.pendingWalk = false ∧
      (endLoadWalk s).rwk.walk =
        (if ∃ p ∈ s.ctc.work, p.2.state ≠ .free then some ⟨.refresh s.hdu.epoch, 0, none⟩ else none) ∧
      (endLoadWalk s).ctc.node = (if s.pins.mediaReady then .running else .loading) ∧
      (endLoadWalk s).scs.tickTimer = some (s.coreMs + 1000 * inForceOr s Settings.scrubTick 1) := by
  unfold endLoadWalk
  dsimp only
  rw [endWalk_eq]
  by_cases hr : s.pins.mediaReady = true
  · rw [maybeRunning_running (by exact hn) rfl (by exact hr), if_pos hr]
    exact ⟨rfl, rfl, rfl, rfl, rfl⟩
  · rw [maybeRunning, if_neg (fun h => hr h.2.2), if_neg hr]
    exact ⟨rfl, rfl, rfl, hn, rfl⟩

/-- Settles O41. -/
theorem loadVisitsReadTheStore : Obligations.LoadVisitsReadTheStore := by
  unfold Obligations.LoadVisitsReadTheStore
  refine fun s hp => ⟨fun h => loadVisit_ends hp (loadVisit_idle h) rfl, fun i e u hw hi he hu => ?_⟩
  have hat := loadVisit_at hw hi
  rw [← he] at hat
  subst hu
  have heb : e = entryAt (visitBegun i s) i := he
  have hwb : (visitBegun i s).rwk.walk = some ⟨.load, i, none⟩ := hw
  refine ⟨fun hs ho => ?_, fun hs ho hoff => ?_, fun hs ho hoff hn wf => ?_, fun hs ho hx => ?_,
    fun hf hn hstop n expiry st again hcount hexpiry hst hagain e' late v he' hlate hv => ?_, fun hs ho hi hn => ?_⟩
  · rw [if_pos hs, loadFree_clear heb hwb hs ho] at hat
    exact loadVisit_ends hp hat rfl
  · rw [if_pos hs, loadFree_owes heb hwb ho hoff] at hat
    exact loadVisit_ends hp hat rfl
  · rw [if_pos hs, loadFree_taken heb hwb hs ho hoff hn wf] at hat
    exact loadVisit_ends hp hat rfl
  · have hagain : offersAgain (visitBegun i s) e = false := by simp [offersAgain, ho]
    rw [if_neg (by rw [hs]; decide), loadOccupied_eq, hagain, loadedEntry_retained (s := visitBegun i s) hs hx] at hat
    have hclose := closeVisit_same (s := loadPlaced i e e false (visitBegun i s)) (i := i) (e := e) hwb heb
    have hplaced : loadPlaced i e e false (visitBegun i s) = { visitBegun i s with
        exg := { s.exg with
          runs := e.extents.foldl (fun runs x => insertRun ⟨x.first, x.count, i, .entry⟩ runs) s.exg.runs
          loadedEnd := e.extents.foldl (fun m x => max m (x.first + x.count)) s.exg.loadedEnd }
        scs := { s.scs with scrubbable := s.scs.scrubbable + 1 } } := by
      unfold loadPlaced resumedMar
      rw [hs]
      rfl
    rw [hplaced] at hclose
    rw [hplaced] at hat
    exact loadVisit_ends hp (hat.trans hclose) rfl
  · have hlive := loadedEntry_live (s := visitBegun i s) hn hcount hexpiry hst
    have hag : offersAgain (visitBegun i s) e = again := Bool.eq_iff_iff.mpr ((offersAgain_iff hstop e).trans hagain.symm)
    have hstate : st = e.state ∨ st = .retained := by
      rw [hst]
      split
      · exact .inr rfl
      · exact .inl rfl
    have hplaced : loadPlaced i e (loadedEntry (visitBegun i s) e) again (visitBegun i s) = { v with
        scs := { s.scs with scrubbable := s.scs.scrubbable + (storedCopy e.state).toNat } } := by
      rw [hlive, hv, hlate]
      unfold loadPlaced resumedMar
      cases st <;> rfl
    have hvscs : v.scs = countedPlaced st s.scs := by rw [hv]; rfl
    have hvrwk : v.rwk = s.rwk := by rw [hv]
    have hvnode : v.ctc.node = s.ctc.node := by rw [hv]
    have hvwork : v.ctc.work = s.ctc.work := by rw [hv]
    have hvwrites : v.ctc.writes = s.ctc.writes := by rw [hv]
    have hvloaded : v.ctc.loaded = i + 1 := by rw [hv]
    have hvrli : v.rli = s.rli := by rw [hv]
    have hvwalk : v.rwk.walk = some ⟨.load, i, none⟩ := by rw [hv]; exact hw
    have hventry : entryAt v i = e := by rw [hv, he]; rfl
    have hnew : { loadedEntry (visitBegun i s) e with
        owed := if again then .nothing else (loadedEntry (visitBegun i s) e).owed } = e' := by
      rw [hlive, he']
    rw [if_neg hf, loadOccupied_eq, hag, hplaced, hnew] at hat
    refine ⟨fun hsame => ?_, fun hne => ?_⟩
    · have hst' : st = e.state := by
        have h := congrArg Entry.state hsame
        rw [he'] at h
        exact h
      rw [← hst', ← countedPlaced_eq, ← hvscs] at hat
      rw [← hvrwk]
      exact loadVisit_ends hp (hat.trans (closeVisit_same hvwalk (hsame.trans hventry.symm))) hvrli
    · have hf' : e'.state ≠ .free := by
        rw [he']
        obtain h | h := hstate
        · exact h.trans_ne hf
        · exact h.trans_ne (by decide)
      have hhit := hitOf_placed (i := i) hf hf' (by rw [he'])
      have hscs := notedScs_placed (i := i) (e := e) (st := e'.state) (m := s.scs) (v := { v with
        scs := { s.scs with scrubbable := s.scs.scrubbable + (storedCopy e.state).toNat } })
        (by rw [he']; exact hstate) hvloaded rfl
      have hwritten := closeVisit_written (s := { v with
        scs := { s.scs with scrubbable := s.scs.scrubbable + (storedCopy e.state).toNat } })
        (by exact hvnode.trans_ne hn) (by exact hvwalk) (by exact hventry) hne hscs hhit
      rw [hwritten, he'] at hat
      refine loadVisit_ends hp (hat.trans ?_) hvrli
      rw [← hvrwk, he', hvscs, hvwork, hvwrites]
  · rw [if_pos hs, loadFree_clear heb hwb hs ho] at hat
    have hx : exec .loadVisit s = .next (linkEnd (mediaTail (loadVisit s))) := (powered_on hp _ : execLoadVisit s = _)
    obtain ⟨-, hrwk, hnode, -, htick, -⟩ := grantOnly_offered (walkProgress (loadVisit s))
    have hwalk : (loadVisit s).rwk.walk = some ⟨.load, i + 1, none⟩ := by rw [hat]; rfl
    have hnode' : (loadVisit s).ctc.node = .loading := by rw [hat]; exact hn
    obtain ⟨h1, h2, h3, h4, h5⟩ := endLoadWalk_loading hnode'
    rw [walkProgress_load hwalk, if_neg (by rw [hi]; decide)] at hrwk hnode htick
    have hend := linkEnd_eq (mediaTail (loadVisit s))
    have htail : mediaTail (loadVisit s) = grantPort (offerScrub (endLoadWalk (loadVisit s))) := by
      rw [mediaTail, walkProgress_load hwalk, if_neg (by rw [hi]; decide)]
    refine ⟨_, hx, ?_⟩
    rw [hend]
    dsimp only
    rw [htail, hrwk, hnode, htick, h1, h2, h3, h4, h5, hat]
    exact ⟨rfl, rfl, fun h => if_pos h, fun h => if_neg fun ⟨p, hp, hne⟩ => hne (h p hp), rfl, rfl⟩

end Sys2Proof.Machine
end

section
/-! PROOFS. The refresh visit. -/

namespace Sys2Proof.Machine

variable {c : Instr} {s t u v : State} {i low : Nat} {e e' : Entry} {epoch : BitVec 32}

/-! ### The index that a refresh walk visits (R72) -/

theorem refreshVisit_idle (h : ∀ k i, s.rwk.walk ≠ some ⟨.refresh k, i, none⟩) : refreshVisit s = s := by
  unfold refreshVisit
  split
  · rename_i k i hw
    exact absurd hw (h k i)
  · rfl

theorem nextOccupied_at {before after : Cat} (hc : s.ctc.work = before ++ (i, e) :: after) (hi : low ≤ i)
    (hs : e.state ≠ .free) (hb : ∀ p ∈ before, p.1 < low ∨ p.2.state = .free) : nextOccupied s low = some i := by
  unfold nextOccupied
  rw [hc, List.find?_append, List.find?_eq_none.mpr, List.find?_cons_of_pos]
  · rfl
  · simp [hi, Entry.occupied, hs]
  · intro p hp
    rw [Bool.and_eq_true, decide_eq_true_iff, Entry.occupied, decide_eq_true_iff]
    rintro ⟨h1, h2⟩
    exact (hb p hp).elim (fun h => absurd h1 (Nat.not_le.mpr h)) h2

/-- The taken entries of a canonical catalogue, by their indices. -/
theorem exists_occupied_iff (wf : catWf s.ctc.work = true) (low : Nat) :
    (∃ p ∈ s.ctc.work, low ≤ p.1 ∧ p.2.state ≠ .free) ↔ ∃ j, low ≤ j ∧ (entryAt s j).state ≠ .free := by
  constructor
  · rintro ⟨p, hp, hl, hs⟩
    exact ⟨p.1, hl, by rw [entryAt, catGet_of_mem wf hp]; exact hs⟩
  · rintro ⟨j, hl, hs⟩
    refine ⟨(j, entryAt s j), mem_of_catGet fun h => hs ?_, hl, hs⟩
    rw [entryAt, h]
    rfl

theorem exists_above_iff (wf : catWf s.ctc.work = true) {before after : Cat} (hc : s.ctc.work = before ++ (i, e) :: after) :
    (∃ p ∈ s.ctc.work, i + 1 ≤ p.1 ∧ p.2.state ≠ .free) ↔ ∃ p ∈ after, p.2.state ≠ .free := by
  have hrise := catWf_rising wf
  rw [hc, List.map_append, List.map_cons, List.pairwise_append, List.pairwise_cons] at hrise
  obtain ⟨-, ⟨hafter, -⟩, hbefore⟩ := hrise
  rw [hc]
  constructor
  · rintro ⟨p, hp, hl, hs⟩
    obtain hp | hp := List.mem_append.mp hp
    · have := hbefore p.1 (List.mem_map_of_mem hp) i List.mem_cons_self
      omega
    · obtain rfl | hp := List.mem_cons.mp hp
      · exact absurd hl (Nat.not_succ_le_self i)
      · exact ⟨p, hp, hs⟩
  · rintro ⟨p, hp, hs⟩
    exact ⟨p, List.mem_append_right _ (List.mem_cons_of_mem _ hp), hafter p.1 (List.mem_map_of_mem hp), hs⟩

/-! ### What the visit makes of the entry (R73 to R77) -/

theorem releases_iff (s : State) (epoch : BitVec 32) (e : Entry) (hn : s.ctc.node ≠ .storeFault) :
    releases s epoch e = true ↔ e.expiry ≤ s.rck.rf ∧ e.holdCount = 0 ∧ doubtStands s = false ∧ s.hdu.epoch = epoch := by
  unfold releases
  simp only [Bool.and_eq_true, Bool.not_eq_true', decide_eq_true_eq, and_assoc, hn, ne_eq, not_false_eq_true, and_true]

theorem visitedEntry_eq {n expiry : Nat} {st : EntryState} (hn : n = holdsOn s e.cust)
    (hexpiry : expiry = if s.ctc.node = .storeFault then e.expiry
      else max e.expiry (expiryOf e.lodgeTime (periodInForce s e.cls)))
    (hst : st = if s.ctc.node = .storeFault then e.state
      else if e.state = .retained ∧ expiry ≤ s.rck.rf ∧ n = 0 ∧ doubtStands s = false ∧ s.hdu.epoch = epoch then .releasable
      else if e.state = .releasable ∧ (0 < n ∨ s.rck.rf < expiry) then .retained
      else if e.state = .disposing ∧ 0 < n ∧ e.eraseBegun = false then .retained
      else e.state) : visitedEntry s epoch e = { e with holdCount := n, expiry := expiry, state := st } := by
  have hraised : raisedExpiry s e = expiry := by rw [hexpiry]; rfl
  have hvisited : visitedState s epoch { e with holdCount := n, expiry := expiry } = st := by
    rw [hst]
    unfold visitedState
    by_cases hf : s.ctc.node = .storeFault
    · rw [if_pos hf, if_pos hf]
    · rw [if_neg hf, if_neg hf]
      dsimp only
      cases hs : e.state with
      | retained =>
        simp only [releases_iff _ _ _ hf, true_and, reduceCtorEq, false_and, if_false]
      | releasable => simp only [reduceCtorEq, false_and, true_and, if_false]
      | disposing => simp only [reduceCtorEq, false_and, true_and, if_false]
      | _ => simp only [reduceCtorEq, false_and, if_false]
  unfold visitedEntry
  dsimp only
  rw [hraised, ← hn, hvisited]

/-! ### CNU's part -/

/-- What a hand-over to CNU reads and changes. -/
abbrev SameCensus (t s : State) : Prop :=
  t.cnu = s.cnu ∧ t.pbc = s.pbc ∧ t.ctc.inForce = s.ctc.inForce ∧ t.rck = s.rck ∧ t.rwk.settle = s.rwk.settle ∧ t.coreMs = s.coreMs

theorem SameCensus.handed (h : SameCensus t s) (i : Nat) (e : Entry) :
    (handedToCnu i e t).cnu = (handedToCnu i e s).cnu ∧ (handedToCnu i e t).pbc = (handedToCnu i e s).pbc := by
  obtain ⟨hcnu, hpbc, hforce, hrck, hsettle, hms⟩ := h
  have hmembers (set : NodeSet) : presentMembers t set = presentMembers s set := by
    unfold presentMembers isPresent
    rw [hpbc]
  have hstep {α : Type} (f : Settings → α) (x : α) : inForceOr t f x = inForceOr s f x := by
    unfold inForceOr
    rw [hforce]
  have hrank : appealRank t e = appealRank s e := by
    unfold appealRank standsBefore
    rw [hmembers, hpbc]
  have hdue : AppealDue t e ↔ AppealDue s e := by
    unfold AppealDue liveHolders copyTarget
    rw [hmembers, hstep, hrck]
  unfold handedToCnu
  dsimp only
  simp only [hdue]
  rw [hrank, hstep, hsettle, hcnu, hms, canOffer_congr hpbc, hpbc, hmembers]
  split
  · split
    · exact ⟨rfl, rfl⟩
    · split
      · exact ⟨rfl, rfl⟩
      · split <;> exact ⟨rfl, rfl⟩
  · exact ⟨hcnu, hpbc⟩

theorem handedToCnu_only (i : Nat) (e : Entry) (s : State) : handedToCnu i e s = { s with
    cnu := (handedToCnu i e s).cnu, pbc := (handedToCnu i e s).pbc, evu := (handedToCnu i e s).evu } := by
  unfold handedToCnu
  dsimp only
  split
  · split
    · rfl
    · split
      · rfl
      · split <;> rfl
  · rfl

theorem handedToCnu_flags (i : Nat) (e : Entry) (s : State) :
    (handedToCnu i e s).evu.flags = s.evu.flags ∨ (handedToCnu i e s).evu.flags = s.evu.flags ||| 0x000008 := by
  unfold handedToCnu
  dsimp only
  split
  · split
    · exact .inr rfl
    · split
      · exact .inl rfl
      · split <;> exact .inl rfl
  · exact .inl rfl

end Sys2Proof.Machine
end

section
/-! PROOFS. How a refresh visit ends, and how the walk goes on. -/

namespace Sys2Proof.Machine

variable {c : Instr} {s t u v : State} {i low : Nat} {e e' : Entry} {epoch : BitVec 32}

/-! ### The decision of a refresh visit -/

/-- Whether a visit finds an entry whose erasing has begun under a hold (R67, R76). -/
abbrev VisitLate (e e' : Entry) : Prop := e.state = .disposing ∧ 0 < e'.holdCount ∧ e.eraseBegun = true

/-- The part as a refresh visit's change begins: the ERASEs of a reverted entry withdrawn, HOLD_LATE raised. -/
def visitPrepared (i : Nat) (e e' : Entry) (s : State) : State := { s with
  mar := if e.state = .disposing ∧ e'.state = .retained then
    { s.mar with erases := s.mar.erases.filter fun w => decide (w.index ≠ i) } else s.mar
  ctc := { s.ctc with holdLateKey := if VisitLate e e' then some e.shortKey else s.ctc.holdLateKey }
  evu := { s.evu with flags := if VisitLate e e' then s.evu.flags ||| 0x040000 else s.evu.flags } }

theorem refreshVisit_at (hw : s.rwk.walk = some ⟨.refresh epoch, low, none⟩) (hi : nextOccupied s low = some i)
    (he : entryAt s i = e) (he' : visitedEntry s epoch e = e') :
    refreshVisit s = closeVisit i e' (visitEffects s e e') (visitPrepared i e e' s) := by
  unfold refreshVisit
  rw [hw]
  dsimp only
  rw [hi]
  dsimp only
  rw [he, he']
  congr 1
  unfold visitPrepared
  by_cases h1 : e.state = .disposing ∧ e'.state = .retained
  · rw [if_pos h1, if_pos h1]
    by_cases h2 : VisitLate e e'
    · rw [if_pos h2, if_pos h2, if_pos h2]
      rfl
    · rw [if_neg h2, if_neg h2, if_neg h2]
      rfl
  · rw [if_neg h1, if_neg h1]
    by_cases h2 : VisitLate e e'
    · rw [if_pos h2, if_pos h2, if_pos h2]
      rfl
    · rw [if_neg h2, if_neg h2, if_neg h2]

/-- What a refresh visit leaves of the part, but for CNU, the Send Queue and the walk's record. -/
structure VisitLeft (t s : State) (i : Nat) (e e' : Entry) : Prop where
  entry : entryAt t i = e'
  others : ∀ j, j ≠ i → entryAt t j = entryAt s j
  wf : catWf t.ctc.work = true
  erases : e.state = .disposing → e'.state = .retained → ∀ y ∈ t.mar.erases, y.index ≠ i
  late : VisitLate e e' → t.ctc.holdLateKey = some e.shortKey ∧ t.evu.flags.getLsbD 18 = true
  rest : (t.store, t.hdu, t.rck, t.pins, t.exg) = (s.store, s.hdu, s.rck, s.pins, s.exg)

theorem late_flag (f : EventMask) : (f ||| 0x040000).getLsbD 18 = true := by
  rw [BitVec.getLsbD_or, Bool.or_eq_true]
  exact .inr rfl

theorem visitLeft_prepared (wf : catWf s.ctc.work = true) (he : entryAt s i = e) (hsame : e' = e) :
    VisitLeft (visitPrepared i e e' s) s i e e' := by
  refine ⟨he.trans hsame.symm, fun _ _ => rfl, wf, fun h1 h2 => ?_, fun h => ⟨if_pos h, ?_⟩, rfl⟩
  · rw [hsame, h1] at h2
    exact absurd h2 (by decide)
  · show (if VisitLate e e' then s.evu.flags ||| 0x040000 else s.evu.flags).getLsbD 18 = true
    rw [if_pos h]
    exact late_flag _

/-- A working copy changed by a visit. -/
theorem visitLeft_changed (wf : catWf s.ctc.work = true) (r : Rwk) (m : Scs) (ws : List EntryWrite) :
    VisitLeft { visitPrepared i e e' s with
      rwk := r
      scs := m
      ctc := { (visitPrepared i e e' s).ctc with work := catSet s.ctc.work i e', writes := ws } } s i e e' := by
  refine ⟨catGet_catSet_self _ _ wf, fun j hj => catGet_catSet_ne _ hj, catWf_catSet _ _ wf, fun h1 h2 y hy => ?_,
    fun h => ⟨if_pos h, ?_⟩, rfl⟩
  · have hm : (visitPrepared i e e' s).mar = { s.mar with erases := s.mar.erases.filter fun w => decide (w.index ≠ i) } :=
      if_pos ⟨h1, h2⟩
    have hy' : y ∈ (visitPrepared i e e' s).mar.erases := hy
    rw [hm] at hy'
    exact of_decide_eq_true (List.mem_filter.mp hy').2
  · show (if VisitLate e e' then s.evu.flags ||| 0x040000 else s.evu.flags).getLsbD 18 = true
    rw [if_pos h]
    exact late_flag _

theorem VisitLeft.same (h : VisitLeft t s i e e') (hctc : u.ctc = t.ctc) (hmar : u.mar = t.mar)
    (hflag : t.evu.flags.getLsbD 18 = true → u.evu.flags.getLsbD 18 = true)
    (hrest : (u.store, u.hdu, u.rck, u.pins, u.exg) = (t.store, t.hdu, t.rck, t.pins, t.exg)) : VisitLeft u s i e e' := by
  have hentry (j : Nat) : entryAt u j = entryAt t j := by rw [entryAt, entryAt, hctc]
  refine ⟨(hentry i).trans h.entry, fun j hj => (hentry j).trans (h.others j hj), by rw [hctc]; exact h.wf,
    by rw [hmar]; exact h.erases, fun hl => ⟨by rw [hctc]; exact (h.late hl).1, hflag (h.late hl).2⟩, hrest.trans h.rest⟩

theorem VisitLeft.handed (h : VisitLeft t s i e e') (j : Nat) (f : Entry) : VisitLeft (handedToCnu j f t) s i e e' := by
  have hflags := handedToCnu_flags j f t
  refine h.same (by rw [handedToCnu_only]) (by rw [handedToCnu_only]) (fun hb => ?_) (by rw [handedToCnu_only])
  obtain hf | hf := hflags
  · rw [hf, hb]
  · rw [hf, BitVec.getLsbD_or, hb]
    rfl

theorem VisitLeft.withRwk (h : VisitLeft t s i e e') (r : Rwk) : VisitLeft { t with rwk := r } s i e e' :=
  h.same rfl rfl id rfl

/-- What a refresh visit leaves, after the grants that end the command. -/
theorem VisitLeft.granted (h : VisitLeft u s i e e') (g : GrantOnly t u) :
    (∃ begun, entryAt t i = { e' with eraseBegun := begun } ∧ (begun = e'.eraseBegun ∨ begun = true)) ∧
    (∀ j, j ≠ i → { entryAt t j with eraseBegun := (entryAt s j).eraseBegun } = entryAt s j) ∧
    (e.state = .disposing → e'.state = .retained → ∀ y ∈ t.mar.erases, y.index ≠ i) ∧
    (VisitLate e e' → t.ctc.holdLateKey = some e.shortKey ∧ t.evu.flags.getLsbD 18 = true) ∧
    (t.store, t.hdu, t.rck, t.pins, t.exg) = (s.store, s.hdu, s.rck, s.pins, s.exg) := by
  have hmedia : { t with rwk := u.rwk, ctc := u.ctc, mar := u.mar, scs := u.scs } = u := g.media
  have hevu : t.evu = u.evu := by
    have h := congrArg State.evu hmedia
    exact h
  have hrest : (t.store, t.hdu, t.rck, t.pins, t.exg) = (u.store, u.hdu, u.rck, u.pins, u.exg) := by
    have h := congrArg (fun x : State => (x.store, x.hdu, x.rck, x.pins, x.exg)) hmedia
    exact h
  refine ⟨?_, fun j hj => ?_, fun h1 h2 y hy => h.erases h1 h2 y (g.erases y hy), fun hl => ?_, hrest.trans h.rest⟩
  · obtain ⟨begun, hb, hor⟩ := g.entries h.wf i
    rw [h.entry] at hb hor
    exact ⟨begun, hb, hor⟩
  · obtain ⟨begun, hb, -⟩ := g.entries h.wf j
    rw [hb, h.others j hj]
  · rw [g.late, hevu]
    exact h.late hl

/-! ### The end of the visit -/

/-- Whether a visit hands the entry over to CNU (R78). -/
abbrev VisitHands (s : State) (e' : Entry) : Prop := AppealDue s e' ∧ s.rwk.settle = .ended

theorem visitEffects_eq (s : State) (e e' : Entry) : visitEffects s e e' =
    (if e.state = .retained ∧ e'.state = .releasable then [.releasableNotice] else []) ++
      (if VisitHands s e' then [.census] else []) := by
  unfold visitEffects
  have hiff : (isShort s e' && eligibleForAppeal s e' && decide (s.rwk.settle = .ended)) = true ↔ VisitHands s e' := by
    rw [Bool.and_eq_true, decide_eq_true_iff]
    exact and_congr (appealable_iff s e') Iff.rfl
  rw [if_congr hiff rfl rfl]

theorem runEffects_moved (i : Nat) (e : Entry) (fs : List Effect) (s : State) :
    runEffects i e (fs ++ [.visitDone]) s = moveOn i (runEffects i e fs s) := by
  unfold runEffects
  rw [List.foldl_append]
  rfl

theorem runEffects_visit (he : entryAt t i = e') (hs : ¬ (e.state = .retained ∧ e'.state = .releasable)) :
    runEffects i e' (visitEffects s e e') t = if VisitHands s e' then handedToCnu i e' t else t := by
  rw [visitEffects_eq, if_neg hs]
  split
  · exact offerAppeal_eq he.symm
  · rfl

/-- The walk that goes on from a visit: to the index above, or to its end. -/
theorem walkProgress_visited (hwalk : u.rwk.walk = some ⟨.refresh epoch, i + 1, none⟩) (wf : catWf u.ctc.work = true)
    (ho : (entryAt u i).state ≠ .free) : ∃ r, walkProgress u = { u with rwk := r } ∧
      ((∃ j, i + 1 ≤ j ∧ (entryAt u j).state ≠ .free) →
        r.walk = some ⟨.refresh epoch, i + 1, none⟩ ∧ r.pendingWalk = u.rwk.pendingWalk) ∧
      ((∀ j, i + 1 ≤ j → (entryAt u j).state = .free) →
        r.walk = (if u.rwk.pendingWalk then some ⟨.refresh u.hdu.epoch, 0, none⟩ else none) ∧ r.pendingWalk = false) := by
  rw [walkProgress_refresh hwalk]
  have hiff : (nextOccupied u (i + 1)).isSome = true ↔ ∃ j, i + 1 ≤ j ∧ (entryAt u j).state ≠ .free := by
    rw [nextOccupied_isSome, exists_occupied_iff wf]
  by_cases h : ∃ j, i + 1 ≤ j ∧ (entryAt u j).state ≠ .free
  · rw [if_pos (hiff.mpr h)]
    refine ⟨u.rwk, rfl, fun _ => ⟨hwalk, rfl⟩, fun hno => ?_⟩
    obtain ⟨j, hj, hs⟩ := h
    exact absurd (hno j hj) hs
  · rw [if_neg (mt hiff.mp h), endWalk_eq]
    refine ⟨_, rfl, fun hy => absurd hy h, fun _ => ⟨?_, rfl⟩⟩
    have hsome : ∃ p ∈ u.ctc.work, p.2.state ≠ .free := by
      obtain ⟨p, hp, -, hs⟩ := (exists_occupied_iff wf 0).mpr ⟨i, Nat.zero_le i, ho⟩
      exact ⟨p, hp, hs⟩
    dsimp only
    rw [if_pos hsome]

end Sys2Proof.Machine
end

section
/-! PROOFS. What a refresh visit makes of the entry it visits. -/

namespace Sys2Proof.Machine

variable {c : Instr} {s t u v : State} {i low : Nat} {e e' : Entry} {epoch : BitVec 32}

/-- A refresh visit of an index, with the entry as it finds it and as it leaves it. -/
structure Visiting (s : State) (epoch : BitVec 32) (low i : Nat) (e e' : Entry) : Prop where
  walk : s.rwk.walk = some ⟨.refresh epoch, low, none⟩
  next : nextOccupied s low = some i
  found : entryAt s i = e
  left : visitedEntry s epoch e = e'
  wf : catWf s.ctc.work = true

/-- The walk's record while a visit waits for its write. -/
def visitWaits (epoch : BitVec 32) (i : Nat) (s : State) : Rwk := { s.rwk with walk := some ⟨.refresh epoch, i, some i⟩ }

theorem beginVisit_at (h : s.rwk.walk = some ⟨.refresh epoch, low, none⟩) :
    beginVisit i s = { s with rwk := visitWaits epoch i s } := by
  unfold beginVisit visitWaits
  rw [h]
  rfl

/-- A visit that changes its entry outside STORE FAULT begins the write. -/
theorem Visiting.written (h : Visiting s epoch low i e e') (hn : s.ctc.node ≠ .storeFault) (hne : e' ≠ e) :
    ∃ m hit, refreshVisit s = { visitPrepared i e e' s with
      rwk := visitWaits epoch i s
      scs := m
      ctc := { (visitPrepared i e e' s).ctc with
        work := catSet s.ctc.work i e'
        writes := s.ctc.writes ++
          [{ index := i, entry := e', effects := visitEffects s e e' ++ [.visitDone], hit := hit }] } } := by
  have hat := refreshVisit_at h.walk h.next h.found h.left
  have hentry : e' ≠ entryAt (visitPrepared i e e' s) i := hne.trans_eq h.found.symm
  have hbegin := beginVisit_at (s := visitPrepared i e e' s) (i := i) h.walk
  have hclose : closeVisit i e' (visitEffects s e e') (visitPrepared i e e' s) = _ := if_neg hentry
  rw [hclose, hbegin, commit_eq (by exact hn), changeEntry_eq (by exact hn)] at hat
  exact ⟨_, _, hat⟩

theorem sameCensus_prepared (i : Nat) (e e' : Entry) (s : State) : SameCensus (visitPrepared i e e' s) s :=
  ⟨rfl, rfl, rfl, rfl, rfl, rfl⟩

theorem visitLeft_recorded (hit : Option Hit) (h : VisitLeft t s i e e') : VisitLeft (recordHit hit t) s i e e' := by
  refine h.same (by rw [recordHit_eq]) (by rw [recordHit_eq]) (fun hb => ?_) (by rw [recordHit_eq])
  rw [recordHit_evu]
  rw [show ({ t.evu with flags := t.evu.flags ||| hitMask hit t.sli.watchKey } : Evu).flags =
    t.evu.flags ||| hitMask hit t.sli.watchKey from rfl, BitVec.getLsbD_or, hb]
  rfl

theorem sameCensus_recorded (hit : Option Hit) (h : SameCensus t s) : SameCensus (recordHit hit t) s := by
  rw [recordHit_eq]
  exact h

/-- A visit that begins no write: the entry judged, handed over to CNU where it is due, and the walk moved on. -/
theorem Visiting.unwritten (h : Visiting s epoch low i e e') (hstate : s.ctc.node = .storeFault → e'.state = e.state)
    (hn : s.ctc.node = .storeFault ∨ e' = e) : ∃ y, VisitLeft y s i e e' ∧ SameCensus y s ∧
      (∃ n vis, y.rwk = { s.rwk with walk := some ⟨.refresh epoch, n, vis⟩ }) ∧
      refreshVisit s = moveOn i (if VisitHands s e' then handedToCnu i e' y else y) := by
  have hat := refreshVisit_at h.walk h.next h.found h.left
  have hnot : ¬ (e.state = .retained ∧ e'.state = .releasable) := by
    rintro ⟨h1, h2⟩
    have hs : e'.state = e.state := hn.elim hstate fun he => by rw [he]
    rw [h2, h1] at hs
    exact absurd hs (by decide)
  by_cases hsame : e' = e
  · have hleft := visitLeft_prepared (i := i) h.wf h.found hsame
    have hclose : closeVisit i e' (visitEffects s e e') (visitPrepared i e e' s) = _ :=
      if_pos (hsame.trans h.found.symm)
    rw [hclose, runEffects_moved, runEffects_visit hleft.entry hnot] at hat
    exact ⟨_, hleft, sameCensus_prepared .., ⟨low, none, by rw [← h.walk]; rfl⟩, hat⟩
  · have hfault : s.ctc.node = .storeFault := hn.resolve_right hsame
    have hentry : e' ≠ entryAt (visitPrepared i e e' s) i :=
      Ne.trans_eq hsame h.found.symm
    have hbegin := beginVisit_at (s := visitPrepared i e e' s) (i := i) h.walk
    have hclose : closeVisit i e' (visitEffects s e e') (visitPrepared i e e' s) = _ := if_neg hentry
    have hchange (causes : HitCauses) (fs : List Effect) : ∃ m hit,
        changeEntry i e' causes fs { visitPrepared i e e' s with rwk := visitWaits epoch i s } =
          recordHit hit { visitPrepared i e e' s with
            rwk := visitWaits epoch i s
            scs := m
            ctc := { (visitPrepared i e e' s).ctc with work := catSet s.ctc.work i e', writes := s.ctc.writes } } :=
      ⟨_, _, changeEntry_fault (by exact hfault) ..⟩
    rw [hclose, hbegin, commit, if_pos (by exact hfault)] at hat
    obtain ⟨m, hit, hy⟩ := hchange (changeCauses (entryAt (visitPrepared i e e' s) i) e') (visitEffects s e e' ++ [.visitDone])
    have hleft := visitLeft_recorded hit
      (visitLeft_changed (i := i) (e := e) (e' := e') h.wf (visitWaits epoch i s) m s.ctc.writes)
    refine ⟨_, hleft, sameCensus_recorded _ ⟨rfl, rfl, rfl, rfl, rfl, rfl⟩, ?_, hat.trans ?_⟩
    · rw [recordHit_eq]
      exact ⟨i, some i, rfl⟩
    · rw [← runEffects_visit hleft.entry hnot, ← hy, ← runEffects_moved]
      rfl

theorem GrantOnly.lists (g : GrantOnly t u) : (t.cnu, t.pbc) = (u.cnu, u.pbc) := by
  have hmedia : { t with rwk := u.rwk, ctc := u.ctc, mar := u.mar, scs := u.scs } = u := g.media
  have h := congrArg (fun x : State => (x.cnu, x.pbc)) hmedia
  exact h

/-- Settles O42. -/
theorem refreshVisitsJudgeEntries : Obligations.RefreshVisitsJudgeEntries := by
  unfold Obligations.RefreshVisitsJudgeEntries
  refine fun s hp wf => ⟨fun h => ?_, fun epoch low before i e after hw hc hi hs hb n expiry st hn hexpiry hst e' handed x he'
    hhanded hx' => ?_⟩
  · have hx : exec .refreshVisit s = .next (linkEnd (mediaTail (refreshVisit s))) :=
      (powered_on hp _ : execRefreshVisit s = _)
    rw [refreshVisit_idle h] at hx
    exact ends_tail_silent hx rfl
  have hfound : entryAt s i = e := catGet_of_mem wf (by rw [hc]; exact List.mem_append_right _ List.mem_cons_self)
  have hvisiting : Visiting s epoch low i e e' :=
    ⟨hw, nextOccupied_at hc hi hs hb, hfound, (visitedEntry_eq hn hexpiry hst).trans he'.symm, wf⟩
  have hstate : e'.state = st := by rw [he']
  have hcount : e'.holdCount = n := by rw [he']
  have hbegun : e'.eraseBegun = e.eraseBegun := by rw [he']
  have hhands : handed = true ↔ VisitHands s e' := by
    rw [hhanded, VisitHands, AppealDue, hstate, hcount, he', and_assoc, and_assoc]
  have hx : exec .refreshVisit s = .next (linkEnd (mediaTail (refreshVisit s))) :=
    (powered_on hp _ : execRefreshVisit s = _)
  refine ⟨_, hx, ?_⟩
  rw [linkEnd_eq]
  by_cases hwrite : s.ctc.node ≠ .storeFault ∧ e' ≠ e
  · obtain ⟨hnf, hne⟩ := hwrite
    obtain ⟨m, hit, hd⟩ := hvisiting.written hnf hne
    have hprogress : walkProgress (refreshVisit s) = refreshVisit s := by
      unfold walkProgress
      rw [hd]
      rfl
    have hleft : VisitLeft (refreshVisit s) s i e e' := by
      rw [hd]
      exact visitLeft_changed wf _ _ _
    have hgrant : GrantOnly (mediaTail (refreshVisit s)) (refreshVisit s) := by
      have h := grantOnly_offered (refreshVisit s)
      rw [mediaTail, hprogress]
      exact h
    obtain ⟨h1, h2, h5, h6, h7⟩ := hleft.granted hgrant
    rw [hbegun] at h1
    refine ⟨h1, h2, fun _ _ => ⟨?_, ?_, ?_⟩, fun h => absurd h (not_or.mpr ⟨hnf, hne⟩), fun hd hr => h5 hd (hstate.trans hr),
      fun hd hpos hb => h6 ⟨hd, hcount ▸ hpos, hb⟩, h7⟩
    · show (mediaTail (refreshVisit s)).rwk.walk = _
      rw [hgrant.rwk, hd]
      rfl
    · exact hgrant.lists.trans (by rw [hd]; rfl)
    · refine ⟨_, hgrant.writes _ (by rw [hd]; exact List.mem_append_right _ (List.mem_singleton.mpr rfl)), rfl, rfl, ?_⟩
      rw [visitEffects_eq, if_congr hhands.symm rfl rfl, hstate]
  · have hor : s.ctc.node = .storeFault ∨ e' = e := by
      rw [not_and_or, not_not, not_not] at hwrite
      exact hwrite
    have hfault : s.ctc.node = .storeFault → e'.state = e.state := fun hf => by rw [hstate, hst, if_pos hf]
    obtain ⟨y, hleft, hcensus, ⟨k, vis, hyrwk⟩, hd⟩ := hvisiting.unwritten hfault hor
    obtain ⟨z, hz⟩ : ∃ z, z = if VisitHands s e' then handedToCnu i e' y else y := ⟨_, rfl⟩
    have hzleft : VisitLeft z s i e e' := by
      rw [hz]
      split
      · exact hleft.handed i e'
      · exact hleft
    have hzrwk : z.rwk = { s.rwk with walk := some ⟨.refresh epoch, k, vis⟩ } := by
      rw [hz]
      split
      · rw [handedToCnu_only]
        exact hyrwk
      · exact hyrwk
    have hzcensus : (z.cnu, z.pbc) =
        if handed then ((handedToCnu i e' x).cnu, (handedToCnu i e' x).pbc) else (s.cnu, s.pbc) := by
      obtain ⟨hy1, hy2⟩ := hcensus.handed i e'
      obtain ⟨hx1, hx2⟩ := SameCensus.handed (t := x) (s := s) (by rw [hx']; exact ⟨rfl, rfl, rfl, rfl, rfl, rfl⟩) i e'
      rw [hz]
      by_cases hh : VisitHands s e'
      · rw [if_pos hh, if_pos (hhands.mpr hh), hy1, hy2, hx1, hx2]
      · rw [if_neg hh, if_neg (mt hhands.mp hh), hcensus.1, hcensus.2.1]
    rw [← hz, moveOn_eq, hzrwk] at hd
    have hdleft : VisitLeft (refreshVisit s) s i e e' := by
      rw [hd]
      exact hzleft.withRwk _
    have hdwalk : (refreshVisit s).rwk.walk = some ⟨.refresh epoch, i + 1, none⟩ := by
      rw [hd]
      rfl
    have htaken : (entryAt (refreshVisit s) i).state ≠ .free := by
      have hcases : st = .releasable ∨ st = .retained ∨ st = e.state := by
        rw [hst]
        split_ifs <;> simp
      rw [hdleft.entry, hstate]
      obtain h | h | h := hcases <;> rw [h]
      · decide
      · decide
      · exact hs
    obtain ⟨r, hr, hon, hend⟩ := walkProgress_visited hdwalk hdleft.wf htaken
    have hgrant : GrantOnly (mediaTail (refreshVisit s)) { refreshVisit s with rwk := r } := by
      rw [mediaTail, hr]
      exact grantOnly_offered _
    obtain ⟨h1, h2, h5, h6, h7⟩ := (hdleft.withRwk r).granted hgrant
    rw [hbegun] at h1
    have habove : (∃ j, i + 1 ≤ j ∧ (entryAt (refreshVisit s) j).state ≠ .free) ↔ ∃ p ∈ after, p.2.state ≠ .free := by
      rw [← exists_above_iff wf hc, exists_occupied_iff wf]
      refine exists_congr fun j => and_congr_right fun hj => ?_
      rw [hdleft.others j (by omega)]
    have hrest := hdleft.rest
    have hhdu : (refreshVisit s).hdu = s.hdu := by
      have h := congrArg (fun q => q.2.1) hrest
      exact h
    have hpending : (refreshVisit s).rwk.pendingWalk = s.rwk.pendingWalk := by rw [hd]
    refine ⟨h1, h2, fun hnf hne => absurd ⟨hnf, hne⟩ hwrite, fun _ => ⟨fun hsome => ?_, fun hnone => ?_, ?_⟩,
      fun hd hr => h5 hd (hstate.trans hr), fun hd hpos hb => h6 ⟨hd, hcount ▸ hpos, hb⟩, h7⟩
    · show (mediaTail (refreshVisit s)).rwk.walk = _ ∧ (mediaTail (refreshVisit s)).rwk.pendingWalk = _
      rw [hgrant.rwk, ← hpending]
      exact hon (habove.mpr hsome)
    · show (mediaTail (refreshVisit s)).rwk.walk = _ ∧ (mediaTail (refreshVisit s)).rwk.pendingWalk = _
      rw [hgrant.rwk, ← hpending, ← hhdu]
      refine hend fun j hj => by_contra fun hs => ?_
      obtain ⟨p, hp, hne⟩ := habove.mp ⟨j, hj, hs⟩
      exact hne (hnone p hp)
    · exact hgrant.lists.trans (by rw [hd]; exact hzcensus)

end Sys2Proof.Machine
end

section
/-! PROOFS. The entry to STORE FAULT, and what the media port does in it. -/

namespace Sys2Proof.Machine

variable {c : Instr} {s t u v : State} {i : Nat} {as bs : List Answer}

/-! ### The requests that a failed access leaves unanswered (R11) -/

/-- The answer of a request whose write or search failed. -/
abbrev faultAnswer (r : Req) : Answer := ⟨r, true, .storeFault, .none⟩

theorem pushAnswers_pushed (as bs : List Answer) (s : State) :
    pushAnswers bs (pushAnswers as s) = pushAnswers (as ++ bs) s := by
  unfold pushAnswers
  simp

theorem foldl_answerFault (rs : List Req) (s : State) : rs.foldl answerFault s = pushAnswers (rs.map faultAnswer) s := by
  induction rs generalizing s with
  | nil => exact (pushAnswers_nil s).symm
  | cons r rs ih =>
    rw [List.foldl_cons, ih, List.map_cons, pushAnswers_cons]
    rfl

theorem abandonEntry_eq (s : State) (w : EntryWrite) : abandonEntry s w = pushAnswers
    ((w.effects.filterMap effectReq).map faultAnswer ++
      w.lookups.map (lookupReply w.index (entryAt s w.index))) s := by
  unfold abandonEntry
  dsimp only
  rw [foldl_answerFault, foldl_answerLookup, pushAnswers_pushed]
  rfl

/-- The entry writes' requests are answered, and nothing else changes. -/
theorem foldl_abandonEntry (ws : List EntryWrite) (s : State) : ∃ as, ws.foldl abandonEntry s = pushAnswers as s ∧
    ∀ w ∈ ws, ∀ r ∈ w.effects.filterMap effectReq, faultAnswer r ∈ as := by
  induction ws generalizing s with
  | nil => exact ⟨[], (pushAnswers_nil s).symm, fun _ h => absurd h List.not_mem_nil⟩
  | cons w ws ih =>
    obtain ⟨bs, hb, hm⟩ := ih (abandonEntry s w)
    rw [List.foldl_cons, hb, abandonEntry_eq, pushAnswers_pushed]
    refine ⟨_, rfl, fun x hx r hr => ?_⟩
    obtain rfl | hx := List.mem_cons.mp hx
    · exact List.mem_append_left _ (List.mem_append_left _ (List.mem_map_of_mem hr))
    · exact List.mem_append_right _ (hm x hx r hr)

theorem mem_effectReq {fs : List Effect} {r : Req}
    (h : (∃ o res, Effect.answer r o res ∈ fs) ∨ ∃ b k, Effect.queueVerify b k (some r) ∈ fs) :
    r ∈ fs.filterMap effectReq := by
  obtain ⟨o, res, h⟩ | ⟨b, k, h⟩ := h
  · exact List.mem_filterMap.mpr ⟨_, h, rfl⟩
  · exact List.mem_filterMap.mpr ⟨_, h, rfl⟩

/-- The part with these slots of the Hold Table. -/
def withSlots (s : State) (slots : List (Option HoldSlot)) : State := { s with hdu := { s.hdu with slots := slots } }

/-- Two Hold Tables of the same holds. -/
def SameHolds (xs ys : List (Option HoldSlot)) : Prop :=
  ∀ i, (xs.getD i none).map HoldSlot.hold = (ys.getD i none).map HoldSlot.hold

theorem sameHolds_set {xs : List (Option HoldSlot)} {j : Nat} (f : HoldSlot → HoldSlot) (hf : ∀ h, (f h).hold = h.hold) :
    SameHolds (xs.set j ((xs.getD j none).map f)) xs := by
  intro i
  rw [List.getD_eq_getElem?_getD, List.getD_eq_getElem?_getD, List.getD_eq_getElem?_getD, List.getElem?_set]
  by_cases hj : j = i
  · subst hj
    rw [if_pos rfl]
    split
    · rw [Option.getD_some, Option.map_map]
      exact congrArg (fun g => Option.map g _) (funext hf)
    · rename_i hlen
      rw [List.getElem?_eq_none (Nat.le_of_not_lt hlen)]
  · rw [if_neg hj]

theorem abandonSlot_eq (s : State) (w : SlotWrite) : ∃ slots, SameHolds slots s.hdu.slots ∧
    abandonSlot s w = pushAnswers (((slotReq w.purpose).toList ++ w.waiters).map faultAnswer) (withSlots s slots) := by
  unfold abandonSlot
  dsimp only
  rw [foldl_answerFault]
  by_cases h : w.record.isNone = true
  · rw [if_pos h]
    exact ⟨_, sameHolds_set (fun h => { h with lifting := false }) fun _ => rfl, rfl⟩
  · rw [if_neg h]
    exact ⟨s.hdu.slots, fun _ => rfl, rfl⟩

/-- The slot writes' requests are answered, and no hold changes. -/
theorem foldl_abandonSlot (ws : List SlotWrite) (s : State) : ∃ as slots, SameHolds slots s.hdu.slots ∧
    ws.foldl abandonSlot s = pushAnswers as (withSlots s slots) ∧
    ∀ w ∈ ws, ∀ r, r ∈ slotReq w.purpose ∨ r ∈ w.waiters → faultAnswer r ∈ as := by
  induction ws generalizing s with
  | nil => exact ⟨[], s.hdu.slots, fun _ => rfl, (pushAnswers_nil s).symm, fun _ h => absurd h List.not_mem_nil⟩
  | cons w ws ih =>
    obtain ⟨slots, hsame, heq⟩ := abandonSlot_eq s w
    obtain ⟨bs, slots', hsame', hb, hm⟩ := ih (abandonSlot s w)
    rw [List.foldl_cons, hb, heq]
    refine ⟨_ ++ bs, slots', ?_, pushAnswers_pushed _ bs (withSlots s slots'), fun x hx r hr => ?_⟩
    · rw [heq] at hsame'
      exact fun i => (hsame' i).trans (hsame i)
    · obtain rfl | hx := List.mem_cons.mp hx
      · refine List.mem_append_left _ (List.mem_map_of_mem (List.mem_append.mpr ?_))
        exact hr.imp (fun h => Option.mem_toList.mpr h) id
      · exact List.mem_append_right _ (hm x hx r hr)

/-! ### The entry to STORE FAULT (R11, R12) -/

/-- The part as it enters STORE FAULT, with this store, free values, Hold Table and walk. -/
def faulted (s : State) (store : Store) (free : Nat) (slots : List (Option HoldSlot)) (walk : Option Walk) : State :=
  { s with
    store := store, free := free
    ctc := { s.ctc with node := .storeFault, writes := [] }
    hdu := { s.hdu with slots := slots, writes := [] }
    rck := { s.rck with floorWrites := [] }
    rwk := { s.rwk with walk := walk }
    scs := { s.scs with cursorWrites := [], waitingDormant := none, wake := none, request := none, mediaSleep := false }
    rli := { s.rli with starting := none }
    mar := { s.mar with grantedErase := none, erases := s.mar.grantedErase.toList ++ s.mar.erases }
    evu := { s.evu with flags := s.evu.flags ||| Event.mask .storeFault } }

/-- The requests that the part answers STORE_FAULT as it enters it. -/
structure FaultAnswers (s : State) (as : List Answer) : Prop where
  starting : ∀ st, s.rli.starting = some st → faultAnswer st.req ∈ as
  waiting : ∀ r, s.scs.waitingDormant = some r ∨ s.scs.wake = some r → faultAnswer r ∈ as
  entries : ∀ w ∈ s.ctc.writes, ∀ r ∈ w.effects.filterMap effectReq, faultAnswer r ∈ as
  slots : ∀ w ∈ s.hdu.writes, ∀ r, r ∈ slotReq w.purpose ∨ r ∈ w.waiters → faultAnswer r ∈ as

theorem leaveVisit_eq (s : State) : ∃ walk, leaveVisit s = { s with rwk := { s.rwk with walk := walk } } ∧
    ∀ w, s.rwk.walk = some w → w.visiting = none → walk = s.rwk.walk := by
  unfold leaveVisit
  split
  · rename_i w hw
    split
    · rename_i i hv
      rw [moveOn_eq]
      refine ⟨_, rfl, fun x hx hn => ?_⟩
      rw [hw] at hx
      cases hx
      rw [hv] at hn
      cases hn
    · exact ⟨s.rwk.walk, rfl, fun _ _ _ => rfl⟩
  · exact ⟨s.rwk.walk, rfl, fun _ _ _ => rfl⟩

/-- How a part enters STORE FAULT. -/
theorem enterStoreFault_eq (hn : s.ctc.node ≠ .storeFault) : ∃ as free slots walk,
    enterStoreFault s = pushAnswers as (faulted s (cutWrites s).store free slots walk) ∧
    SameHolds slots s.hdu.slots ∧ (s.hdu.writes = [] → slots = s.hdu.slots) ∧
    (∀ w, s.rwk.walk = some w → w.visiting = none → walk = s.rwk.walk) ∧ FaultAnswers s as := by
  have hcut : cutWrites s = { s with store := (cutWrites s).store, free := (cutWrites s).free } := by
    have h : { cutWrites s with store := s.store, free := s.free } = s := (cutWrites_cut s).1
    exact congrArg (fun t : State => { t with store := (cutWrites s).store, free := (cutWrites s).free }) h
  generalize (cutWrites s).store = store at hcut ⊢
  generalize (cutWrites s).free = free at hcut
  obtain ⟨as, ha, hma⟩ := foldl_abandonEntry s.ctc.writes { s with store := store, free := free }
  obtain ⟨bs, slots, hsame, hb, hmb⟩ := foldl_abandonSlot s.hdu.writes (pushAnswers as { s with store := store, free := free })
  have hnone (h : s.hdu.writes = []) : withSlots s slots = s := by
    rw [h, List.foldl_nil] at hb
    have h := congrArg (fun t : State => { s with hdu := t.hdu }) hb
    exact h.symm
  have hrest : enterStoreFault s = leaveVisit (pushAnswers (as ++ bs ++ (waitingReqs s).map faultAnswer)
      (faulted s store free slots s.rwk.walk)) := by
    unfold enterStoreFault
    rw [if_neg hn]
    dsimp only
    rw [hcut]
    dsimp only
    rw [ha]
    have hall : (waitingReqs s).foldl answerFault
        (pushAnswers bs (withSlots (pushAnswers as { s with store := store, free := free }) slots)) =
        pushAnswers (as ++ bs ++ (waitingReqs s).map faultAnswer)
          (withSlots { s with store := store, free := free } slots) := by
      rw [foldl_answerFault]
      show pushAnswers _ (pushAnswers bs (pushAnswers as (withSlots { s with store := store, free := free } slots))) = _
      rw [pushAnswers_pushed, pushAnswers_pushed, List.append_assoc]
    rw [show (pushAnswers as { s with store := store, free := free }).hdu.writes = s.hdu.writes from rfl, hb,
      show waitingReqs (pushAnswers bs (withSlots (pushAnswers as { s with store := store, free := free }) slots)) =
        waitingReqs s from rfl, hall]
    rfl
  obtain ⟨walk, hw, hwalk⟩ := leaveVisit_eq (pushAnswers (as ++ bs ++ (waitingReqs s).map faultAnswer)
      (faulted s store free slots s.rwk.walk))
  rw [hrest, hw]
  refine ⟨as ++ bs ++ (waitingReqs s).map faultAnswer, free, slots, walk, rfl, hsame, fun h => ?_, hwalk, ?_⟩
  · exact congrArg (fun t : State => t.hdu.slots) (hnone h)
  · refine ⟨fun st hst => ?_, fun r hr => ?_, fun w hw r hr => ?_, fun w hw r hr => ?_⟩
    · refine List.mem_append_right _ (List.mem_map_of_mem ?_)
      simp [waitingReqs, hst]
    · refine List.mem_append_right _ (List.mem_map_of_mem ?_)
      unfold waitingReqs
      rw [List.append_assoc]
      exact List.mem_append_right _ (List.mem_append.mpr (hr.imp Option.mem_toList.mpr Option.mem_toList.mpr))
    · exact List.mem_append_left _ (List.mem_append_left _ (hma w hw r hr))
    · exact List.mem_append_left _ (List.mem_append_right _ (hmb w hw r hr))

/-! ### The media port in STORE FAULT (R12) -/

/-- What the media tail leaves in STORE FAULT. -/
structure FaultTail (t s : State) : Prop where
  only : MediaOnly t s
  ctc : t.ctc = s.ctc
  erases : t.mar.erases = s.mar.erases
  granted : t.mar.grantedErase = s.mar.grantedErase
  cursor : t.scs.cursor = s.scs.cursor
  cursorWrites : t.scs.cursorWrites = s.scs.cursorWrites
  dormant : t.scs.waitingDormant = s.scs.waitingDormant
  wake : t.scs.wake = s.scs.wake
  sleep : t.scs.mediaSleep = s.scs.mediaSleep

theorem FaultTail.refl (s : State) : FaultTail s s := ⟨rfl, rfl, rfl, rfl, rfl, rfl, rfl, rfl, rfl⟩

theorem FaultTail.trans (h : FaultTail u t) (g : FaultTail t s) : FaultTail u s :=
  ⟨h.only.trans g.only, h.ctc.trans g.ctc, h.erases.trans g.erases, h.granted.trans g.granted, h.cursor.trans g.cursor,
    h.cursorWrites.trans g.cursorWrites, h.dormant.trans g.dormant, h.wake.trans g.wake, h.sleep.trans g.sleep⟩

theorem faultTail_scrub (i : Nat) (s : State) : FaultTail (grantScrub i s) s :=
  ⟨rfl, rfl, rfl, rfl, rfl, rfl, rfl, rfl, rfl⟩

theorem faultTail_fromErase (hn : s.ctc.node = .storeFault) : FaultTail (grantFromErase s) s := by
  have hnot : eraseReady s = false := by simp [eraseReady, hn]
  have hlate : FaultTail (grantLateScrub s) s := by
    unfold grantLateScrub
    split
    · split
      · exact faultTail_scrub ..
      · exact .refl s
    · exact .refl s
  unfold grantFromErase
  split
  · rw [hnot]
    exact hlate
  · exact hlate

theorem faultTail_fromVerify (hn : s.ctc.node = .storeFault) : FaultTail (grantFromVerify s) s := by
  unfold grantFromVerify grantFromHost
  split
  · exact ⟨rfl, rfl, rfl, rfl, rfl, rfl, rfl, rfl, rfl⟩
  · split
    · exact ⟨rfl, rfl, rfl, rfl, rfl, rfl, rfl, rfl, rfl⟩
    · exact faultTail_fromErase hn

theorem faultTail_port (hn : s.ctc.node = .storeFault) : FaultTail (grantPort s) s := by
  unfold grantPort
  split
  · split
    · split
      · exact faultTail_scrub ..
      · exact faultTail_fromVerify hn
    · exact faultTail_fromVerify hn
  · exact .refl s

theorem faultTail_walk (hn : s.ctc.node = .storeFault) : FaultTail (walkProgress s) s := by
  have hend (u : State) : FaultTail (endWalk u) u := by
    rw [endWalk_eq]
    exact ⟨rfl, rfl, rfl, rfl, rfl, rfl, rfl, rfl, rfl⟩
  have hsame (u : State) (h : u.ctc.node = .storeFault) : maybeRunning (endWalk u) = endWalk u :=
    maybeRunning_same fun hl => by rw [(hend u).ctc, h] at hl; exact absurd hl.1 (by decide)
  have hload : FaultTail (endLoadWalk s) s := by
    unfold endLoadWalk
    dsimp only
    rw [hsame _ (by exact hn)]
    exact (hend _).trans ⟨rfl, rfl, rfl, rfl, rfl, rfl, rfl, rfl, rfl⟩
  unfold walkProgress
  split
  · split
    · exact .refl s
    · split
      · split
        · exact .refl s
        · exact hload
      · split
        · exact .refl s
        · exact hend s
  · exact .refl s

theorem faultTail_tail (hn : s.ctc.node = .storeFault) :
    FaultTail (mediaTail s) s ∧ (mediaTail s).rwk = (walkProgress s).rwk := by
  have hw := faultTail_walk hn
  obtain ⟨r, hr⟩ := offerScrub_eq (walkProgress s)
  have hoffer : FaultTail (offerScrub (walkProgress s)) (walkProgress s) := by
    rw [hr]
    exact ⟨rfl, rfl, rfl, rfl, rfl, rfl, rfl, rfl, rfl⟩
  have hnode : (offerScrub (walkProgress s)).ctc.node = .storeFault := by rw [hoffer.ctc, hw.ctc, hn]
  exact ⟨(faultTail_port hnode).trans (hoffer.trans hw), (grantOnly_offered (walkProgress s)).rwk⟩

end Sys2Proof.Machine
end

section
/-! PROOFS. Failed accesses of the catalogue store. -/

namespace Sys2Proof.Machine

variable {c : Instr} {s t u v e : State} {i : Nat} {as bs : List Answer} {key : ShortKey} {sender : NodeId}

/-! ### A command that ends in STORE FAULT -/

/-- The part at the end of a command whose own work left it in STORE FAULT as `e`. -/
structure FaultEnd (e t : State) : Prop where
  pins : t.pins = e.pins
  rck : t.rck = e.rck
  hdu : t.hdu = e.hdu
  pbc : t.pbc = e.pbc
  cnu : t.cnu = e.cnu
  exg : t.exg = e.exg
  evu : t.evu = e.evu
  ctc : t.ctc = e.ctc
  erases : t.mar.erases = e.mar.erases
  granted : t.mar.grantedErase = e.mar.grantedErase
  cursor : t.scs.cursor = e.scs.cursor
  cursorWrites : t.scs.cursorWrites = e.scs.cursorWrites
  dormant : t.scs.waitingDormant = e.scs.waitingDormant
  wake : t.scs.wake = e.scs.wake
  sleep : t.scs.mediaSleep = e.scs.mediaSleep
  rwk : t.rwk = (walkProgress e).rwk
  starting : t.rli.starting = e.rli.starting
  given : ∀ a, Given e a → Given t a

theorem faultEnd_tail (hn : e.ctc.node = .storeFault) : FaultEnd e (linkEnd (mediaTail e)) := by
  obtain ⟨⟨hm, hctc, herases, hgranted, hcursor, hwrites, hdormant, hwake, hsleep⟩, hrwk⟩ := faultTail_tail hn
  have hm : { mediaTail e with rwk := e.rwk, ctc := e.ctc, mar := e.mar, scs := e.scs } = e := hm
  obtain ⟨-, -, hst, -, hgiven⟩ := linkEnd_link (mediaTail e)
  have hrli := mediaTail_rli e
  rw [linkEnd_eq]
  have hpins := congrArg State.pins hm
  have hrck := congrArg State.rck hm
  have hhdu := congrArg State.hdu hm
  have hpbc := congrArg State.pbc hm
  have hcnu := congrArg State.cnu hm
  have hexg := congrArg State.exg hm
  have hevu := congrArg State.evu hm
  refine ⟨hpins, hrck, hhdu, hpbc, hcnu, hexg, hevu, hctc, herases, hgranted, hcursor, hwrites, hdormant, hwake, hsleep, hrwk,
    hst.trans (by rw [hrli]), fun a ha => (hgiven a).mpr ?_⟩
  unfold Given at ha ⊢
  rw [hrli]
  exact ha

theorem runs_fault {p : State → Prop} (hx : exec c s = .next (linkEnd (mediaTail e))) (hn : e.ctc.node = .storeFault)
    (h : ∀ t, FaultEnd e t → p t) : Runs c s p :=
  ⟨_, hx, h _ (faultEnd_tail hn)⟩

/-! ### Failed reads -/

theorem readFailed_on (hp : Powered s) (r : StoreRead) :
    exec (.storeReadFailed r) s = .next (linkEnd (mediaTail (readFails r s))) :=
  (powered_on hp _ : execStoreReadFailed r s = _)

theorem readFails_atReset {r : StoreRead} (hr : isResetRead r = true) (hf : s.ctc.inForce = none) :
    readFails r s = resetReadFails r (enterStoreFault s) := by
  rw [readFails_reset hr, hf]
  rfl

theorem cutEntries_holds (cut : List Nat) (ws : List EntryWrite) (s : State) :
    (cutEntries cut ws s).store.holds = s.store.holds := by
  induction ws generalizing cut s with
  | nil => rfl
  | cons w ws ih =>
    rw [cutEntries_cons]
    split
    · exact ih cut s
    · obtain h | h := landing_cases (storeEntry w) s <;> rw [h, ih]
      rfl

/-- With no slot write outstanding a cut leaves the stored slots. -/
theorem cutWrites_holds (h : s.hdu.writes = []) : (cutWrites s).store.holds = s.store.holds := by
  unfold cutWrites
  dsimp only
  have hw : (cutEntries [] s.ctc.writes s).hdu.writes = [] := by rw [(cutEntries_storeOnly ..).hdu, h]
  have ha := cutEntries_holds [] s.ctc.writes s
  generalize cutEntries [] s.ctc.writes s = a at hw ha ⊢
  have hb : (if a.store.header then cutSlots [] a.hdu.writes a else a) = a := by
    rw [hw]
    exact ite_self a
  rw [hb]
  obtain ⟨-, rf, hc, -⟩ := cutFloor_cut a
  obtain ⟨-, cursor, hd, -⟩ := cutCursor_cut (cutFloor a)
  obtain ⟨-, cfg, he, -⟩ := cutStart_cut (cutCursor (cutFloor a))
  rw [he, hd, hc]
  exact ha

/-- What a part in STORE FAULT, or one that enters it, keeps for the dispatch of a frame. -/
theorem enterStoreFault_keeps (s : State) :
    (enterStoreFault s).ctc.work = s.ctc.work ∧ (enterStoreFault s).pbc = s.pbc ∧ (enterStoreFault s).cnu = s.cnu ∧
      (enterStoreFault s).ctc.inForce = s.ctc.inForce ∧
      (enterStoreFault s).ctc.writes = (if s.ctc.node = .storeFault then s.ctc.writes else []) := by
  by_cases hn : s.ctc.node = .storeFault
  · rw [if_pos hn, show enterStoreFault s = s from if_pos hn]
    exact ⟨rfl, rfl, rfl, rfl, rfl⟩
  · rw [if_neg hn]
    obtain ⟨as, free, slots, walk, heq, -⟩ := enterStoreFault_eq hn
    rw [heq]
    exact ⟨rfl, rfl, rfl, rfl, rfl⟩

theorem sameLists_fault (s : State) : SameLists (popFifo (enterStoreFault s)) s := by
  obtain ⟨-, hpbc, hcnu, hforce, -⟩ := enterStoreFault_keeps s
  exact ⟨by show (enterStoreFault s).cnu.claims = _; rw [hcnu], by show (enterStoreFault s).cnu.candidates = _; rw [hcnu],
    by show (enterStoreFault s).pbc.peers = _; rw [hpbc], hforce⟩

/-- A frame that a failed read passes over leaves the FIFO, and the census' own lists alone take it. -/
theorem runs_passed {p : State → Prop} {f : RxItem} {rest : List RxItem} (hp : Powered s)
    (hq : s.pbc.rxFifo = f :: rest) (hr : readFails .dispatch s = u)
    (hu : withLists u s.cnu.claims s.cnu.candidates = popFifo (enterStoreFault s))
    (h : ∀ t, t.ctc.node = .storeFault ∧ t.pbc = { s.pbc with rxFifo := rest } ∧ t.ctc.work = s.ctc.work ∧
      t.ctc.writes = (if s.ctc.node = .storeFault then s.ctc.writes else []) ∧
      t.cnu = { s.cnu with claims := t.cnu.claims, candidates := t.cnu.candidates } → t.cnu = u.cnu → p t) :
    Runs (.storeReadFailed .dispatch) s p := by
  obtain ⟨hwork, hpbc, hcnu, -, hwrites⟩ := enterStoreFault_keeps s
  have hctc : u.ctc = (enterStoreFault s).ctc := by
    have h := congrArg State.ctc hu
    exact h
  have hupbc : u.pbc = (popFifo (enterStoreFault s)).pbc := by
    have h := congrArg State.pbc hu
    exact h
  have hucnu : ({ u.cnu with claims := s.cnu.claims, candidates := s.cnu.candidates } : Cnu) = (enterStoreFault s).cnu := by
    have h := congrArg State.cnu hu
    exact h
  rw [hcnu] at hucnu
  refine runs_fault (e := u) (by rw [← hr]; exact readFailed_on hp _) (by rw [hctc]; exact enterStoreFault_node s) fun t ht => ?_
  refine h t ⟨by rw [ht.ctc, hctc]; exact enterStoreFault_node s, ?_, by rw [ht.ctc, hctc, hwork],
    by rw [ht.ctc, hctc, hwrites], ?_⟩ ht.cnu
  · rw [ht.pbc, hupbc]
    show ({ (enterStoreFault s).pbc with rxFifo := (enterStoreFault s).pbc.rxFifo.tail } : Pbc) = _
    rw [hpbc, hq]
    rfl
  · rw [ht.cnu]
    exact congrArg (fun x : Cnu => { x with claims := u.cnu.claims, candidates := u.cnu.candidates }) hucnu

theorem readFails_dispatch (s : State) : readFails .dispatch s = passDispatch s := rfl

theorem passDispatch_empty (h : s.pbc.rxFifo = []) : passDispatch s = s := by
  unfold passDispatch
  rw [h]

/-! ### An access of the running node that fails (R11, R12) -/

/-- A write of these that is outstanding, or a read of an entry, fails: the part enters STORE FAULT, and only a failed read
leaves its index in doubt. -/
theorem access_fails {u : State} (hp : Powered s) (hu : enterStoreFault s = u)
    (hc : (∃ record, c = .storeWriteFailed record ∧ writeOutstanding s record = true) ∨
      ∃ i : BitVec 17, c = .storeReadFailed (.entry i)) :
    ∃ un, exec c s = .next (linkEnd (mediaTail { u with ctc := { u.ctc with unread := un } })) ∧
      ∀ i : BitVec 17, c = .storeReadFailed (.entry i) → un = i.toNat :: u.ctc.unread := by
  subst hu
  obtain ⟨record, rfl, hw⟩ | ⟨i, rfl⟩ := hc
  · have hx : exec (.storeWriteFailed record) s = _ := (powered_on hp _ : execStoreWriteFailed record s = _)
    rw [if_pos hw] at hx
    exact ⟨(enterStoreFault s).ctc.unread, hx, fun i h => absurd h nofun⟩
  · refine ⟨_, readFailed_on hp (.entry i), fun j h => ?_⟩
    cases h
    rfl

theorem writeOutstanding_of (h : (∃ i : BitVec 17, c = .storeWriteFailed (.entry i) ∧ ∃ w ∈ s.ctc.writes, w.index = i.toNat) ∨
    (∃ i : BitVec 6, c = .storeWriteFailed (.holdSlot i) ∧ s.store.header = true ∧ ∃ w ∈ s.hdu.writes, w.slot = i.toNat) ∨
    (c = .storeWriteFailed .floor ∧ s.rck.floorWrites ≠ []) ∨ (c = .storeWriteFailed .cursor ∧ s.scs.cursorWrites ≠ []) ∨
    (c = .storeWriteFailed .start ∧ s.rli.starting ≠ none) ∨ (∃ i : BitVec 17, c = .storeReadFailed (.entry i))) :
    (∃ record, c = .storeWriteFailed record ∧ writeOutstanding s record = true) ∨
      ∃ i : BitVec 17, c = .storeReadFailed (.entry i) := by
  obtain ⟨i, hc, h⟩ | ⟨i, hc, hh, h⟩ | ⟨hc, h⟩ | ⟨hc, h⟩ | ⟨hc, h⟩ | h := h
  · exact .inl ⟨_, hc, by simpa [writeOutstanding, isChanging] using h⟩
  · exact .inl ⟨_, hc, by simpa [writeOutstanding, hh] using h⟩
  · exact .inl ⟨_, hc, by simpa [writeOutstanding] using h⟩
  · exact .inl ⟨_, hc, by simpa [writeOutstanding] using h⟩
  · exact .inl ⟨_, hc, by simpa [writeOutstanding, Option.isSome_iff_ne_none] using h⟩
  · exact .inr h

/-- Settles O44. -/
theorem failedStoreAccesses : Obligations.FailedStoreAccesses := by
  unfold Obligations.FailedStoreAccesses
  refine ⟨fun c s hp hn hc => ?_, fun record s hp => ⟨fun hw => ?_, fun hf ha => ?_, fun i hn => ?_, ?_, ?_, ?_, fun hq => ?_⟩⟩
  · obtain ⟨as, free, slots, walk, heq, hsame, -, hwalk, hst, hwait, hent, hslot⟩ := enterStoreFault_eq hn
    obtain ⟨un, hx, hun⟩ := access_fails hp heq (writeOutstanding_of hc)
    refine runs_fault hx rfl fun t ht => ?_
    have hgiven (r : Req) (h : faultAnswer r ∈ as) : Answered t r .storeFault .none :=
      ht.given _ ((pushAnswers_given as (faulted s (cutWrites s).store free slots walk) _).mpr (.inr h))
    refine ⟨by rw [ht.ctc]; rfl, ?_, by rw [ht.ctc]; rfl, by rw [ht.hdu]; rfl, by rw [ht.rck]; rfl, ht.cursorWrites, ht.starting,
      ht.dormant, ht.wake, ht.sleep, ht.granted, ht.erases, by rw [ht.ctc]; rfl, fun i h => by rw [ht.ctc]; exact hun i h,
      fun i h hi => ⟨?_, by rw [ht.ctc]; rfl⟩, fun st h => hgiven _ (hst st h), fun r h => hgiven _ (hwait r h),
      fun w hw r h => hgiven _ (hent w hw r (mem_effectReq h)), fun w hw r h => hgiven _ (hslot w hw r ?_),
      by rw [ht.rck]; rfl, by rw [ht.pbc]; rfl, by rw [ht.cnu]; rfl, by rw [ht.exg]; rfl, by rw [ht.pins]; rfl,
      by rw [ht.hdu]; rfl, by rw [ht.hdu]; rfl, by rw [ht.hdu]; rfl, fun i => ?_⟩
    · rw [ht.evu]
      show (s.evu.flags ||| Event.mask .storeFault).getLsbD 17 = true
      rw [BitVec.getLsbD_or, show (Event.mask .storeFault).getLsbD 17 = true by decide, Bool.or_true]
    · have hw := hwalk _ h rfl
      rw [ht.rwk, walkProgress_load (low := i) (by exact hw.trans h), if_pos (by exact hi)]
      show ({ s.rwk with walk := walk } : Rwk) = s.rwk
      rw [hw]
    · obtain h | h | h := h
      · exact .inl (by rw [h]; rfl)
      · exact .inl (by rw [h]; rfl)
      · exact .inr h
    · unfold slotAt
      rw [ht.hdu]
      exact hsame i
  · have hx : exec (.storeWriteFailed record) s = _ := (powered_on hp _ : execStoreWriteFailed record s = _)
    rw [hx, if_neg (by rw [hw]; exact Bool.false_ne_true)]
  · have hn : s.ctc.node ≠ .storeFault := by rw [ha]; decide
    obtain ⟨as, free, slots, walk, heq, -, hslots, -⟩ := enterStoreFault_eq hn
    have hreset (r : StoreRead) (hr : isResetRead r = true) : exec (.storeReadFailed r) s = .next (linkEnd (mediaTail
        (resetReadFails r (pushAnswers as (faulted s (cutWrites s).store free slots walk))))) := by
      rw [readFailed_on hp, readFails_atReset hr hf, heq]
    refine ⟨runs_fault (hreset .header rfl) rfl fun t ht => ⟨by rw [ht.ctc]; rfl, by rw [ht.rck]; rfl⟩,
      runs_fault (hreset .settings rfl) rfl fun t ht => ⟨by rw [ht.ctc]; rfl, by rw [ht.ctc]; rfl, by rw [ht.pbc]; rfl⟩,
      runs_fault (hreset .floor rfl) rfl fun t ht => ⟨by rw [ht.ctc]; rfl, by rw [ht.rck]; rfl, by rw [ht.ctc]; rfl⟩,
      runs_fault (hreset .highWater rfl) rfl fun t ht => ⟨by rw [ht.ctc]; rfl, by rw [ht.rck]; rfl, by rw [ht.ctc]; rfl⟩,
      runs_fault (hreset .cursor rfl) rfl fun t ht => ⟨by rw [ht.ctc]; rfl, ht.cursor⟩, fun i hw hi => ?_⟩
    have hslot : slotAt (faulted s (cutWrites s).store free slots walk) i.toNat = slotAt s i.toNat := by
      unfold slotAt faulted
      rw [hslots hw]
    have hread : resetReadFails (.holdSlot i) (pushAnswers as (faulted s (cutWrites s).store free slots walk)) =
        setSlot i.toNat none (pushAnswers as (faulted s (cutWrites s).store free slots walk)) := by
      refine if_pos ?_
      show (slotAt (faulted s (cutWrites s).store free slots walk) i.toNat).map HoldSlot.hold =
        (cutWrites s).store.holds.getD i.toNat none
      rw [hslot, cutWrites_holds hw, hi]
    have hx := hreset (.holdSlot i) rfl
    rw [hread] at hx
    refine runs_fault hx rfl fun t ht => ⟨by rw [ht.ctc]; rfl, ?_⟩
    unfold slotAt
    rw [ht.hdu]
    show (slots.set i.toNat none).getD i.toNat none = none
    rw [getD_set_self]
    exact ite_self none
  · refine ends_tail_silent ?_ rfl
    rw [readFailed_on hp]
    show Host.Outcome.next (linkEnd (mediaTail (failRecord i.toNat s))) = _
    unfold failRecord
    rw [show enterStoreFault s = s from if_pos hn]
  · intro i hw hi hn
    obtain ⟨as, free, slots, walk, heq, -⟩ := enterStoreFault_eq (s := s) (by rw [hn]; decide)
    have hx : exec (.storeReadFailed .loadVisit) s = .next (linkEnd (mediaTail (stopLoadWalk s))) := by
      rw [readFailed_on hp, readFails_loadVisit, hw]
      dsimp only
      rw [if_pos (by exact hi)]
    unfold stopLoadWalk at hx
    rw [heq] at hx
    refine runs_fault hx rfl fun t ht => ⟨by rw [ht.ctc]; rfl, by rw [ht.rwk]; rfl, by rw [ht.rwk]; rfl, by rw [ht.ctc],
      by rw [ht.ctc]; rfl, by rw [ht.exg]; rfl⟩
  · intro epoch low before i e after hw hn hc hi hs hb ha
    obtain ⟨as, free, slots, walk, heq, -, -, hwalk, -⟩ := enterStoreFault_eq hn
    have hx : exec (.storeReadFailed .refreshVisit) s = .next (linkEnd (mediaTail (moveOn i (enterStoreFault s)))) := by
      rw [readFailed_on hp, readFails_refreshVisit, hw]
      dsimp only
      rw [nextOccupied_at hc hi hs hb]
    rw [hwalk _ hw rfl, hw] at heq
    rw [heq, moveOn_eq] at hx
    refine runs_fault hx rfl fun t ht => ⟨by rw [ht.ctc]; rfl, ?_, by rw [ht.ctc]; rfl⟩
    have hnext : (nextOccupied s (i + 1)).isSome = true := by
      obtain ⟨p, hp, hlt, ho⟩ := ha
      refine (nextOccupied_isSome s (i + 1)).mpr ⟨p, ?_, hlt, ho⟩
      rw [hc]
      exact List.mem_append_right _ (List.mem_cons_of_mem _ hp)
    rw [ht.rwk, walkProgress_refresh (epoch := epoch) (low := i + 1) rfl]
    rw [if_pos (by exact hnext)]
    rfl
  · intro sender f rest hq passed hpassed
    cases f with
    | haveCopy key now cls =>
      obtain ⟨hlists, hrest⟩ := haveAtLists_lists key sender (popFifo (enterStoreFault s))
      obtain ⟨hcl, hca, -, -⟩ := sameLists_fault s
      rw [hcl, hca] at hrest
      refine runs_passed hp hq (by rw [readFails_dispatch, passDispatch, hq]) hrest fun t ht hcnu => ⟨(hpassed t).mpr ht, ?_⟩
      have h := (sameLists_fault s).haveAtLists hlists
      unfold HaveAtLists at h ⊢
      rw [hcnu]
      exact h
    | drop key reason =>
      obtain ⟨hlists, hrest⟩ := dropAtLists_lists key reason sender (popFifo (enterStoreFault s))
      obtain ⟨hcl, hca, -, -⟩ := sameLists_fault s
      rw [hcl, hca] at hrest
      refine runs_passed hp hq (by rw [readFails_dispatch, passDispatch, hq]) hrest fun t ht hcnu => ⟨(hpassed t).mpr ht, ?_⟩
      have h := (sameLists_fault s).dropAtLists hlists
      unfold DropAtLists at h ⊢
      rw [hcnu]
      exact h
    | want w =>
      obtain ⟨hcl, hca, -, -⟩ := sameLists_fault s
      refine runs_passed hp hq (u := popFifo (enterStoreFault s)) (by rw [readFails_dispatch, passDispatch, hq]) ?_
        fun t ht hcnu => ⟨(hpassed t).mpr ht, ?_⟩
      · rw [← hcl, ← hca]
        rfl
      · obtain ⟨-, -, hsame, -⟩ := enterStoreFault_keeps s
        rw [hcnu, ← hsame]
        rfl
    | _ =>
      refine ends_tail_silent ?_ rfl
      rw [readFailed_on hp, readFails_dispatch]
      unfold passDispatch
      rw [hq]
  · refine ends_tail_silent ?_ rfl
    rw [readFailed_on hp, readFails_dispatch, passDispatch_empty hq]

end Sys2Proof.Machine
end

section
/-! PROOFS. The grants of a freed Send Queue slot, producer by producer. -/

namespace Sys2Proof.Machine

variable {c : Instr} {s t u v : State} {i : Nat} {e : Entry}

/-! ### The queue's order (R95) -/

theorem insertSend_at {q : SendItem} {before after : List SendItem} (hb : ∀ x ∈ before, x.kind ≤ q.kind)
    (ha : ∀ x ∈ after.head?, q.kind < x.kind) : insertSend q (before ++ after) = before ++ q :: after := by
  induction before with
  | nil =>
    cases after with
    | nil => rfl
    | cons x xs => exact if_pos (ha x rfl)
  | cons y ys ih =>
    have hy : ¬ q.kind < y.kind := BitVec.not_lt.mpr (hb y List.mem_cons_self)
    rw [List.cons_append, insertSend, if_neg hy, ih fun x hx => hb x (List.mem_cons_of_mem _ hx)]
    rfl

theorem sendItem_kind (q : SendItem) : q.kind = match q.content with | .beacon => 6 | .frame f => kindOf f := rfl

theorem enqueue_length (q : SendItem) (s : State) : (enqueue q s).pbc.sendQueue.length = s.pbc.sendQueue.length + 1 :=
  length_insertSend ..

/-! ### CNU's grant (R140) -/

/-- The part with this repair list. -/
def withRepairs (s : State) (l : List Nat) : State := { s with cnu := { s.cnu with repairs := l } }

/-- Whether an owed WANT of this entry is dropped from the Appeal List on the way of a grant. -/
def wantFalls (s : State) (a : Appeal) : Bool :=
  a.wantOwed && !skips s a.index && !appealable s (entryAt s a.index)

theorem wantFalls_iff (s : State) (a : Appeal) : wantFalls s a = true ↔
    a.wantOwed = true ∧ ¬ Unreadable s a.index ∧ ¬ AppealDue s (entryAt s a.index) := by
  unfold wantFalls
  rw [Bool.and_eq_true, Bool.and_eq_true, Bool.not_eq_true', Bool.not_eq_true', ← Bool.not_eq_true, ← Bool.not_eq_true,
    skips_iff, appealable_iff, and_assoc]

/-- Appeal List entries that a grant passes by, or drops. -/
def WantsPass (s : State) (as : List Appeal) : Prop :=
  ∀ a ∈ as, a.wantOwed = true → Unreadable s a.index ∨ ¬ AppealDue s (entryAt s a.index)

/-- The Appeal List without the indices that a grant has dropped on its way through these entries. -/
def withoutFallen (s : State) (as l : List Appeal) : List Appeal :=
  l.filter fun x => as.all fun a => !(wantFalls s a && decide (x.index = a.index))

theorem withoutFallen_nil (s : State) (l : List Appeal) : withoutFallen s [] l = l :=
  List.filter_eq_self.mpr fun _ _ => rfl

theorem grantWant_append (before as : List Appeal) (s : State) (h : WantsPass s before) :
    grantWant (before ++ as) s = grantWant as (withAppeals s (withoutFallen s before s.cnu.appeals)) := by
  induction before generalizing s with
  | nil =>
    rw [withoutFallen_nil]
    rfl
  | cons a rest ih =>
    have hrest : WantsPass s rest := fun x hx => h x (List.mem_cons_of_mem _ hx)
    have ha := h a List.mem_cons_self
    rw [List.cons_append, grantWant]
    by_cases hp : a.wantOwed = true ∧ ¬ Unreadable s a.index
    · have hdue : ¬ appealable s (entryAt s a.index) = true := mt (appealable_iff ..).mp ((ha hp.1).resolve_left hp.2)
      have hskip : ¬ skips s a.index = true := mt (skips_iff ..).mp hp.2
      have hf : wantFalls s a = true := (wantFalls_iff s a).mpr ⟨hp.1, hp.2, (ha hp.1).resolve_left hp.2⟩
      rw [if_neg (by simp [hp.1, hskip]), if_neg hdue, ih (removeAppeal a.index s) hrest]
      have hlist : withoutFallen s rest (s.cnu.appeals.filter fun x => decide (x.index ≠ a.index)) =
          withoutFallen s (a :: rest) s.cnu.appeals := by
        unfold withoutFallen
        rw [List.filter_filter]
        refine List.filter_congr fun x _ => ?_
        rw [List.all_cons, hf, Bool.true_and, Bool.and_comm, decide_not]
      exact congrArg (fun l => grantWant as (withAppeals s l)) hlist
    · have hf : wantFalls s a = false :=
        Bool.not_eq_true _ ▸ mt (wantFalls_iff s a).mp fun hf => hp ⟨hf.1, hf.2.1⟩
      rw [if_pos (by simpa [skips_iff, imp_iff_not_or] using hp), ih s hrest]
      unfold withoutFallen
      simp only [List.all_cons, hf, Bool.false_and, Bool.not_false, Bool.true_and]

theorem grantWant_passed (h : WantsPass s s.cnu.appeals) :
    grantWant s.cnu.appeals s = (withAppeals s (withoutFallen s s.cnu.appeals s.cnu.appeals), false) := by
  have h := grantWant_append s.cnu.appeals [] s h
  rw [List.append_nil] at h
  exact h

/-- Where no index is named twice, the dropped indices are those of the owed WANTs of the entries passed. -/
theorem withoutFallen_nodup {before after : List Appeal} (hd : ((before ++ after).map Appeal.index).Nodup)
    (h : WantsPass s before) : withoutFallen s before (before ++ after) =
      (before.filter fun a => decide (a.wantOwed = true → Unreadable s a.index)) ++ after := by
  have hinj := List.inj_on_of_nodup_map hd
  unfold withoutFallen
  rw [List.filter_append]
  congr 1
  · refine List.filter_congr fun x hx => ?_
    rw [Bool.eq_iff_iff, List.all_eq_true, decide_eq_true_iff]
    have hiff : wantFalls s x = false ↔ (x.wantOwed = true → Unreadable s x.index) := by
      rw [← Bool.not_eq_true, wantFalls_iff]
      constructor
      · intro hf ho
        exact (h x hx ho).elim id fun hdue => by_contra fun hu => hf ⟨ho, hu, hdue⟩
      · exact fun hu hf => hf.2.1 (hu hf.1)
    rw [← hiff]
    constructor
    · intro hall
      have hx' := hall x hx
      rw [decide_eq_true rfl, Bool.and_true, Bool.not_eq_true'] at hx'
      exact hx'
    · intro hf a ha
      by_cases hi : x.index = a.index
      · rw [← hinj (List.mem_append_left _ hx) (List.mem_append_left _ ha) hi, hf]
        rfl
      · rw [decide_eq_false hi, Bool.and_false]
        rfl
  · refine List.filter_eq_self.mpr fun x hx => List.all_eq_true.mpr fun a ha => ?_
    have hi : x.index ≠ a.index := fun hi => by
      have hperm := List.nodup_append.mp (by rw [List.map_append] at hd; exact hd)
      exact hperm.2.2 _ (List.mem_map_of_mem ha) _ (List.mem_map_of_mem hx) hi.symm
    rw [decide_eq_false hi, Bool.and_false]
    rfl

/-- The entries left when a grant has passed owe no WANT that can be read. -/
theorem withoutFallen_pass (h : WantsPass s s.cnu.appeals) (a : Appeal)
    (ha : a ∈ withoutFallen s s.cnu.appeals s.cnu.appeals) (ho : a.wantOwed = true) : Unreadable s a.index := by
  obtain ⟨hmem, hall⟩ := List.mem_filter.mp ha
  have hf := List.all_eq_true.mp hall a hmem
  rw [decide_eq_true rfl, Bool.and_true, Bool.not_eq_true', ← Bool.not_eq_true, wantFalls_iff] at hf
  exact (h a hmem ho).elim id fun hdue => by_contra fun hu => hf ⟨ho, hu, hdue⟩

/-! ### Repairs -/

/-- The indices of a repair list whose record cannot be read. -/
def unreadRepairs (s : State) (is : List Nat) : List Nat := is.filter fun i => decide (Unreadable s i)

/-- Repair list indices that a grant passes by, or drops. -/
def RepairsPass (s : State) (is : List Nat) : Prop := ∀ j ∈ is, Unreadable s j ∨ ¬ ScrubbableAt s j

theorem unreadRepairs_cons_of {j : Nat} (h : Unreadable s j) (is : List Nat) :
    unreadRepairs s (j :: is) = j :: unreadRepairs s is := List.filter_cons_of_pos (by simpa using h)

theorem unreadRepairs_cons_not {j : Nat} (h : ¬ Unreadable s j) (is : List Nat) :
    unreadRepairs s (j :: is) = unreadRepairs s is := List.filter_cons_of_neg (by simpa using h)

theorem erase_passed {j : Nat} {front is : List Nat} (hd : ∀ x ∈ front, Unreadable s x) (hu : ¬ Unreadable s j) :
    (front ++ j :: is).erase j = front ++ is := by
  rw [List.erase_append_right _ fun h => hu (hd j h), List.erase_cons_head]

theorem grantRepair_append (before is front : List Nat) (s : State) (h : RepairsPass s before)
    (hd : ∀ j ∈ front, Unreadable s j) :
    grantRepair (before ++ is) (withRepairs s (front ++ (before ++ is))) =
      grantRepair is (withRepairs s (front ++ (unreadRepairs s before ++ is))) := by
  induction before generalizing front with
  | nil => rfl
  | cons j rest ih =>
    have hrest : RepairsPass s rest := fun x hx => h x (List.mem_cons_of_mem _ hx)
    rw [List.cons_append, grantRepair]
    by_cases hu : Unreadable s j
    · rw [if_pos (by exact (skips_iff s j).mpr hu), unreadRepairs_cons_of hu]
      have hgo := ih (front ++ [j]) hrest fun x hx => (List.mem_append.mp hx).elim (hd x) fun h => List.mem_singleton.mp h ▸ hu
      simp only [List.append_assoc, List.cons_append, List.nil_append] at hgo ⊢
      exact hgo
    · have hnot : ¬ storedCopy (entryAt s j).state = true := mt (storedCopy_iff _).mp
        ((h j List.mem_cons_self).resolve_left hu)
      rw [if_neg (by exact mt (skips_iff s j).mp hu), unreadRepairs_cons_not hu]
      dsimp only
      rw [if_neg (by exact hnot), ← ih front hrest hd]
      exact congrArg (fun l => grantRepair (rest ++ is) (withRepairs s l)) (erase_passed hd hu)

theorem grantRepair_passed (h : RepairsPass s s.cnu.repairs) :
    grantRepair s.cnu.repairs s = (withRepairs s (unreadRepairs s s.cnu.repairs), false) := by
  have h := grantRepair_append s.cnu.repairs [] [] s h fun _ hj => absurd hj List.not_mem_nil
  rw [List.append_nil, List.nil_append, List.append_nil, List.nil_append] at h
  exact h

/-- The grant of the first repair HAVE that can be read and is to be made. -/
theorem grantRepair_taken {before after : List Nat} (hr : s.cnu.repairs = before ++ i :: after) (h : RepairsPass s before)
    (hu : ¬ Unreadable s i) (hs : ScrubbableAt s i) : grantRepair s.cnu.repairs s =
      (enqueueRepair i (withRepairs s (unreadRepairs s before ++ after)), true) := by
  have hgo := grantRepair_append before (i :: after) [] s h fun _ hj => absurd hj List.not_mem_nil
  rw [List.nil_append, List.nil_append, ← hr] at hgo
  refine Eq.trans hgo ?_
  rw [grantRepair, if_neg (by exact mt (skips_iff s i).mp hu)]
  dsimp only
  rw [if_pos (by exact (storedCopy_iff _).mpr hs)]
  exact congrArg (fun l => (enqueueRepair i (withRepairs s l), true))
    (erase_passed (fun x hx => by simpa using (List.mem_filter.mp hx).2) hu)

/-- The grant of the first owed WANT that can be read and is due. -/
theorem grantWant_taken {before after : List Appeal} {a : Appeal} (hr : s.cnu.appeals = before ++ a :: after)
    (hd : (s.cnu.appeals.map Appeal.index).Nodup) (h : WantsPass s before) (ho : a.wantOwed = true)
    (hu : ¬ Unreadable s a.index) (hs : AppealDue s (entryAt s a.index)) : grantWant s.cnu.appeals s =
      (enqueueFrame (wantOf s (entryAt s a.index)) (withAppeals s
        ((before.filter fun a => decide (a.wantOwed = true → Unreadable s a.index)) ++ { a with wantOwed := false } :: after)),
        true) := by
  rw [hr] at hd
  have hgo := grantWant_append before (a :: after) s h
  rw [hr, withoutFallen_nodup hd h] at hgo
  have hgoes : ¬ (!a.wantOwed || skips s a.index) = true := by
    rw [ho, Bool.not_true, Bool.false_or]
    exact mt (skips_iff s a.index).mp hu
  rw [hr, hgo, grantWant, if_neg (by exact hgoes), if_pos (by exact (appealable_iff ..).mpr hs)]
  have hinj := List.nodup_append.mp (by rw [List.map_append] at hd; exact hd)
  have hupdate := updateFirst_append_cons (p := fun x : Appeal => decide (x.index = a.index))
    (fun x => { x with wantOwed := false }) (back := after) (x := a)
    (front := before.filter fun a => decide (a.wantOwed = true → Unreadable s a.index))
    (fun x hx => decide_eq_false (hinj.2.2 _ (List.mem_map_of_mem (List.mem_filter.mp hx).1) _
      (by rw [List.map_cons]; exact List.mem_cons_self))) (decide_eq_true rfl)
  exact congrArg (fun l => (enqueueFrame (wantOf s (entryAt s a.index)) (withAppeals s l), true)) hupdate

/-! ### The grant as a whole (R98) -/

/-- Nothing of the Hold Table, of CTC or of the claims is owed a slot. -/
structure NothingOwed (s : State) : Prop where
  hdu : grantHdu s = none
  ctc : grantCtc s = none
  claims : s.cnu.claims.find? Claim.owed = none

theorem grantOne_closed (h : canOffer s = false) : grantOne s = s := if_neg (by rw [h]; exact Bool.false_ne_true)

theorem grantOne_hdu (ho : canOffer s = true) (h : grantHdu s = some t) : grantOne s = t := by
  unfold grantOne
  rw [if_pos ho, h]

theorem grantOne_ctc (ho : canOffer s = true) (hh : grantHdu s = none) (h : grantCtc s = some t) : grantOne s = t := by
  unfold grantOne
  rw [if_pos ho, hh, h]

theorem grantOne_cnu (ho : canOffer s = true) (hh : grantHdu s = none) (h : grantCtc s = none) : grantOne s = grantCnu s := by
  unfold grantOne
  rw [if_pos ho, hh, h]

theorem grantCnu_claim {cl : Claim} (h : s.cnu.claims.find? Claim.owed = some cl) : grantCnu s =
    enqueueFrame (.claim cl.key) (updateClaim cl.key (fun c => { c with owed := false }) s) := by
  unfold grantCnu
  rw [h]

theorem grantCnu_want (h : s.cnu.claims.find? Claim.owed = none) (hw : grantWant s.cnu.appeals s = (t, true)) :
    grantCnu s = t := by
  unfold grantCnu
  rw [h, hw]

theorem grantCnu_repair (h : s.cnu.claims.find? Claim.owed = none) (hw : grantWant s.cnu.appeals s = (t, false)) :
    grantCnu s = (grantRepair t.cnu.repairs t).1 := by
  unfold grantCnu
  rw [h, hw]

/-- A grant that makes no frame drops what no longer qualifies from CNU's lists. -/
theorem grantOne_passed (ho : canOffer s = true) (hn : NothingOwed s) (hw : WantsPass s s.cnu.appeals)
    (hr : RepairsPass s s.cnu.repairs) : grantOne s =
      withRepairs (withAppeals s (withoutFallen s s.cnu.appeals s.cnu.appeals)) (unreadRepairs s s.cnu.repairs) := by
  rw [grantOne_cnu ho hn.hdu hn.ctc, grantCnu_repair hn.claims (grantWant_passed hw)]
  have h := grantRepair_passed (s := withAppeals s (withoutFallen s s.cnu.appeals s.cnu.appeals)) hr
  rw [h]
  rfl

theorem grantHdu_none_iff (s : State) : grantHdu s = none ↔
    (∀ l ∈ s.hdu.lifted, l.owed = false) ∧ ∀ h, some h ∈ s.hdu.slots → h.sendOwed = false := by
  have hslots : s.hdu.slots.findIdx? (fun slot => (slot.map HoldSlot.sendOwed).getD false) = none ↔
      ∀ h, some h ∈ s.hdu.slots → h.sendOwed = false := by
    rw [List.findIdx?_eq_none_iff]
    exact ⟨fun hs h hm => hs _ hm, fun hs x hm => by cases x with | none => rfl | some h => exact hs h hm⟩
  rw [← hslots]
  unfold grantHdu
  cases hl : s.hdu.lifted.find? Lifted.owed with
  | some l =>
    refine ⟨fun h => absurd h nofun, fun h => ?_⟩
    have := h.1 l (List.mem_of_find?_eq_some hl)
    rw [List.find?_some hl] at this
    cases this
  | none =>
    dsimp only
    have hall : ∀ l ∈ s.hdu.lifted, l.owed = false := fun l hm => by simpa using List.find?_eq_none.mp hl l hm
    cases hi : s.hdu.slots.findIdx? (fun slot => (slot.map HoldSlot.sendOwed).getD false) with
    | none => exact ⟨fun _ => ⟨hall, rfl⟩, fun _ => rfl⟩
    | some i =>
      dsimp only
      obtain ⟨hlen, hp, -⟩ := List.findIdx?_eq_some_iff_getElem.mp hi
      cases hs : slotAt s i with
      | some h => exact ⟨fun h => absurd h nofun, fun h => absurd h.2 nofun⟩
      | none =>
        rw [slotAt, List.getD_eq_getElem?_getD, List.getElem?_eq_getElem hlen, Option.getD_some] at hs
        rw [hs] at hp
        cases hp

theorem grantCtc_none_iff (s : State) : grantCtc s = none ↔ ∀ p ∈ s.ctc.work, ¬ grantable s p = true := by
  rw [← List.find?_eq_none]
  unfold grantCtc
  cases s.ctc.work.find? (grantable s) <;> simp

theorem putEntry_pbc (i : Nat) (e : Entry) (s : State) : (putEntry i e s).pbc = s.pbc := by
  have h := congrArg State.pbc (changeEntry_holdOnly i e (changeCauses (entryAt s i) e) [] s).1
  exact h

theorem grantHdu_length (h : grantHdu s = some t) : t.pbc.sendQueue.length = s.pbc.sendQueue.length + 1 := by
  unfold grantHdu at h
  split at h
  · cases h
    exact enqueue_length ..
  · split at h
    · split at h
      · cases h
        exact enqueue_length ..
      · cases h
    · cases h

theorem grantCtc_length (h : grantCtc s = some t) : t.pbc.sendQueue.length = s.pbc.sendQueue.length + 1 := by
  unfold grantCtc at h
  split at h
  · cases h
    unfold sendOwed
    dsimp only
    split
    · rw [returnIndex_pbc, putEntry_pbc, enqueue_length]
    · rw [putEntry_pbc, enqueue_length]
  · cases h

/-- CNU's owed WANTs give a frame, or all of them are passed. -/
theorem grantWant_cases (as : List Appeal) (s : State) :
    (∃ t, grantWant as s = (t, true) ∧ t.pbc.sendQueue.length = s.pbc.sendQueue.length + 1) ∨ WantsPass s as := by
  induction as generalizing s with
  | nil => exact .inr fun _ h => absurd h List.not_mem_nil
  | cons a as ih =>
    have hcons (h : a.wantOwed = true → Unreadable s a.index ∨ ¬ AppealDue s (entryAt s a.index)) (hp : WantsPass s as) :
        WantsPass s (a :: as) := List.forall_mem_cons.mpr ⟨h, hp⟩
    rw [grantWant]
    by_cases hg : (!a.wantOwed || skips s a.index) = true
    · rw [if_pos hg]
      refine (ih s).imp_right (hcons fun ho => .inl ?_)
      rw [ho, Bool.not_true, Bool.false_or] at hg
      exact (skips_iff ..).mp hg
    · rw [if_neg hg]
      by_cases hd : appealable s (entryAt s a.index) = true
      · rw [if_pos hd]
        exact .inl ⟨_, rfl, enqueue_length ..⟩
      · rw [if_neg hd]
        exact (ih (removeAppeal a.index s)).imp_right (hcons fun _ => .inr (mt (appealable_iff ..).mpr hd))

/-- CNU's repairs give a frame, or all of them are passed. -/
theorem grantRepair_cases (is : List Nat) (s : State) :
    (grantRepair is s).1.pbc.sendQueue.length = s.pbc.sendQueue.length + 1 ∨ RepairsPass s is := by
  induction is generalizing s with
  | nil => exact .inr fun _ h => absurd h List.not_mem_nil
  | cons i is ih =>
    have hcons (h : Unreadable s i ∨ ¬ ScrubbableAt s i) (hp : RepairsPass s is) : RepairsPass s (i :: is) :=
      List.forall_mem_cons.mpr ⟨h, hp⟩
    rw [grantRepair]
    by_cases hg : skips s i = true
    · rw [if_pos hg]
      exact (ih s).imp_right (hcons (.inl ((skips_iff ..).mp hg)))
    · rw [if_neg hg]
      dsimp only
      by_cases hd : storedCopy (entryAt s i).state = true
      · rw [if_pos (by exact hd)]
        exact .inl (enqueue_length ..)
      · rw [if_neg (by exact hd)]
        exact (ih (withRepairs s (s.cnu.repairs.erase i))).imp_right (hcons (.inr (mt (storedCopy_iff _).mpr hd)))

/-- A grant that has passed everything passes it again. -/
theorem grantOne_again (ho : canOffer s = true) (hn : NothingOwed s) (hw : WantsPass s s.cnu.appeals)
    (hr : RepairsPass s s.cnu.repairs) :
    grantOne (grantOne s) = grantOne s ∧ (grantOne s).pbc.sendQueue.length = s.pbc.sendQueue.length := by
  rw [grantOne_passed ho hn hw hr]
  refine ⟨?_, rfl⟩
  obtain ⟨hh, hc, hcl⟩ := hn
  generalize ha : withoutFallen s s.cnu.appeals s.cnu.appeals = as
  have hpass : ∀ a ∈ as, a.wantOwed = true → Unreadable s a.index := by
    rw [← ha]
    exact withoutFallen_pass hw
  generalize hu : unreadRepairs s s.cnu.repairs = is
  have hunread : ∀ j ∈ is, Unreadable s j := by
    rw [← hu]
    exact fun j hj => by simpa using (List.mem_filter.mp hj).2
  have hagain := grantOne_passed (s := withRepairs (withAppeals s as) is) ho
    ⟨(grantHdu_none_iff _).mpr ((grantHdu_none_iff s).mp hh), (grantCtc_none_iff _).mpr ((grantCtc_none_iff s).mp hc), hcl⟩
    (fun a h hwo => .inl (hpass a h hwo)) (fun j h => .inl (hunread j h))
  rw [hagain]
  have has : withoutFallen (withRepairs (withAppeals s as) is) as as = as := List.filter_eq_self.mpr fun x _ =>
    List.all_eq_true.mpr fun a ha => by
      have hf : wantFalls s a = false := Bool.not_eq_true _ ▸ mt (wantFalls_iff s a).mp fun hf => hf.2.1 (hpass a ha hf.1)
      rw [show wantFalls (withRepairs (withAppeals s as) is) a = wantFalls s a from rfl, hf]
      rfl
  have his : unreadRepairs (withRepairs (withAppeals s as) is) is = is :=
    List.filter_eq_self.mpr fun j hj => decide_eq_true (hunread j hj)
  show withRepairs (withAppeals _ (withoutFallen (withRepairs (withAppeals s as) is) as as))
    (unreadRepairs (withRepairs (withAppeals s as) is) is) = _
  rw [has, his]
  rfl

/-- A grant makes one frame, or drops what no longer qualifies, as often as it is given. -/
theorem grantOne_cases (s : State) :
    (grantOne (grantOne s) = grantOne s ∧ (grantOne s).pbc.sendQueue.length = s.pbc.sendQueue.length) ∨
    (grantOne s).pbc.sendQueue.length = s.pbc.sendQueue.length + 1 := by
  cases ho : canOffer s with
  | false =>
    rw [grantOne_closed ho, grantOne_closed ho]
    exact .inl ⟨rfl, rfl⟩
  | true =>
    cases hh : grantHdu s with
    | some t =>
      rw [grantOne_hdu ho hh]
      exact .inr (grantHdu_length hh)
    | none =>
      cases hc : grantCtc s with
      | some t =>
        rw [grantOne_ctc ho hh hc]
        exact .inr (grantCtc_length hc)
      | none =>
        cases hcl : s.cnu.claims.find? Claim.owed with
        | some cl =>
          rw [grantOne_cnu ho hh hc, grantCnu_claim hcl]
          exact .inr (enqueue_length ..)
        | none =>
          obtain ⟨t, hw, hlen⟩ | hw := grantWant_cases s.cnu.appeals s
          · rw [grantOne_cnu ho hh hc, grantCnu_want hcl hw]
            exact .inr hlen
          · obtain hlen | hr := grantRepair_cases s.cnu.repairs s
            · rw [grantOne_cnu ho hh hc, grantCnu_repair hcl (grantWant_passed hw)]
              refine .inr ?_
              obtain h | h := grantRepair_cases s.cnu.repairs (withAppeals s (withoutFallen s s.cnu.appeals s.cnu.appeals))
              · exact h
              · have hp : RepairsPass s s.cnu.repairs := h
                rw [grantRepair_passed hp] at hlen
                exact absurd hlen (Nat.ne_of_lt (Nat.lt_succ_self _))
            · exact .inl (grantOne_again ho ⟨hh, hc, hcl⟩ hw hr)

end Sys2Proof.Machine
end

section
/-! PROOFS. Sent frames, and to whom a freed slot is granted. -/

namespace Sys2Proof.Machine

variable {c : Instr} {s t u v : State} {i : Nat} {e : Entry}

/-! ### HDU's grant (R62) -/

theorem grantHdu_lift {before after : List Lifted} {l : Lifted} (hl : s.hdu.lifted = before ++ l :: after)
    (ho : l.owed = true) (hb : ∀ x ∈ before, x.owed = false) (hm : ∀ x ∈ before, x.matter ≠ l.matter) :
    grantHdu s = some { s with
      hdu := { s.hdu with lifted := before ++ { l with owed := false } :: after }
      pbc := { s.pbc with sendQueue := insertSend { content := .frame (.lift l.matter l.time) } s.pbc.sendQueue } } := by
  have hfind : s.hdu.lifted.find? Lifted.owed = some l := by
    rw [hl, List.find?_append, List.find?_eq_none.mpr fun x hx => by rw [hb x hx]; exact Bool.false_ne_true,
      List.find?_cons_of_pos ho]
    rfl
  unfold grantHdu updateLifted
  rw [hfind]
  dsimp only
  rw [hl, updateFirst_append_cons (fun l : Lifted => { l with owed := false }) (fun y hy => decide_eq_false (hm y hy))
    (decide_eq_true rfl)]
  rfl

theorem grantHdu_hold {front back : List (Option HoldSlot)} {h : HoldSlot} (hl : ∀ l ∈ s.hdu.lifted, l.owed = false)
    (hs : s.hdu.slots = front ++ some h :: back) (ho : h.sendOwed = true) (hf : ∀ x, some x ∈ front → x.sendOwed = false) :
    grantHdu s = some { s with
      hdu := { s.hdu with slots := front ++ some { h with sendOwed := false } :: back }
      pbc := { s.pbc with sendQueue := insertSend { content := .frame (holdFrame h.hold) } s.pbc.sendQueue } } := by
  have hfind : s.hdu.lifted.find? Lifted.owed = none :=
    List.find?_eq_none.mpr fun x hx => by rw [hl x hx]; exact Bool.false_ne_true
  have hidx : s.hdu.slots.findIdx? (fun slot => (slot.map HoldSlot.sendOwed).getD false) = some front.length := by
    rw [hs]
    exact findIdx?_append_cons (fun y hy => by cases y with | none => rfl | some x => exact hf x hy) ho
  unfold grantHdu updateSlot setSlot
  rw [hfind]
  dsimp only
  rw [hidx]
  dsimp only
  rw [slotAt_first hs, hs]
  simp only [List.set_append_right _ _ (Nat.le_refl _), Nat.sub_self, List.set_cons_zero]
  rfl

/-! ### CTC's grant (R29) -/

theorem grantable_iff (s : State) (p : Nat × Entry) : grantable s p = true ↔
    p.1 < s.ctc.loaded ∧ p.2.owed ≠ .nothing ∧ ¬ Unreadable s p.1 ∧
      (p.2.owed = .haveFrame → ∀ q ∈ s.ctc.work, (s.ctc.loadStopped = true → q.1 < s.ctc.loaded) →
        q.2.state = .free → q.2.owed = .dropFrame → q.2.shortKey ≠ p.2.shortKey) := by
  rw [← heldBack_iff, grantable, ← skips_iff]
  by_cases hh : p.2.owed = .haveFrame <;> simp [hh, and_assoc, and_comm, and_left_comm]

theorem owedFrame_eq (e : Entry) : owedFrame e = if e.owed = .dropFrame then
    PeerFrame.drop e.shortKey (if e.state = .free then .disposed else .damaged) else .haveCopy e.shortKey e.lodgeTime e.cls := by
  unfold owedFrame haveOf
  cases e.owed <;> rfl

theorem putEntry_freed (h : (entryAt s i).state = .free) : putEntry i {} s = nowOwes i {} s :=
  putEntry_quiet (by simp [changeCauses, h]) (by rw [h])

theorem grantCtc_at {before after : Cat} {p : Nat × Entry} {f : PeerFrame} (wf : catWf s.ctc.work = true)
    (hc : s.ctc.work = before ++ p :: after) (hp : grantable s p = true) (hb : ∀ x ∈ before, ¬ grantable s x = true)
    (he : e = if p.2.state = .free then {} else { p.2 with owed := .nothing }) (hf : f = owedFrame p.2) :
    grantCtc s = some { s with
      ctc := { s.ctc with
        work := catSet s.ctc.work p.1 e
        writes := if s.ctc.node = .storeFault then s.ctc.writes else s.ctc.writes ++ [{ index := p.1, entry := e }]
        freeList := if p.2.state = .free then insertIndex p.1 s.ctc.freeList else s.ctc.freeList }
      pbc := { s.pbc with sendQueue := (insertSend
        { content := .frame f, producer := .announcement p.1 false } s.pbc.sendQueue) } } := by
  obtain ⟨j, e₀⟩ := p
  have hfind : s.ctc.work.find? (grantable s) = some (j, e₀) := by
    rw [hc, List.find?_append, List.find?_eq_none.mpr hb, List.find?_cons_of_pos hp]
    rfl
  have hat : entryAt s j = e₀ := catGet_of_mem wf (by rw [hc]; exact List.mem_append_right _ List.mem_cons_self)
  unfold grantCtc
  rw [hfind]
  dsimp only at he ⊢
  subst hf
  unfold sendOwed
  dsimp only
  by_cases hs : e₀.state = .free
  · rw [if_pos hs] at he ⊢
    subst he
    have hput := putEntry_freed (i := j)
      (s := enqueue { content := .frame (owedFrame e₀), producer := .announcement j false } s) (by exact hat ▸ hs)
    rw [if_pos hs, show freeEntry = {} from rfl, hput, returnIndex_cleared (by exact catGet_catSet_self j {} wf)]
    rfl
  · rw [if_neg hs] at he ⊢
    subst he hat
    have hput := putEntry_owed (i := j)
      (s := enqueue { content := .frame (owedFrame (entryAt s j)), producer := .announcement j false } s) .nothing
    rw [if_neg hs]
    exact congrArg some hput

/-! ### CNU's grant (R140) -/

theorem grantCnu_claimed {before after : List Claim} {cl : Claim} (hc : s.cnu.claims = before ++ cl :: after)
    (ho : cl.owed = true) (hb : ∀ x ∈ before, x.owed = false) (hk : ∀ x ∈ before, x.key ≠ cl.key) :
    grantCnu s = { s with
      cnu := { s.cnu with claims := before ++ { cl with owed := false } :: after }
      pbc := { s.pbc with sendQueue := insertSend { content := .frame (.claim cl.key) } s.pbc.sendQueue } } := by
  have hfind : s.cnu.claims.find? Claim.owed = some cl := by
    rw [hc, List.find?_append, List.find?_eq_none.mpr fun x hx => by rw [hb x hx]; exact Bool.false_ne_true,
      List.find?_cons_of_pos ho]
    rfl
  rw [grantCnu_claim hfind]
  unfold updateClaim
  rw [hc, updateFirst_append_cons (fun c : Claim => { c with owed := false }) (fun y hy => decide_eq_false (hk y hy))
    (decide_eq_true rfl)]
  rfl

/-! ### The change of the counts (R111) -/

/-- The part with these counts and this confinement state, its caution level and BUS_STATE with them. -/
def counted (send recv : Nat) (conf : Confinement) (s : State) : State :=
  { s with
    pbc := { s.pbc with
      sendCount := send, recvCount := recv, confinement := conf, caution := decide (60 ≤ send ∨ 60 ≤ recv)
      restrainedWait := s.pbc.restrainedWait && decide (conf = .restrained) }
    evu := { s.evu with flags :=
      if ((60 ≤ send ∨ 60 ≤ recv) ∧ s.pbc.caution = false) ∨ (conf ≠ s.pbc.confinement ∧ conf ≠ .voiced) then
        s.evu.flags ||| 0x000200 else s.evu.flags } }

theorem setCounts_eq (send recv : Nat) (hs : s.pbc.confinement ≠ .silent) : setCounts send recv s =
    if nextConfinement s.pbc.confinement send recv = .silent then
      enterSilent (counted send recv (nextConfinement s.pbc.confinement send recv) s)
    else counted send recv (nextConfinement s.pbc.confinement send recv) s := by
  have hev : (if (cautionOf send recv = true ∧ (!s.pbc.caution) = true) ∨
      (nextConfinement s.pbc.confinement send recv ≠ s.pbc.confinement ∧
        nextConfinement s.pbc.confinement send recv ≠ .voiced) then
      raise .busState { s with pbc := { s.pbc with
        sendCount := send, recvCount := recv, confinement := nextConfinement s.pbc.confinement send recv
        caution := cautionOf send recv
        restrainedWait := s.pbc.restrainedWait && decide (nextConfinement s.pbc.confinement send recv = .restrained) } }
      else { s with pbc := { s.pbc with
        sendCount := send, recvCount := recv, confinement := nextConfinement s.pbc.confinement send recv
        caution := cautionOf send recv
        restrainedWait := s.pbc.restrainedWait && decide (nextConfinement s.pbc.confinement send recv = .restrained) } }) =
      counted send recv (nextConfinement s.pbc.confinement send recv) s := by
    have hiff : (cautionOf send recv = true ∧ (!s.pbc.caution) = true) ↔ ((60 ≤ send ∨ 60 ≤ recv) ∧ s.pbc.caution = false) := by
      rw [cautionOf, decide_eq_true_iff, Bool.not_eq_true']
    unfold counted
    simp only [hiff]
    split <;> rfl
  unfold setCounts
  rw [if_neg hs]
  dsimp only
  rw [hev]

/-- The confinement state of counts that do not bring SILENT. -/
theorem nextConfinement_loud {old : Confinement} {send recv : Nat} (h : old ≠ .silent) (hs : send < 240) :
    nextConfinement old send recv = if 120 ≤ send ∨ 120 ≤ recv then .restrained else .voiced := by
  cases old with
  | voiced => exact if_congr ⟨And.left, fun h => ⟨h, hs⟩⟩ rfl rfl
  | restrained =>
    refine (if_neg (by omega)).trans ?_
    by_cases hr : 120 ≤ send ∨ 120 ≤ recv
    · rw [if_neg (by omega), if_pos hr]
    · rw [if_pos (by omega), if_neg hr]
  | silent => exact absurd rfl h

theorem setCounts_loud {send recv : Nat} (h : s.pbc.confinement ≠ .silent) (hs : send < 240) : setCounts send recv s =
    counted send recv (if 120 ≤ send ∨ 120 ≤ recv then .restrained else .voiced) s := by
  rw [setCounts_eq send recv h, nextConfinement_loud h hs, if_neg (by split <;> decide)]

theorem setCounts_silent (send recv : Nat) (h : s.pbc.confinement = .silent) : setCounts send recv s = s := if_pos h

/-- Counts that fall raise nothing, where the caution level is that of the counts before. -/
theorem setCounts_falling {send recv : Nat} (h : s.pbc.confinement ≠ .silent) (hs : send < 240) (hk : CautionKept s)
    (hsend : send ≤ s.pbc.sendCount) (hrecv : recv ≤ s.pbc.recvCount)
    (hv : s.pbc.confinement = .voiced → send < 120 ∧ recv < 120) : setCounts send recv s = { s with pbc := { s.pbc with
      sendCount := send, recvCount := recv, confinement := if 120 ≤ send ∨ 120 ≤ recv then .restrained else .voiced
      caution := decide (60 ≤ send ∨ 60 ≤ recv)
      restrainedWait :=
        (s.pbc.restrainedWait && decide ((if 120 ≤ send ∨ 120 ≤ recv then Confinement.restrained else .voiced) = .restrained)) } } := by
  have hk : s.pbc.caution = decide (60 ≤ s.pbc.sendCount ∨ 60 ≤ s.pbc.recvCount) := hk
  have hquiet : ¬ (((60 ≤ send ∨ 60 ≤ recv) ∧ s.pbc.caution = false) ∨
      ((if 120 ≤ send ∨ 120 ≤ recv then Confinement.restrained else .voiced) ≠ s.pbc.confinement ∧
        (if 120 ≤ send ∨ 120 ≤ recv then Confinement.restrained else .voiced) ≠ .voiced)) := by
    rw [hk, decide_eq_false_iff_not]
    rintro (⟨h1, h2⟩ | ⟨h1, h2⟩)
    · omega
    · cases hc : s.pbc.confinement with
      | voiced =>
        have := hv hc
        exact h2 (if_neg (by omega))
      | restrained =>
        rw [hc] at h1
        split at h1
        · exact h1 rfl
        · rename_i hlow
          exact h2 (if_neg hlow)
      | silent => exact h hc
  rw [setCounts_loud h hs]
  unfold counted
  rw [if_neg hquiet]

/-! ### A frame counted sent (R96, R98, R109) -/

theorem removeFirst_at {q : SendItem} {before after : List SendItem} (hq : q.inAttempt = true)
    (hb : ∀ x ∈ before, x.inAttempt = false) : removeFirst SendItem.inAttempt (before ++ q :: after) = before ++ after := by
  induction before with
  | nil => exact if_pos hq
  | cons x xs ih =>
    rw [List.cons_append, removeFirst, if_neg (by rw [hb x List.mem_cons_self]; exact Bool.false_ne_true),
      ih fun y hy => hb y (List.mem_cons_of_mem _ hy)]
    rfl

/-- The counts of a frame sent in VOICED or RESTRAINED raise no event. -/
theorem setCounts_sent {conf : Confinement} (hc : s.pbc.confinement = .voiced ∧ s.pbc.recvCount < 120 ∧ s.pbc.sendCount ≤ 120 ∨
      s.pbc.confinement = .restrained ∧ s.pbc.sendCount ≤ 240) (hk : CautionKept s)
    (hconf : conf = (if s.pbc.confinement = .restrained ∧ ¬ (s.pbc.sendCount ≤ 120 ∧ s.pbc.recvCount < 120) then
      Confinement.restrained else .voiced)) :
    setCounts (s.pbc.sendCount - 1) s.pbc.recvCount s = { s with pbc := { s.pbc with
      sendCount := s.pbc.sendCount - 1, confinement := conf
      caution := decide (61 ≤ s.pbc.sendCount ∨ 60 ≤ s.pbc.recvCount)
      restrainedWait := s.pbc.restrainedWait && decide (conf = .restrained) } } := by
  have hn : s.pbc.confinement ≠ .silent := by
    obtain h | h := hc <;> rw [h.1] <;> decide
  have hnow : (if 120 ≤ s.pbc.sendCount - 1 ∨ 120 ≤ s.pbc.recvCount then Confinement.restrained else .voiced) = conf := by
    rw [hconf]
    refine if_congr ?_ rfl rfl
    obtain ⟨h, hr, hs⟩ | ⟨h, -⟩ := hc
    · exact ⟨fun hx => by omega, fun hx => absurd (h.symm.trans hx.1) (by decide)⟩
    · exact ⟨fun hx => ⟨h, by omega⟩, fun hx => by omega⟩
  have hcaution : decide (60 ≤ s.pbc.sendCount - 1 ∨ 60 ≤ s.pbc.recvCount) =
      decide (61 ≤ s.pbc.sendCount ∨ 60 ≤ s.pbc.recvCount) := decide_eq_decide.mpr (by omega)
  rw [setCounts_falling hn (by omega) hk (Nat.sub_le _ _) (Nat.le_refl _) (fun hv => ?_), hnow, hcaution]
  obtain ⟨-, hr, hs⟩ | ⟨h, -⟩ := hc
  · omega
  · exact absurd (hv.symm.trans h) (by decide)

/-- Settles O32. -/
theorem sentFramesAndGrants : Obligations.SentFramesAndGrants := by
  unfold Obligations.SentFramesAndGrants
  refine ⟨canOffer_iff, fun q before after => insertSend_at, sendItem_kind, fun s hp => ⟨fun h => ?_, ?_⟩, ?_⟩
  · have hx : exec .frameSent s = _ := (powered_on hp _ : execFrameSent s = _)
    rw [hx, h]
    rfl
  · intro f before q after conf u v ha hc hk hq hin hb hconf hu hv
    have hx : exec .frameSent s = _ := (powered_on hp _ : execFrameSent s = _)
    rw [hx, ha]
    have hsent : frameCountedSent s = if s.pbc.heldBeacon then offerBeacon v else v := by
      unfold frameCountedSent
      dsimp only
      rw [setCounts_sent hc hk hconf, hv, hu]
      unfold afterAttempt
      dsimp only
      rw [hq, removeFirst_at hin hb]
      rfl
    exact congrArg Host.Outcome.next hsent
  · intro s may hmay
    have hmay' (p : Nat × Entry) : may p ↔ grantable s p = true := (hmay p).trans (grantable_iff s p).symm
    refine ⟨grantOne_closed, fun ho => ⟨?_, fun before l after hl how hb hm => ?_, fun hl => ⟨fun front h back hs how hf => ?_,
      fun hslots => ?_⟩⟩⟩
    · obtain ⟨-, hlen⟩ | hlen := grantOne_cases s <;> omega
    · exact grantOne_hdu ho (grantHdu_lift hl how hb hm)
    · exact grantOne_hdu ho (grantHdu_hold hl hs how hf)
    have hhdu := (grantHdu_none_iff s).mpr ⟨hl, hslots⟩
    refine ⟨fun before p after e f wf hc hp hb he hf => ?_, fun hnone => ?_⟩
    · exact grantOne_ctc ho hhdu (grantCtc_at wf hc ((hmay' p).mp hp) (fun x hx => mt (hmay' x).mpr (hb x hx)) he
        (hf.trans (owedFrame_eq p.2).symm))
    have hctc := (grantCtc_none_iff s).mpr fun p hp => mt (hmay' p).mpr (hnone p hp)
    refine ⟨fun before cl after hc how hb hk => ?_, fun hclaims hnodup short hshort unowed hunowed => ?_⟩
    · rw [grantOne_cnu ho hhdu hctc, grantCnu_claimed hc how hb hk]
    have hcl : s.cnu.claims.find? Claim.owed = none :=
      List.find?_eq_none.mpr fun x hx => by rw [hclaims x hx]; exact Bool.false_ne_true
    obtain rfl : unowed = fun as => as.filter fun a => decide (a.wantOwed = true → Unreadable s a.index) := funext hunowed
    have hpass (as : List Appeal) (h : ∀ x ∈ as, x.wantOwed = true → Unreadable s x.index ∨ ¬ short x.index) :
        WantsPass s as := fun x hx hw => (h x hx hw).imp_right (mt (hshort x.index).mpr)
    refine ⟨fun before a after e ha how he hu hs hb => ?_, fun hno kept hkept => ?_⟩
    · subst he
      rw [grantOne_cnu ho hhdu hctc,
        grantCnu_want hcl (grantWant_taken ha hnodup (hpass before hb) how hu ((hshort a.index).mp hs))]
      rfl
    have hw := hpass _ hno
    have hgone := withoutFallen_nodup (after := []) (by rw [List.append_nil]; exact hnodup) hw
    rw [List.append_nil, List.append_nil] at hgone
    obtain rfl : kept = unreadRepairs s := funext hkept
    refine ⟨fun before i after e hr he hs hu hb => ?_, fun hr => ?_⟩
    · subst he
      rw [grantOne_cnu ho hhdu hctc, grantCnu_repair hcl (grantWant_passed hw), hgone]
      have h := grantRepair_taken (s := withAppeals s
        (s.cnu.appeals.filter fun a => decide (a.wantOwed = true → Unreadable s a.index))) hr hb hu hs
      rw [h]
      rfl
    · rw [grantOne_passed ho ⟨hhdu, hctc, hcl⟩ hw hr, hgone]
      rfl

end Sys2Proof.Machine
end

section
/-! PROOFS. The return from SILENT, the grants that follow it, and the change of bit rate. -/

namespace Sys2Proof.Machine

variable {c : Instr} {s t u v : State} {i : Nat} {e : Entry}

/-! ### All grants (R99, R114) -/

theorem grantAll_iterate (s : State) : grantAll s = grantOne^[16] s := by
  unfold grantAll
  rw [List.foldl_const, List.length_range]

/-- After so many grants none is left to make, or the queue has taken as many frames. -/
theorem grants_done (n : Nat) (s : State) : grantOne (grantOne^[n] s) = grantOne^[n] s ∨
    n ≤ (grantOne^[n] s).pbc.sendQueue.length := by
  induction n with
  | zero => exact .inr (Nat.zero_le _)
  | succ n ih =>
    rw [Function.iterate_succ_apply']
    obtain h | h := ih
    · rw [h, h]
      exact .inl rfl
    · obtain ⟨hsame, -⟩ | hlen := grantOne_cases (grantOne^[n] s)
      · exact .inl hsame
      · exact .inr (by omega)

theorem grantAll_fixed (s : State) : grantOne (grantAll s) = grantAll s := by
  rw [grantAll_iterate]
  obtain h | h := grants_done 16 s
  · exact h
  · refine grantOne_closed (Bool.not_eq_true _ ▸ fun ho => ?_)
    obtain ⟨-, hlen, -⟩ := (canOffer_iff _).mp ho
    omega

/-! ### What grants leave -/

/-- What grants leave of the line, of the clock and of the settings in force. -/
structure GrantsKeep (t s : State) : Prop where
  pbc : { t.pbc with sendQueue := s.pbc.sendQueue } = s.pbc
  clock : t.coreMs = s.coreMs
  settings : t.ctc.inForce = s.ctc.inForce
  pins : t.pins = s.pins

theorem GrantsKeep.refl (s : State) : GrantsKeep s s := ⟨rfl, rfl, rfl, rfl⟩

theorem GrantsKeep.trans (h : GrantsKeep u t) (g : GrantsKeep t s) : GrantsKeep u s :=
  ⟨by rw [← g.pbc, ← h.pbc], h.clock.trans g.clock, h.settings.trans g.settings, h.pins.trans g.pins⟩

theorem putEntry_grantsKeep (i : Nat) (e : Entry) (s : State) : GrantsKeep (putEntry i e s) s := by
  obtain ⟨h, -⟩ := changeEntry_holdOnly i e (changeCauses (entryAt s i) e) [] s
  have hclock := congrArg State.coreMs h
  have hpins := congrArg State.pins h
  refine ⟨by rw [putEntry_pbc], hclock, ?_, hpins⟩
  unfold putEntry
  by_cases hn : s.ctc.node = .storeFault
  · rw [changeEntry_fault hn, recordHit_eq]
  · rw [changeEntry_eq hn]

theorem returnIndex_grantsKeep (i : Nat) (s : State) : GrantsKeep (returnIndex i s) s := by
  unfold returnIndex
  split <;> exact ⟨rfl, rfl, rfl, rfl⟩

theorem sendOwed_grantsKeep (i : Nat) (e : Entry) (s : State) : GrantsKeep (sendOwed i e s) s := by
  have hq (q : SendItem) : GrantsKeep (enqueue q s) s := ⟨rfl, rfl, rfl, rfl⟩
  unfold sendOwed
  dsimp only
  split
  · exact (returnIndex_grantsKeep ..).trans ((putEntry_grantsKeep ..).trans (hq _))
  · exact (putEntry_grantsKeep ..).trans (hq _)

theorem grantHdu_grantsKeep (h : grantHdu s = some t) : GrantsKeep t s := by
  unfold grantHdu at h
  split at h
  · cases h
    exact ⟨rfl, rfl, rfl, rfl⟩
  · split at h
    · split at h
      · cases h
        exact ⟨rfl, rfl, rfl, rfl⟩
      · cases h
    · cases h

theorem grantCtc_grantsKeep (h : grantCtc s = some t) : GrantsKeep t s := by
  unfold grantCtc at h
  split at h
  · cases h
    exact sendOwed_grantsKeep ..
  · cases h

theorem grantWant_grantsKeep (as : List Appeal) (s : State) : GrantsKeep (grantWant as s).1 s := by
  induction as generalizing s with
  | nil => exact .refl s
  | cons a as ih =>
    rw [grantWant]
    split
    · exact ih s
    · split
      · exact ⟨rfl, rfl, rfl, rfl⟩
      · exact (ih _).trans ⟨rfl, rfl, rfl, rfl⟩

theorem grantRepair_grantsKeep (is : List Nat) (s : State) : GrantsKeep (grantRepair is s).1 s := by
  induction is generalizing s with
  | nil => exact .refl s
  | cons i is ih =>
    rw [grantRepair]
    dsimp only
    split
    · exact ih s
    · split
      · exact ⟨rfl, rfl, rfl, rfl⟩
      · exact (ih _).trans ⟨rfl, rfl, rfl, rfl⟩

theorem grantCnu_grantsKeep (s : State) : GrantsKeep (grantCnu s) s := by
  cases hcl : s.cnu.claims.find? Claim.owed with
  | some cl =>
    rw [grantCnu_claim hcl]
    exact ⟨rfl, rfl, rfl, rfl⟩
  | none =>
    have hkeep := grantWant_grantsKeep s.cnu.appeals s
    obtain ⟨⟨t, b⟩, hw⟩ : ∃ x, grantWant s.cnu.appeals s = x := ⟨_, rfl⟩
    rw [hw] at hkeep
    cases b with
    | true =>
      rw [grantCnu_want hcl hw]
      exact hkeep
    | false =>
      rw [grantCnu_repair hcl hw]
      exact (grantRepair_grantsKeep ..).trans hkeep

theorem grantOne_grantsKeep (s : State) : GrantsKeep (grantOne s) s := by
  cases ho : canOffer s with
  | false => rw [grantOne_closed ho]; exact .refl s
  | true =>
    cases hh : grantHdu s with
    | some t => rw [grantOne_hdu ho hh]; exact grantHdu_grantsKeep hh
    | none =>
      cases hc : grantCtc s with
      | some t => rw [grantOne_ctc ho hh hc]; exact grantCtc_grantsKeep hc
      | none => rw [grantOne_cnu ho hh hc]; exact grantCnu_grantsKeep s

theorem grantAll_grantsKeep (s : State) : GrantsKeep (grantAll s) s := by
  rw [grantAll_iterate]
  generalize 16 = n
  induction n with
  | zero => exact .refl s
  | succ n ih =>
    rw [Function.iterate_succ_apply']
    exact (grantOne_grantsKeep _).trans ih

theorem offerBeacon_keeps (s : State) : (offerBeacon s).pbc.beaconTimer = s.pbc.beaconTimer ∧
    (offerBeacon s).coreMs = s.coreMs ∧ (offerBeacon s).ctc.inForce = s.ctc.inForce ∧ (offerBeacon s).pins = s.pins ∧
    { (offerBeacon s).pbc with sendQueue := s.pbc.sendQueue, heldBeacon := s.pbc.heldBeacon } = s.pbc := by
  unfold offerBeacon
  split
  · exact ⟨rfl, rfl, rfl, rfl, rfl⟩
  · split
    · exact ⟨rfl, rfl, rfl, rfl, rfl⟩
    · split
      · exact ⟨rfl, rfl, rfl, rfl, rfl⟩
      · split <;> exact ⟨rfl, rfl, rfl, rfl, rfl⟩

/-! ### The return from SILENT (R114) -/

theorem restartBeacon_as (hb : t.pbc.beaconTimer = s.pbc.beaconTimer) (hc : t.coreMs = s.coreMs)
    (hf : t.ctc.inForce = s.ctc.inForce) : restartBeacon t = { t with pbc := { t.pbc with
      beaconTimer := s.pbc.beaconTimer.map fun _ => s.coreMs + 1000 * inForceOr s Settings.beacon 0 } } := by
  unfold restartBeacon inForceOr
  rw [hb, hc, hf]
  rfl

theorem leaveSilent_eq (s : State) : leaveSilent s = backVoiced s := by
  unfold leaveSilent backVoiced
  have hu : becomeVoiced s = { s with
      pbc := { s.pbc with
        confinement := .voiced, sendCount := 0, recvCount := 0, caution := false, awaitingEleven := false, errorSeq := none }
      evu := { s.evu with flags := s.evu.flags ||| 0x000200 } } := rfl
  rw [← hu]
  dsimp only
  refine if_congr Iff.rfl rfl ?_
  obtain ⟨hpbc, hclock, hset, -⟩ := grantAll_grantsKeep (becomeVoiced s)
  obtain ⟨hb, hc, hf, -, -⟩ := offerBeacon_keeps (withAllRead (grantAll (becomeVoiced s)))
  have htimer := congrArg Pbc.beaconTimer hpbc
  exact restartBeacon_as (hb.trans htimer) (hc.trans hclock) (hf.trans hset)

/-- Settles O34. -/
theorem lineReturnsAndChangesRate : Obligations.LineReturnsAndChangesRate := by
  unfold Obligations.LineReturnsAndChangesRate
  refine ⟨fun s => ⟨grantAll_iterate s, grantAll_fixed s⟩, fun s hp => ?_⟩
  have hleave : exec .leaveSilent s = .next (readGap s) := (powered_on hp _ : execLeaveSilent s = _)
  have hrate : exec .bitRateChange s = _ := (powered_on hp _ : execBitRateChange s = _)
  refine ⟨fun hn => ?_, fun hs => ⟨Config.gapBits s.free, gapLead s.free, fun base hbase => ?_⟩, fun h => ?_,
    fun code hc ha he => ?_, (powered_on hp _ : execElevenRecessiveBitsRead s = _)⟩
  · rw [hleave, readGap_eq, if_neg hn]
  · have hgap : countGap s = base := by rw [countGap_eq, countGap_pbc, hbase]
    rw [hleave, readGap_eq, if_pos hs, hgap]
    exact ⟨fun hlt => by rw [if_neg (Nat.not_le.mpr hlt)], fun hle => by rw [if_pos hle, leaveSilent_eq]⟩
  · rw [hrate]
    cases hc : s.pbc.rateChange with
    | none => rfl
    | some r =>
      obtain h | h | h := h
      · exact absurd (hc.symm.trans h) nofun
      · exact congrArg Host.Outcome.next (if_neg (by simpa using fun hx => absurd hx h))
      · exact congrArg Host.Outcome.next (if_neg (by simp [readsFrames, h]))
  · rw [hrate, hc]
    exact congrArg Host.Outcome.next (if_pos (by simp [readsFrames, ha, he]))

end Sys2Proof.Machine
end

section
/-! PROOFS. Fill bits, and the bits of a peer frame. -/

namespace Sys2Proof.Machine

/-! ### Runs of equal bits (R88) -/

/-- The bits of this level at the end of a run of bits. -/
def trail (b : Bool) (l : List Bool) : Nat := (l.reverse.takeWhile (· == b)).length

/-- Whether no eight bits of one level follow each other. -/
def NoEight (l : List Bool) : Prop := ∀ b, ¬ List.replicate 8 b <:+: l

theorem trail_concat_same (b : Bool) (l : List Bool) : trail b (l ++ [b]) = trail b l + 1 := by
  simp [trail]

theorem trail_concat_other {b x : Bool} (h : x ≠ b) (l : List Bool) : trail b (l ++ [x]) = 0 := by
  simp [trail, h]

theorem trail_of_suffix {b : Bool} {n : Nat} {l : List Bool} (h : List.replicate n b <:+ l) : n ≤ trail b l := by
  obtain ⟨front, rfl⟩ := h
  simp [trail]

theorem noEight_concat {l : List Bool} {x : Bool} (h : NoEight l) (ht : trail x (l ++ [x]) ≤ 7) : NoEight (l ++ [x]) := by
  intro b hb
  obtain hb | hb := List.infix_concat_iff.mp hb
  · have := trail_of_suffix hb
    by_cases hx : x = b
    · subst hx
      omega
    · rw [trail_concat_other hx] at this
      omega
  · exact h b hb

/-- What stands before a sender's next bit: no eight equal bits, and at most `run` of this level at the end. -/
structure SentBefore (run : Nat) (level : Bool) (l : List Bool) : Prop where
  short : run ≤ 6
  same : trail level l ≤ run
  other : trail (!level) l = 0
  noEight : NoEight l

/-- What a sender has sent: no eight equal bits, and at most six at the end. -/
def WellSent (l : List Bool) : Prop := NoEight l ∧ ∀ b, trail b l ≤ 6

theorem SentBefore.wellSent {run : Nat} {level : Bool} {l : List Bool} (h : SentBefore run level l) : WellSent l := by
  refine ⟨h.noEight, fun b => ?_⟩
  have h1 := h.same
  have h2 := h.other
  have h3 := h.short
  by_cases hb : b = level
  · subst hb
    omega
  · rw [Bool.eq_not.mpr hb]
    omega

/-- The run that a bit makes of the run before it. -/
def runWith (run : Nat) (level b : Bool) : Nat := if b = level then run + 1 else 1

theorem SentBefore.trail_le {run : Nat} {level : Bool} {l : List Bool} (h : SentBefore run level l) (b : Bool) :
    trail b (l ++ [b]) ≤ runWith run level b := by
  rw [trail_concat_same]
  unfold runWith
  split
  · rename_i hb
    subst hb
    exact Nat.succ_le_succ h.same
  · rename_i hb
    rw [Bool.eq_not.mpr hb, h.other]

theorem SentBefore.runWith_le {run : Nat} {level : Bool} {l : List Bool} (h : SentBefore run level l) (b : Bool) :
    runWith run level b ≤ 7 := by
  have := h.short
  unfold runWith
  split <;> omega

theorem SentBefore.concat {run : Nat} {level b : Bool} {l : List Bool} (h : SentBefore run level l)
    (hr : runWith run level b ≠ 7) : SentBefore (runWith run level b) b (l ++ [b]) := by
  have ht := h.trail_le b
  have hle := h.runWith_le b
  exact ⟨by omega, ht, trail_concat_other (by simp) l, noEight_concat h.noEight (by omega)⟩

theorem SentBefore.fill {run : Nat} {level b : Bool} {l : List Bool} (h : SentBefore run level l) :
    SentBefore 1 (!b) (l ++ [b] ++ [!b]) := by
  have ht := h.trail_le b
  have hle := h.runWith_le b
  have hone : trail (!b) (l ++ [b] ++ [!b]) = 1 := by
    rw [trail_concat_same, trail_concat_other (by simp)]
  exact ⟨by omega, Nat.le_of_eq hone, trail_concat_other (by simp) _,
    noEight_concat (noEight_concat h.noEight (by omega)) (by omega)⟩

theorem insertFill_cons (run : Nat) (level b : Bool) (bs : List Bool) : insertFill run level (b :: bs) =
    if runWith run level b = 7 then b :: (!b) :: insertFill 1 (!b) bs else b :: insertFill (runWith run level b) b bs := rfl

theorem removeFill_cons (run : Nat) (level b : Bool) (bs : List Bool) (h : runWith run level b ≠ 7) :
    removeFill run level (b :: bs) = (removeFill (runWith run level b) b bs).map (b :: ·) := by
  rw [removeFill.eq_def]
  exact if_neg h

theorem removeFill_fill (run : Nat) (level b : Bool) (bs : List Bool) (h : runWith run level b = 7) :
    removeFill run level (b :: (!b) :: bs) = (removeFill 1 (!b) bs).map (b :: ·) := by
  rw [removeFill]
  exact (if_pos h).trans (if_neg (by simp))

theorem insertFill_wellSent {run : Nat} {level : Bool} {l : List Bool} (bits : List Bool) (h : SentBefore run level l) :
    WellSent (l ++ insertFill run level bits) := by
  induction bits generalizing run level l with
  | nil => rw [insertFill, List.append_nil]; exact h.wellSent
  | cons b bs ih =>
    rw [insertFill_cons]
    by_cases hr : runWith run level b = 7
    · rw [if_pos hr]
      have := ih (h.fill (b := b))
      simpa using this
    · rw [if_neg hr]
      have := ih (h.concat hr)
      simpa using this

theorem sent_nothing : SentBefore 0 true [] :=
  ⟨Nat.zero_le _, Nat.le_refl _, rfl, fun b h => absurd (List.infix_nil.mp h) (by simp)⟩

theorem removeFill_insertFill (run : Nat) (level : Bool) (bits : List Bool) :
    removeFill run level (insertFill run level bits) = some bits := by
  induction bits generalizing run level with
  | nil => rfl
  | cons b bs ih =>
    rw [insertFill_cons]
    by_cases hr : runWith run level b = 7
    · rw [if_pos hr, removeFill_fill _ _ _ _ hr, ih]
      rfl
    · rw [if_neg hr, removeFill_cons _ _ _ _ hr, ih]
      rfl

theorem insertFill_length {run : Nat} (level : Bool) (bits : List Bool) (h : run ≤ 6) :
    (insertFill run level bits).length ≤ bits.length + (bits.length + run - 1) / 6 := by
  induction bits generalizing run level with
  | nil => exact Nat.zero_le _
  | cons b bs ih =>
    have hle : runWith run level b ≤ run + 1 := by unfold runWith; split <;> omega
    rw [insertFill_cons]
    by_cases hr : runWith run level b = 7
    · have := ih (run := 1) (!b) (by omega)
      rw [if_pos hr]
      simp only [List.length_cons]
      omega
    · have := ih (run := runWith run level b) b (by omega)
      rw [if_neg hr]
      simp only [List.length_cons]
      omega

theorem recessiveTail_le (f : RawFrame) : recessiveTail f ≤ 6 := by
  have h := (insertFill_wellSent (plainBits f) sent_nothing).2 true
  rw [List.nil_append] at h
  refine Nat.le_trans (Nat.le_of_eq ?_) h
  unfold recessiveTail trail
  congr 2
  funext b
  exact (beq_true b).symm

/-! ### Numbers as bits and bytes (R87, R193) -/

theorem fieldBits_length (w x : Nat) : (fieldBits w x).length = w := by simp [fieldBits]

theorem foldl_bits (a : Nat) (bits : List Bool) :
    bits.foldl (fun a b => 2 * a + b.toNat) a = a * 2 ^ bits.length + ofBits bits := by
  unfold ofBits
  induction bits generalizing a with
  | nil => simp
  | cons b bs ih =>
    rw [List.foldl_cons, List.foldl_cons, ih, ih (2 * 0 + b.toNat), List.length_cons, Nat.pow_succ]
    ring

theorem ofBits_fieldBits (w x : Nat) : ofBits (fieldBits w x) = x % 2 ^ w := by
  induction w with
  | zero => simp [fieldBits, ofBits, Nat.mod_one]
  | succ w ih =>
    rw [fieldBits_succ]
    show (fieldBits w x).foldl _ (2 * 0 + (x.testBit w).toNat) = _
    rw [foldl_bits, fieldBits_length, ih, Nat.mod_pow_succ, Nat.toNat_testBit]
    ring

theorem ofBits_field {w x : Nat} (h : x < 2 ^ w) : ofBits (fieldBits w x) = x := by
  rw [ofBits_fieldBits, Nat.mod_eq_of_lt h]

theorem bytesBits_length (bs : List Byte) : (bytesBits bs).length = 8 * bs.length := by
  induction bs with
  | nil => rfl
  | cons b bs ih =>
    show (fieldBits 8 b.toNat ++ bytesBits bs).length = _
    rw [List.length_append, fieldBits_length, ih, List.length_cons]
    omega

theorem bitsBytes_bytesBits (bs : List Byte) (rest : List Bool) : bitsBytes bs.length (bytesBits bs ++ rest) = bs := by
  induction bs with
  | nil => rfl
  | cons b bs ih =>
    have hcons : bytesBits (b :: bs) ++ rest = fieldBits 8 b.toNat ++ (bytesBits bs ++ rest) :=
      List.append_assoc ..
    rw [List.length_cons, bitsBytes, hcons, List.take_left' (fieldBits_length ..), List.drop_left' (fieldBits_length ..), ih,
      ofBits_field b.isLt, BitVec.ofNat_toNat, BitVec.setWidth_eq]

/-! ### A frame's bits (R87 to R89) -/

theorem readFrameBits_insertFill (f : RawFrame) (h : f.payload.length ≤ 63) :
    readFrameBits (insertFill 0 true (plainBits f)) = .ok f := by
  have hcov : coveredBits f = fieldBits 3 f.kind.toNat ++ (fieldBits 4 f.sender.toNat ++
      (fieldBits 6 f.payload.length ++ bytesBits f.payload)) := by
    simp [coveredBits]
  have hlen : (coveredBits f).length = 13 + 8 * f.payload.length := by
    rw [hcov]
    simp only [List.length_append, fieldBits_length, bytesBits_length]
    omega
  generalize hcheck : fieldBits 16 (checkOf (coveredBits f)).toNat = check
  have hcl : check.length = 16 := by rw [← hcheck, fieldBits_length]
  have hbody : (plainBits f).drop 1 = coveredBits f ++ check := by rw [← hcheck]; rfl
  have hafter (n : Nat) (front back : List Bool) (hc : coveredBits f = front ++ back) (hn : front.length = n) :
      (coveredBits f ++ check).drop n = back ++ check := by
    rw [hc, List.append_assoc, List.drop_left' hn]
  have h3 := hafter 3 _ _ hcov (fieldBits_length ..)
  have h7 := hafter 7 (fieldBits 3 f.kind.toNat ++ fieldBits 4 f.sender.toNat) _ (by rw [hcov, List.append_assoc])
    (by simp [fieldBits_length])
  have h13 := hafter 13 (fieldBits 3 f.kind.toNat ++ fieldBits 4 f.sender.toNat ++ fieldBits 6 f.payload.length) _
    (by rw [hcov, List.append_assoc, List.append_assoc]) (by simp [fieldBits_length])
  have hlength : ofBits (((coveredBits f ++ check).drop 7).take 6) = f.payload.length := by
    rw [h7, List.append_assoc, List.take_left' (fieldBits_length ..), ofBits_field (by omega)]
  have hkind : ofBits ((coveredBits f ++ check).take 3) = f.kind.toNat := by
    rw [hcov, List.append_assoc, List.take_left' (fieldBits_length ..), ofBits_field f.kind.isLt]
  have hsender : ofBits (((coveredBits f ++ check).drop 3).take 4) = f.sender.toNat := by
    rw [h3, List.append_assoc, List.take_left' (fieldBits_length ..), ofBits_field f.sender.isLt]
  unfold readFrameBits
  rw [removeFill_insertFill]
  dsimp only
  rw [hbody, hlength, hkind, hsender, h13, bitsBytes_bytesBits, List.take_left' hlen, List.drop_left' hlen, ← hcheck,
    ofBits_field (checkOf (coveredBits f)).isLt]
  rw [if_pos ⟨rfl, by rw [List.length_append, hlen, fieldBits_length]; omega⟩, BitVec.ofNat_toNat, BitVec.ofNat_toNat,
    BitVec.setWidth_eq, BitVec.setWidth_eq]

/-- Settles O56. -/
theorem framesSurviveTheLine : Obligations.FramesSurviveTheLine := by
  unfold Obligations.FramesSurviveTheLine
  refine ⟨readFrameBits_insertFill, fun bits => ⟨fun before after b heq => ?_, removeFill_insertFill 0 true bits, ?_⟩,
    recessiveTail_le⟩
  · have h := (insertFill_wellSent bits sent_nothing).1 b
    rw [List.nil_append, heq] at h
    exact h ⟨before, after, rfl⟩
  · have := insertFill_length true bits (Nat.zero_le 6)
    omega

end Sys2Proof.Machine
end

section
/-! PROOFS. The emptied Send Queue, the change of the counts, and what the bits before an event of the line leave. -/

namespace Sys2Proof.Machine

variable {c : Instr} {s t u v : State} {i : Nat} {e : Entry}

/-! ### The return from SILENT -/

/-- A node back from SILENT, as a frame or an error then finds it. -/
structure IsBack (v s : State) : Prop where
  pins : v.pins = s.pins
  attempt : v.pbc.attempt = s.pbc.attempt
  awaiting : v.pbc.awaitingEleven = false
  confinement : v.pbc.confinement = .voiced
  sendCount : v.pbc.sendCount = 0
  recvCount : v.pbc.recvCount = 0
  caution : v.pbc.caution = false

theorem backVoiced_isBack (s : State) : IsBack (backVoiced s) s := by
  unfold backVoiced
  dsimp only
  split
  · exact ⟨rfl, rfl, rfl, rfl, rfl, rfl, rfl⟩
  · generalize hu : ({ s with
      pbc := { s.pbc with
        confinement := .voiced, sendCount := 0, recvCount := 0, caution := false, awaitingEleven := false, errorSeq := none }
      evu := { s.evu with flags := s.evu.flags ||| 0x000200 } } : State) = u
    obtain ⟨hg, -, -, hgp⟩ := grantAll_grantsKeep u
    obtain ⟨-, -, -, hop, ho⟩ := offerBeacon_keeps (withAllRead (grantAll u))
    have hpbc : { (offerBeacon (withAllRead (grantAll u))).pbc with
        sendQueue := u.pbc.sendQueue, heldBeacon := (grantAll u).pbc.heldBeacon } = u.pbc :=
      Eq.trans (congrArg (fun p : Pbc => { p with sendQueue := u.pbc.sendQueue }) ho) hg
    have h1 := congrArg Pbc.attempt hpbc
    have h2 := congrArg Pbc.awaitingEleven hpbc
    have h3 := congrArg Pbc.confinement hpbc
    have h4 := congrArg Pbc.sendCount hpbc
    have h5 := congrArg Pbc.recvCount hpbc
    have h6 := congrArg Pbc.caution hpbc
    have h7 : (offerBeacon (withAllRead (grantAll u))).pins = u.pins := hop.trans hgp
    rw [← hu] at h1 h2 h3 h4 h5 h6 h7
    rw [← hu]
    exact ⟨h7, h1, h2, h3, h4, h5, h6⟩

/-- The bits before an event of the line: a SILENT node stays SILENT with its counts, or is back. -/
theorem readGap_cases (hs : s.pbc.confinement = .silent) :
    (readGap s = countGap s ∧ (countGap s).pbc.confinement = .silent ∧ (countGap s).pbc.recoveryCount < 64) ∨
      IsBack (readGap s) s := by
  rw [readGap_eq, if_pos hs]
  have hpins : (countGap s).pins = s.pins := by rw [countGap_eq]
  by_cases h : 64 ≤ (countGap s).pbc.recoveryCount
  · rw [if_pos h, leaveSilent_eq]
    obtain ⟨h1, h2, h3, h4, h5, h6, h7⟩ := backVoiced_isBack (countGap s)
    exact .inr ⟨h1.trans hpins, h2.trans (by rw [countGap_pbc]), h3, h4, h5, h6, h7⟩
  · rw [if_neg h]
    exact .inl ⟨rfl, by rw [countGap_pbc]; exact hs, Nat.lt_of_not_le h⟩

theorem readGap_loud (h : s.pbc.confinement ≠ .silent) : readGap s = s := if_neg h

/-! ### Reports of the emptied queue (R99) -/

theorem setOwed_pbc (i : Nat) (o : Owed) (s : State) : (setOwed i o s).pbc = s.pbc := by
  unfold setOwed
  dsimp only
  split
  · rfl
  · exact putEntry_pbc ..

theorem ctcDiscard_pbc (i : Nat) (f : PeerFrame) (s : State) : (ctcDiscard i f s).pbc = s.pbc := by
  unfold ctcDiscard
  dsimp only
  split
  · rfl
  · split
    · split
      · exact setOwed_pbc ..
      · rfl
    · split
      · exact setOwed_pbc ..
      · rfl
    · split
      · exact putEntry_pbc ..
      · rfl
    · rfl

theorem payloadDiscard_pbc (f : PeerFrame) (s : State) : (payloadDiscard f s).pbc = s.pbc := by
  unfold payloadDiscard
  split
  · split <;> rfl
  · rfl
  · rfl
  · rfl
  · rfl

theorem keepRepair_pbc (i : Nat) (s : State) : (keepRepair i s).pbc = s.pbc := by
  unfold keepRepair
  split <;> rfl

theorem reportDiscard_pbc (s : State) (q : SendItem) : (reportDiscard s q).pbc = s.pbc := by
  unfold reportDiscard
  split
  · rfl
  · split
    · exact payloadDiscard_pbc ..
    · split
      · rfl
      · exact ctcDiscard_pbc ..
    · exact keepRepair_pbc ..

theorem reports_pbc (qs : List SendItem) (s : State) : (qs.foldl reportDiscard s).pbc = s.pbc := by
  induction qs generalizing s with
  | nil => rfl
  | cons q qs ih => rw [List.foldl_cons, ih, reportDiscard_pbc]

theorem emptyQueue_pbc (s : State) :
    (emptyQueue s).pbc = { s.pbc with sendQueue := [], attempt := none, heldBeacon := false } := reports_pbc ..

end Sys2Proof.Machine
end

section
/-! PROOFS. Received frames, the own id, and the reports of the emptied queue. -/

namespace Sys2Proof.Machine

variable {c : Instr} {s t u v : State} {i : Nat} {e : Entry} {kind : BitVec 3} {sender : NodeId} {payload : List Byte}

/-! ### The reports one by one (R99) -/

theorem reportDiscard_payload {q : SendItem} {f : PeerFrame} (hc : q.content = .frame f) (hp : q.producer = .byPayload) :
    reportDiscard s q = payloadDiscard f s := by
  unfold reportDiscard
  rw [hc]
  dsimp only
  rw [hp]

theorem reportDiscard_announcement {q : SendItem} {f : PeerFrame} {b : Bool} (hc : q.content = .frame f)
    (hp : q.producer = .announcement i b) : reportDiscard s q = if b then s else ctcDiscard i f s := by
  unfold reportDiscard
  rw [hc]
  dsimp only
  rw [hp]

theorem reportDiscard_repair {q : SendItem} {f : PeerFrame} (hc : q.content = .frame f) (hp : q.producer = .repair i) :
    reportDiscard s q = keepRepair i s := by
  unfold reportDiscard
  rw [hc]
  dsimp only
  rw [hp]

theorem keepRepair_eq (i : Nat) (s : State) : keepRepair i s = { s with cnu := { s.cnu with
    repairs := if i ∈ s.cnu.repairs ∨ 16 ≤ s.cnu.repairs.length then s.cnu.repairs else s.cnu.repairs ++ [i] } } := by
  unfold keepRepair
  split <;> rfl

theorem ctcDiscard_unread (h : Unreadable s i) (f : PeerFrame) : ctcDiscard i f s = s := if_pos ((skips_iff s i).mpr h)

/-- The report of a HAVE, or of a DROP for damage. -/
theorem ctcDiscard_owes {f : PeerFrame} {key : ShortKey} {o : Owed} (h : ¬ Unreadable s i)
    (hf : (∃ time cls, f = .haveCopy key time cls) ∧ o = Owed.haveFrame ∨ f = .drop key .damaged ∧ o = .dropFrame) :
    ctcDiscard i f s = if (entryAt s i).occupied && decide ((entryAt s i).shortKey = key) then setOwed i o s else s := by
  have hskip := mt (skips_iff s i).mp h
  obtain ⟨⟨time, cls, rfl⟩, rfl⟩ | ⟨rfl, rfl⟩ := hf
  · exact if_neg hskip
  · exact if_neg hskip

theorem ctcDiscard_disposed (h : ¬ Unreadable s i) (key : ShortKey) :
    ctcDiscard i (.drop key .disposed) s = if i ∈ s.ctc.freeList then oweDrop i key s else s :=
  if_neg (mt (skips_iff s i).mp h)

theorem oweDrop_free (h : (entryAt s i).state = .free) (key : ShortKey) : oweDrop i key s = nowOwes i
    { shortKey := key, owed := .dropFrame } { s with ctc := { s.ctc with freeList := s.ctc.freeList.erase i } } :=
  putEntry_quiet (s := { s with ctc := { s.ctc with freeList := s.ctc.freeList.erase i } })
    (by simp [changeCauses, show (entryAt { s with ctc := { s.ctc with freeList := s.ctc.freeList.erase i } } i).state = .free from h])
    (by rw [show (entryAt { s with ctc := { s.ctc with freeList := s.ctc.freeList.erase i } } i).state = .free from h])

/-! ### The tests of a received frame (R100 to R105) -/

/-- What the tests of a frame, whose completion is done, make of the part. -/
theorem takeFrame_eq (kind : BitVec 3) (sender : NodeId) (payload : List Byte) (u : State) : takeFrame kind sender payload u =
    if sender = u.pbc.ownId then
      if u.pbc.dupId then u else emptyQueue { u with
        pbc := { u.pbc with dupId := true }, evu := { u.evu with flags := u.evu.flags ||| 0x000100 } }
    else
      match readPayload kind payload with
      | none => { u with evu := { u.evu with flags := u.evu.flags ||| 0x002000 } }
      | some f =>
        if u.ctc.node = .awaitingStart ∧ kind ≠ 6 ∧ kind ≠ 0 ∧ kind ≠ 1 then u
        else if 24 ≤ u.pbc.rxFifo.length then { u with
          evu := { u.evu with flags := u.evu.flags ||| 0x000400 ||| 0x080000 }
          hdu := { u.hdu with
            doubt := { u.hdu.doubt with loss := true }
            doubtTimer := if u.ctc.node = .awaitingStart then none else some 0 } }
        else { u with
          pbc := { u.pbc with rxFifo := u.pbc.rxFifo ++ [⟨sender, f⟩] }
          evu := { u.evu with
            flags := if u.pbc.rxFifo.length = 22 then u.evu.flags ||| 0x000800 else u.evu.flags } } := by
  unfold takeFrame
  by_cases hid : sender = u.pbc.ownId
  · rw [if_pos hid, if_pos hid]
    rfl
  · rw [if_neg hid, if_neg hid]
    cases readPayload kind payload with
    | none => rfl
    | some f =>
      dsimp only
      by_cases hk : u.ctc.node = .awaitingStart ∧ kind ≠ 6 ∧ kind ≠ 0 ∧ kind ≠ 1
      · rw [if_pos hk, if_neg (by simpa [passesNodeState, hk.1] using hk.2)]
      · rw [if_neg hk, if_pos (by simp only [passesNodeState, Bool.or_eq_true, decide_eq_true_eq]; tauto)]
        unfold storeFrame
        by_cases hfull : 24 ≤ u.pbc.rxFifo.length
        · rw [if_pos hfull, if_pos hfull]
          rfl
        · rw [if_neg hfull, if_neg hfull]
          dsimp only
          by_cases hlen : u.pbc.rxFifo.length = 22
          · rw [if_pos (by rw [List.length_append, hlen]; rfl), if_pos hlen]
            rfl
          · rw [if_neg (by rw [List.length_append, List.length_singleton]; omega), if_neg hlen]

/-! ### The completion of a frame (R92, R110, R114) -/

/-- A frame that completes at a VOICED or RESTRAINED node. -/
theorem completeFrame_loud (tail : Nat) (hc : s.pbc.confinement = .voiced ∧ s.pbc.sendCount < 120 ∧ s.pbc.recvCount ≤ 120 ∨
      s.pbc.confinement = .restrained ∧ s.pbc.sendCount < 240) (hk : CautionKept s) :
    completeFrame tail s = { s with pbc := { s.pbc with
      ackDriven := !s.pbc.dupId, errorSeq := none, restrainedWait := false, recvCount := s.pbc.recvCount - 1
      confinement := if s.pbc.confinement = .restrained ∧ ¬ (s.pbc.sendCount < 120 ∧ s.pbc.recvCount ≤ 120) then
        .restrained else .voiced
      caution := decide (60 ≤ s.pbc.sendCount ∨ 61 ≤ s.pbc.recvCount) } } := by
  have hn : s.pbc.confinement ≠ .silent := by obtain h | h := hc <;> rw [h.1] <;> decide
  have hnow : (if 120 ≤ s.pbc.sendCount ∨ 120 ≤ s.pbc.recvCount - 1 then Confinement.restrained else .voiced) =
      if s.pbc.confinement = .restrained ∧ ¬ (s.pbc.sendCount < 120 ∧ s.pbc.recvCount ≤ 120) then .restrained else .voiced := by
    refine if_congr ?_ rfl rfl
    obtain ⟨h, h1, h2⟩ | ⟨h, -⟩ := hc
    · exact ⟨fun hx => by omega, fun hx => absurd (h.symm.trans hx.1) (by decide)⟩
    · exact ⟨fun hx => ⟨h, by omega⟩, fun hx => by omega⟩
  have hcaution : decide (60 ≤ s.pbc.sendCount ∨ 60 ≤ s.pbc.recvCount - 1) =
      decide (60 ≤ s.pbc.sendCount ∨ 61 ≤ s.pbc.recvCount) := decide_eq_decide.mpr (by omega)
  have hv (h : s.pbc.confinement = .voiced) : s.pbc.sendCount < 120 ∧ s.pbc.recvCount - 1 < 120 := by
    obtain ⟨-, h1, h2⟩ | ⟨hr, -⟩ := hc
    · omega
    · exact absurd (h.symm.trans hr) (by decide)
  unfold completeFrame countFrame
  dsimp only
  rw [if_neg hn, setCounts_falling (by exact hn) (by exact (by omega : s.pbc.sendCount < 240)) (by exact hk) (Nat.le_refl _)
    (Nat.sub_le _ _) (by exact hv)]
  dsimp only
  rw [hnow, hcaution, decide_eq_true hn, Bool.true_and, Bool.false_and]

/-- A frame that completes at a SILENT node. -/
theorem completeFrame_silent {tail : Nat} (ht : tail ≤ 6) (hs : s.pbc.confinement = .silent) (hr : s.pbc.recoveryCount ≤ 64) :
    completeFrame tail s = { s with
      pbc := { s.pbc with
        ackDriven := false, errorSeq := none, restrainedWait := false
        runCount := if Config.slotDriven s.free = true then 8 else tail + 9 }
      free := s.free + 1 } := by
  have hn : (if Config.slotDriven s.free = true then 8 else tail + 9) < 16 := by split <;> omega
  have hsame : min 64 (s.pbc.recoveryCount + (if Config.slotDriven s.free = true then 8 else tail + 9) / 16) =
      s.pbc.recoveryCount := by
    rw [Nat.div_eq_of_lt hn]
    omega
  unfold completeFrame countFrame
  dsimp only
  rw [if_pos hs, setCounts_silent _ _ (by exact hs)]
  unfold countRecessive
  dsimp only
  rw [Nat.zero_add, Nat.mod_eq_of_lt hn, hsame, hs]
  rfl

/-- Settles O30. -/
theorem receivedFramesAndOwnId : Obligations.ReceivedFramesAndOwnId := by
  unfold Obligations.ReceivedFramesAndOwnId
  refine ⟨fun kind sender payload taken htaken s hp => ?_, fun s => rfl, fun s q hq => ?_, fun s q f hq hprod => ?_,
    fun s q f i e hq he => ⟨fun hprod => ?_, fun hprod => ⟨fun hu => ?_, fun hu => ⟨fun key owed hf => ?_, fun key hf => ?_⟩⟩,
      fun hprod => ?_⟩⟩
  · have htake (u : State) : takeFrame kind sender payload u = taken u := by
      rw [htaken]
      exact takeFrame_eq kind sender payload u
    have hx (u : State) (hu : Powered u) : exec (.frameReceived kind sender payload) u = .next
        (if readsFrames u && u.pbc.attempt.isNone then
          taken (completeFrame (recessiveTail ⟨kind, sender, payload⟩) (readGap u)) else u) := by
      rw [← htake]
      exact (powered_on hu _ : execFrameReceived kind sender payload u = _)
    have hreads {u : State} (h1 : u.pbc.awaitingEleven = false) (h2 : u.pbc.attempt = none) :
        (readsFrames u && u.pbc.attempt.isNone) = true := by simp [readsFrames, h1, h2]
    refine ⟨fun h => ?_, fun h1 h2 hk hc => ?_, fun h1 h2 hs => ⟨readGap s, (powered_on hp _ : execLeaveSilent s = _), ?_⟩⟩
    · rw [hx s hp, if_neg]
      obtain h | h := h
      · simp [readsFrames, h]
      · simp [h]
    · rw [hx s hp, if_pos (hreads h1 h2), readGap_loud (by obtain h | h := hc <;> rw [h.1] <;> decide),
        completeFrame_loud _ hc hk]
    · obtain ⟨heq, hsil, hlt⟩ | hback := readGap_cases hs
      · rw [heq]
        refine ⟨fun h => absurd hsil h, fun _ => ⟨Config.slotDriven (countGap s).free, ?_⟩⟩
        rw [hx s hp, if_pos (hreads h1 h2), heq, completeFrame_silent (recessiveTail_le _) hsil (Nat.le_of_lt hlt)]
      · obtain ⟨hpins, hatt, hawait, hconf, hsend, hrecv, hcau⟩ := hback
        have hv : Powered (readGap s) := by rw [Powered, hpins]; exact hp
        have hloud : (readGap s).pbc.confinement ≠ .silent := by rw [hconf]; decide
        refine ⟨fun _ => ⟨?_, hv, hawait, hatt.trans h2, ?_, hconf, hsend, hrecv⟩, fun h => absurd h hloud⟩
        · rw [hx s hp, hx _ hv, if_pos (hreads h1 h2), if_pos (hreads hawait (hatt.trans h2)), readGap_loud hloud]
        · rw [CautionKept, hcau, hsend, hrecv]
          rfl
  · unfold reportDiscard
    rw [hq]
  · rw [reportDiscard_payload hq hprod]
    refine ⟨fun m n p x h => ?_, fun m x h => by rw [h]; rfl, fun key h => by rw [h]; rfl, fun w h => by rw [h]; rfl⟩
    subst h
    refine ⟨fun hno => ?_, fun i h hi hat => ?_⟩
    · unfold payloadDiscard
      dsimp only
      rw [hno]
    · unfold payloadDiscard updateSlot
      dsimp only
      rw [hi]
      dsimp only
      rw [hat]
      rfl
  · rw [reportDiscard_announcement hq hprod]
    rfl
  · rw [reportDiscard_announcement hq hprod]
    exact ctcDiscard_unread hu f
  · rw [reportDiscard_announcement hq hprod]
    subst he
    refine ⟨fun hno => (ctcDiscard_owes hu hf).trans ?_, fun hs hkey ho => (ctcDiscard_owes hu hf).trans ?_⟩
    · obtain h | h | h := hno
      · exact if_neg (by simp [Entry.occupied, h])
      · exact if_neg (by simp [h])
      · rw [setOwed_same h]
        exact ite_self s
    · rw [if_pos (by simp [Entry.occupied, hs, hkey])]
      exact setOwed_changed ho hs
  · rw [reportDiscard_announcement hq hprod, hf]
    subst he
    refine ⟨fun hi => (ctcDiscard_disposed hu key).trans (if_neg hi),
      fun hi hs => ((ctcDiscard_disposed hu key).trans (if_pos hi)).trans (oweDrop_free hs key)⟩
  · rw [reportDiscard_repair hq hprod]
    exact keepRepair_eq i s

end Sys2Proof.Machine
end

section
/-! PROOFS. Errors of the line, and the counts that they move. -/

namespace Sys2Proof.Machine

variable {c : Instr} {s t u v : State} {i : Nat} {e : Entry} {f g : State → State}

/-! ### The event flags aside -/

/-- The part with these event flags. -/
def withFlags (flags : EventMask) (s : State) : State := { s with evu := { s.evu with flags := flags } }

/-- What `f` makes of the part but for its flags does not depend on them; it may raise events, and BUS_STATE is none of them. -/
def FlagsAside (f : State → State) (s : State) : Prop :=
  ∃ m : EventMask, m.getLsbD 9 = false ∧ ∀ flags, f (withFlags flags s) = withFlags (flags ||| m) (f s)

theorem FlagsAside.quiet (h : ∀ flags, f (withFlags flags s) = withFlags flags (f s)) : FlagsAside f s :=
  ⟨0#24, rfl, fun flags => by rw [h, BitVec.or_zero]⟩

theorem FlagsAside.comp (hf : FlagsAside f s) (hg : FlagsAside g (f s)) : FlagsAside (fun s => g (f s)) s := by
  obtain ⟨m, hm, hf⟩ := hf
  obtain ⟨n, hn, hg⟩ := hg
  refine ⟨m ||| n, by rw [BitVec.getLsbD_or, hm, hn]; rfl, fun flags => ?_⟩
  show g (f (withFlags flags s)) = _
  rw [hf, hg, BitVec.or_assoc]

theorem FlagsAside.congr (hg : FlagsAside g s) (h : ∀ flags, f (withFlags flags s) = g (withFlags flags s)) :
    FlagsAside f s := by
  have hs : f s = g s := h s.evu.flags
  obtain ⟨m, hm, hg⟩ := hg
  exact ⟨m, hm, fun flags => by rw [h, hg, hs]⟩

theorem recordHit_flagsAside (h : Option Hit) (s : State) : FlagsAside (recordHit h) s := by
  cases h with
  | none => exact .quiet fun _ => rfl
  | some h =>
    by_cases hk : s.sli.watchKey = some h.key
    · refine ⟨Event.mask .watchHit, by decide, fun flags => ?_⟩
      rw [show recordHit (some h) s = _ from if_pos hk]
      exact (if_pos (by exact hk)).trans rfl
    · refine .quiet fun flags => ?_
      rw [show recordHit (some h) s = s from if_neg hk]
      exact if_neg (by exact hk)

theorem putEntry_flagsAside (i : Nat) (e : Entry) (s : State) : FlagsAside (putEntry i e) s := by
  unfold putEntry
  by_cases hn : s.ctc.node = .storeFault
  · refine (FlagsAside.comp (f := fun s : State => { s with
      ctc := { s.ctc with work := catSet s.ctc.work i e }
      scs := notedScs i (entryAt s i).state e.state s }) (.quiet fun _ => rfl)
      (recordHit_flagsAside (hitOf i (watchedKey (entryAt s i) e) e (changeCauses (entryAt s i) e)) _)).congr fun flags => ?_
    exact changeEntry_fault (s := withFlags flags s) (by exact hn) i e _ []
  · refine .quiet fun flags => ?_
    rw [changeEntry_eq hn]
    exact changeEntry_eq (s := withFlags flags s) (by exact hn) i e _ []

theorem setOwed_flagsAside (i : Nat) (o : Owed) (s : State) : FlagsAside (setOwed i o) s := by
  by_cases h : (entryAt s i).owed = o ∨ (entryAt s i).state = .free
  · refine .quiet fun flags => ?_
    rw [show setOwed i o s = s from if_pos h]
    exact if_pos h
  · exact (putEntry_flagsAside i { entryAt s i with owed := o } s).congr fun flags => if_neg h

theorem oweDrop_flagsAside (i : Nat) (key : ShortKey) (s : State) : FlagsAside (oweDrop i key) s :=
  FlagsAside.comp (f := fun s : State => { s with ctc := { s.ctc with freeList := s.ctc.freeList.erase i } })
    (.quiet fun _ => rfl) (putEntry_flagsAside ..)

theorem flagsAside_same (h : ∀ flags, f (withFlags flags s) = withFlags flags s) : FlagsAside f s :=
  .quiet fun flags => by rw [h, show f s = s from h s.evu.flags]

theorem ctcDiscard_flagsAside (i : Nat) (p : PeerFrame) (s : State) : FlagsAside (ctcDiscard i p) s := by
  by_cases hu : Unreadable s i
  · exact flagsAside_same fun flags => ctcDiscard_unread (s := withFlags flags s) hu p
  · have howes {key : ShortKey} {o : Owed} (hf : (∃ time cls, p = .haveCopy key time cls) ∧ o = Owed.haveFrame ∨
        p = .drop key .damaged ∧ o = .dropFrame) : FlagsAside (ctcDiscard i p) s := by
      by_cases hc : ((entryAt s i).occupied && decide ((entryAt s i).shortKey = key)) = true
      · exact (setOwed_flagsAside i o s).congr fun flags =>
          (ctcDiscard_owes (s := withFlags flags s) hu hf).trans (if_pos hc)
      · exact flagsAside_same fun flags => (ctcDiscard_owes (s := withFlags flags s) hu hf).trans (if_neg hc)
    have hother (h : ∀ s : State, ¬ Unreadable s i → ctcDiscard i p s = s) : FlagsAside (ctcDiscard i p) s :=
      flagsAside_same fun flags => h (withFlags flags s) hu
    have hskip (s : State) (h : ¬ Unreadable s i) : ¬ skips s i = true := mt (skips_iff s i).mp h
    cases p with
    | haveCopy key time cls => exact howes (.inl ⟨⟨time, cls, rfl⟩, rfl⟩)
    | drop key reason =>
      cases reason with
      | damaged => exact howes (.inr ⟨rfl, rfl⟩)
      | disposed =>
        by_cases hi : i ∈ s.ctc.freeList
        · exact (oweDrop_flagsAside i key s).congr fun flags =>
            (ctcDiscard_disposed (s := withFlags flags s) hu key).trans (if_pos hi)
        · exact flagsAside_same fun flags => (ctcDiscard_disposed (s := withFlags flags s) hu key).trans (if_neg hi)
    | _ => exact hother fun s h => if_neg (hskip s h)

theorem payloadDiscard_flagsAside (p : PeerFrame) (s : State) : FlagsAside (payloadDiscard p) s := by
  cases p with
  | hold m n x time =>
    cases hi : slotOf s m with
    | none =>
      refine flagsAside_same fun flags => ?_
      unfold payloadDiscard
      dsimp only
      rw [show slotOf (withFlags flags s) m = none from hi]
    | some i =>
      refine (FlagsAside.quiet (f := updateSlot i fun h => { h with sendOwed := true }) fun _ => rfl).congr fun flags => ?_
      unfold payloadDiscard
      dsimp only
      rw [show slotOf (withFlags flags s) m = some i from hi]
  | _ => exact .quiet fun _ => rfl

theorem keepRepair_flagsAside (i : Nat) (s : State) : FlagsAside (keepRepair i) s :=
  (FlagsAside.quiet (f := fun s : State => { s with cnu := { s.cnu with
    repairs := if i ∈ s.cnu.repairs ∨ 16 ≤ s.cnu.repairs.length then s.cnu.repairs else s.cnu.repairs ++ [i] } })
    fun _ => rfl).congr fun flags => keepRepair_eq i (withFlags flags s)

theorem reportDiscard_flagsAside (q : SendItem) (s : State) : FlagsAside (fun s => reportDiscard s q) s := by
  unfold reportDiscard
  cases q.content with
  | beacon => exact .quiet fun _ => rfl
  | frame p =>
    cases q.producer with
    | byPayload => exact payloadDiscard_flagsAside p s
    | announcement i superseded =>
      cases superseded with
      | true => exact .quiet fun _ => rfl
      | false => exact ctcDiscard_flagsAside i p s
    | repair i => exact keepRepair_flagsAside i s

theorem reports_flagsAside (qs : List SendItem) (s : State) : FlagsAside (fun s => qs.foldl reportDiscard s) s := by
  induction qs generalizing s with
  | nil => exact .quiet fun _ => rfl
  | cons q qs ih => exact (reportDiscard_flagsAside q s).comp (ih _)

theorem emptyQueue_flagsAside (s : State) : FlagsAside emptyQueue s :=
  FlagsAside.comp (f := fun u : State => s.pbc.sendQueue.foldl reportDiscard u) (g := readDone)
    (s := { s with pbc := { s.pbc with sendQueue := [], attempt := none, heldBeacon := false } })
    (reports_flagsAside ..) (.quiet fun _ => rfl)

/-! ### The commands at the line -/

theorem sendError_on (hp : Powered s) (e : SendFault) : exec (.sendError e) s = .next
    (if s.pbc.attempt.isSome then beginErrorSeq true (afterAttempt (countSendError e (endAttempt s))) else s) :=
  (powered_on hp _ : execSendError e s = _)

theorem receiveError_on (hp : Powered s) (e : RecvFault) (h1 : s.pbc.awaitingEleven = false) (h2 : s.pbc.attempt = none) :
    exec (.receiveError e) s = .next (beginErrorSeq false (countErrored e (raiseRecv { readGap s with
      pbc := { (readGap s).pbc with
        ackDriven := decide (e = .form) && decide ((readGap s).pbc.confinement ≠ .silent) && !(readGap s).pbc.dupId
        restrainedWait := false } }))) := by
  have hx : exec (.receiveError e) s = _ := (powered_on hp _ : execReceiveError e s = _)
  rw [hx, if_pos (by simp [readsFrames, h1, h2])]

theorem receiveError_none (hp : Powered s) (e : RecvFault) (h : s.pbc.awaitingEleven = true ∨ s.pbc.attempt ≠ none) :
    exec (.receiveError e) s = .next s := by
  have hx : exec (.receiveError e) s = _ := (powered_on hp _ : execReceiveError e s = _)
  rw [hx, if_neg]
  obtain h | h := h
  · simp [readsFrames, h]
  · simp [h]

/-- The part whose error sequence has had its dominant run. -/
def withRun (q : ErrorSeq) (s : State) : State := { s with pbc := { s.pbc with errorSeq := some { q with dominantRun := true } } }

theorem dominantRun_on (hp : Powered s) {q : ErrorSeq} (hq : s.pbc.errorSeq = some q) (h : s.pbc.awaitingEleven = false) :
    exec .dominantRunError s = .next (if s.pbc.confinement = .silent then
      if q.dominantRun then { withRun q s with pbc := { (withRun q s).pbc with runCount := 0 } } else readDominantRun (withRun q s)
      else if q.sending then raiseSend (withRun q s) else raiseRecv (withRun q s)) := by
  have hx : exec .dominantRunError s = _ := (powered_on hp _ : execDominantRunError s = _)
  rw [hx, hq]
  dsimp only
  rw [if_neg (by rw [h]; exact Bool.false_ne_true)]
  rfl

theorem dominantRun_none (hp : Powered s) (h : s.pbc.errorSeq = none ∨ s.pbc.awaitingEleven = true) :
    exec .dominantRunError s = .next s := by
  have hx : exec .dominantRunError s = _ := (powered_on hp _ : execDominantRunError s = _)
  rw [hx]
  cases hq : s.pbc.errorSeq with
  | none => rfl
  | some q => exact congrArg Host.Outcome.next (if_pos (h.resolve_left (by rw [hq]; exact nofun)))

/-! ### The counts moved (R109 to R111) -/

theorem restrainedNow_iff {old conf : Confinement} (ho : old ≠ .silent) (hc : conf ≠ .silent) :
    (conf ≠ old ∧ conf ≠ .voiced) ↔ (old = .voiced ∧ conf = .restrained) := by
  revert ho hc
  cases old <;> cases conf <;> decide

/-- Counts that do not bring SILENT. -/
theorem setCounts_moved {send recv : Nat} {conf : Confinement} (h : s.pbc.confinement ≠ .silent) (hs : send < 240)
    (hconf : conf = if 120 ≤ send ∨ 120 ≤ recv then Confinement.restrained else .voiced) : setCounts send recv s = { s with
      pbc := { s.pbc with
        sendCount := send, recvCount := recv, confinement := conf, caution := decide (60 ≤ send ∨ 60 ≤ recv)
        restrainedWait := s.pbc.restrainedWait && decide (conf = .restrained) }
      evu := { s.evu with flags :=
        if ((60 ≤ send ∨ 60 ≤ recv) ∧ s.pbc.caution = false) ∨ (s.pbc.confinement = .voiced ∧ conf = .restrained) then
          s.evu.flags ||| 0x000200 else s.evu.flags } } := by
  have hn : conf ≠ .silent := by rw [hconf]; split <;> decide
  rw [setCounts_loud h hs, ← hconf]
  unfold counted
  simp only [restrainedNow_iff h hn]

/-- Counts that bring a RESTRAINED node into SILENT. -/
theorem setCounts_falls (recv : Nat) (h : s.pbc.confinement = .restrained) : setCounts 240 recv s =
    emptyQueue { s with
      pbc := { s.pbc with
        sendCount := 240, recvCount := recv, confinement := .silent, caution := true, restrainedWait := false
        runCount := 0, recoveryCount := 0 }
      evu := { s.evu with flags := s.evu.flags ||| 0x000200 } } := by
  have hnext : nextConfinement s.pbc.confinement 240 recv = .silent := by rw [h]; rfl
  rw [setCounts_eq 240 recv (by rw [h]; decide), hnext, if_pos rfl]
  have hcaution : decide (60 ≤ 240 ∨ 60 ≤ recv) = true := decide_eq_true (Or.inl (by decide))
  unfold counted enterSilent
  rw [if_pos (.inr ⟨by rw [h]; decide, by decide⟩), hcaution]

/-- The error sequence and the wait that end an attempt of a node in this confinement state. -/
theorem beginErrorSeq_attempt {conf : Confinement} (h : s.pbc.confinement = conf) : beginErrorSeq true (afterAttempt s) =
    { s with pbc := { s.pbc with
      restrainedWait := decide (conf = .restrained)
      errorSeq := some ⟨true, decide (conf = .voiced) && !s.pbc.dupId, false⟩ } } := by
  subst h
  rfl

/-! ### The change of the counts as a whole (R111, R113) -/

/-- The counts, the caution level and the confinement state after a change of the counts. -/
structure CountsNow (send recv : Nat) (conf : Confinement) (t : State) : Prop where
  sendCount : t.pbc.sendCount = send
  recvCount : t.pbc.recvCount = recv
  caution : t.pbc.caution = decide (60 ≤ send ∨ 60 ≤ recv)
  confinement : t.pbc.confinement = conf

/-- The part as it enters SILENT. -/
def silenced (s : State) : State := { s with pbc := { s.pbc with runCount := 0, recoveryCount := 0, restrainedWait := false } }

theorem setCounts_now (send recv : Nat) (h : s.pbc.confinement ≠ .silent) :
    CountsNow send recv (nextConfinement s.pbc.confinement send recv) (setCounts send recv s) := by
  rw [setCounts_eq send recv h]
  generalize nextConfinement s.pbc.confinement send recv = conf
  split
  · unfold enterSilent
    obtain ⟨h1, h2, h3, h4⟩ : CountsNow send recv conf (silenced (counted send recv conf s)) := ⟨rfl, rfl, rfl, rfl⟩
    have hpbc := emptyQueue_pbc (silenced (counted send recv conf s))
    exact ⟨(congrArg Pbc.sendCount hpbc).trans h1, (congrArg Pbc.recvCount hpbc).trans h2,
      (congrArg Pbc.caution hpbc).trans h3, (congrArg Pbc.confinement hpbc).trans h4⟩
  · exact ⟨rfl, rfl, rfl, rfl⟩

theorem emptyQueue_flags (s : State) : ∃ m : EventMask, m.getLsbD 9 = false ∧
    (emptyQueue s).evu.flags = s.evu.flags ||| m ∧ emptyQueue (withFlags (s.evu.flags ||| m) s) = emptyQueue s := by
  obtain ⟨m, hm, h⟩ := emptyQueue_flagsAside s
  have hsame : emptyQueue s = withFlags (s.evu.flags ||| m) (emptyQueue s) := h s.evu.flags
  refine ⟨m, hm, congrArg (fun t : State => t.evu.flags) hsame, ?_⟩
  rw [h, BitVec.or_assoc, BitVec.or_self]
  exact hsame.symm

/-- The part after a change of the counts, from its own flags, caution level and confinement state. -/
theorem setCounts_shape (send recv : Nat) (h : s.pbc.confinement ≠ .silent) (ht : t = setCounts send recv s)
    (hu : u = { s with
      pbc := { s.pbc with
        sendCount := send, recvCount := recv, caution := t.pbc.caution, confinement := t.pbc.confinement
        restrainedWait := s.pbc.restrainedWait && decide (t.pbc.confinement = .restrained) }
      evu := { s.evu with flags := t.evu.flags } }) :
    t = if t.pbc.confinement = .silent then
      emptyQueue { u with pbc := { u.pbc with runCount := 0, recoveryCount := 0 } } else u := by
  obtain ⟨-, -, hcaution, hconf⟩ := setCounts_now send recv h
  rw [← ht] at hcaution hconf
  rw [setCounts_eq send recv h, ← hconf] at ht
  rw [hcaution] at hu
  by_cases hs : t.pbc.confinement = .silent
  · rw [if_pos hs] at ht ⊢
    rw [hs] at ht hu
    rw [show (s.pbc.restrainedWait && decide (Confinement.silent = .restrained)) = false from Bool.and_false _] at hu
    obtain ⟨m, -, hflags, hagain⟩ := emptyQueue_flags (silenced (counted send recv .silent s))
    have htq : t = emptyQueue (silenced (counted send recv .silent s)) := ht
    rw [← htq] at hflags hagain
    rw [← hagain, ← hflags, hu]
    rfl
  · rw [if_neg hs] at ht ⊢
    rw [hu]
    rw [ht]
    rfl

theorem setCounts_busState (send recv : Nat) (h : s.pbc.confinement ≠ .silent) :
    (setCounts send recv s).evu.flags.getLsbD 9 = true ↔ s.evu.flags.getLsbD 9 = true ∨
      ((60 ≤ send ∨ 60 ≤ recv) ∧ s.pbc.caution = false) ∨
      (nextConfinement s.pbc.confinement send recv ≠ s.pbc.confinement ∧
        nextConfinement s.pbc.confinement send recv ≠ .voiced) := by
  have hcounted (conf : Confinement) : (counted send recv conf s).evu.flags.getLsbD 9 = true ↔
      s.evu.flags.getLsbD 9 = true ∨ ((60 ≤ send ∨ 60 ≤ recv) ∧ s.pbc.caution = false) ∨
        (conf ≠ s.pbc.confinement ∧ conf ≠ .voiced) := by
    unfold counted
    dsimp only
    split
    · rename_i hev
      rw [BitVec.getLsbD_or, show (0x000200 : EventMask).getLsbD 9 = true by decide, Bool.or_true]
      exact iff_of_true rfl (.inr hev)
    · rename_i hev
      exact (or_iff_left hev).symm
  rw [setCounts_eq send recv h, ← hcounted]
  split
  · obtain ⟨m, hm, hflags, -⟩ :=
      emptyQueue_flags (silenced (counted send recv (nextConfinement s.pbc.confinement send recv) s))
    show (emptyQueue (silenced _)).evu.flags.getLsbD 9 = true ↔ _
    rw [hflags, BitVec.getLsbD_or, hm, Bool.or_false]
    rfl
  · exact Iff.rfl

/-- Settles O33. -/
theorem errorsMoveTheCounts : Obligations.ErrorsMoveTheCounts := by
  unfold Obligations.ErrorsMoveTheCounts
  refine ⟨fun e s hp => ⟨fun ha => ?_, fun f ha queue hqueue => ?_⟩, fun e s hp => ⟨receiveError_none hp e, dominantRun_none hp,
    fun recv conf flags hc hs hr hconf hflags => ⟨fun h1 h2 => ?_, fun dominant run hq h1 => ?_⟩,
    fun dominant run hc hq hlt hge hcau h1 => ?_, fun q u hq h1 hu => ?_, fun hs h1 v h2 hv => ?_⟩,
    fun send recv s hc hs t ht => ?_⟩
  · rw [sendError_on hp, ha]
    rfl
  · have hx := sendError_on hp e
    rw [ha, Option.isSome_some, if_pos rfl] at hx
    subst hqueue
    refine ⟨fun hc hlt conf hconf => ?_, fun hc he => ?_, fun hc he hge hle v hv => ?_, fun hc => ?_⟩
    · have hn : s.pbc.confinement ≠ .silent := by obtain h | ⟨h, -⟩ := hc <;> rw [h] <;> decide
      have hcount : countSendError e (endAttempt s) = setCounts (s.pbc.sendCount + 6) s.pbc.recvCount (endAttempt s) := by
        unfold countSendError raiseSend
        rw [if_neg fun h => by obtain hv | hv := hc; exacts [absurd (hv.symm.trans h.2) (by decide), hv.2 h.1]]
        show setCounts (min 240 (s.pbc.sendCount + 6)) _ _ = _
        rw [Nat.min_eq_right (Nat.le_of_lt hlt)]
        rfl
      rw [hx, hcount, setCounts_moved (by exact hn) hlt hconf]
      rfl
    · rw [hx]
      unfold countSendError
      rw [if_pos ⟨he, hc⟩, beginErrorSeq_attempt (s := endAttempt s) hc]
      rfl
    · have hcount : countSendError e (endAttempt s) = v := by
        unfold countSendError raiseSend
        rw [if_neg fun h => he h.1]
        show setCounts (min 240 (s.pbc.sendCount + 6)) _ _ = _
        rw [Nat.min_eq_left (by omega), setCounts_falls _ (by exact hc), hv]
        rfl
      rw [hx, hcount]
      have hpbc := emptyQueue_pbc { s with
        pbc := { s.pbc with
          attempt := none, heldBeacon := false, sendQueue := s.pbc.sendQueue.map (fun q => { q with inAttempt := false })
          sendCount := 240, confinement := .silent, caution := true, restrainedWait := false, runCount := 0, recoveryCount := 0 }
        evu := { s.evu with flags := s.evu.flags ||| 0x000200 } }
      rw [← hv] at hpbc
      have h1 : v.pbc.confinement = .silent := by rw [hpbc]
      have h2 : v.pbc.restrainedWait = false := by rw [hpbc]
      rw [beginErrorSeq_attempt h1]
      have hwait : v.pbc = { v.pbc with restrainedWait := false } := by rw [← h2]
      exact congrArg (fun p : Pbc => Host.Outcome.next { v with pbc := { p with errorSeq := some ⟨true, false, false⟩ } })
        hwait.symm
    · rw [hx]
      unfold countSendError raiseSend
      rw [if_neg fun h => absurd (hc.symm.trans h.2) (by decide), setCounts_silent _ _ (by exact hc),
        beginErrorSeq_attempt (s := endAttempt s) hc]
      rfl
  · have hraise : raiseRecv { s with pbc := { s.pbc with
        ackDriven := decide (e = .form) && decide (s.pbc.confinement ≠ .silent) && !s.pbc.dupId, restrainedWait := false } } =
        setCounts s.pbc.sendCount recv { s with pbc := { s.pbc with
          ackDriven := decide (e = .form) && !s.pbc.dupId, restrainedWait := false } } := by
      rw [hr, decide_eq_true hc, Bool.and_true]
      rfl
    have hn : conf ≠ .silent := by rw [hconf]; split <;> decide
    rw [receiveError_on hp e h1 h2, readGap_loud hc, hraise, setCounts_moved (by exact hc) (by exact hs) hconf]
    unfold countErrored
    rw [if_neg (by exact hn), hflags]
    rfl
  · have hraise : raiseRecv (withRun ⟨false, dominant, run⟩ s) = setCounts s.pbc.sendCount recv (withRun ⟨false, dominant, run⟩ s) := by
      rw [hr]
      rfl
    rw [dominantRun_on hp hq h1, if_neg hc, if_neg (by exact Bool.false_ne_true), hraise,
      setCounts_moved (by exact hc) (by exact hs) hconf, hflags]
    rfl
  · have hraise : raiseSend (withRun ⟨true, dominant, run⟩ s) =
        setCounts (s.pbc.sendCount + 6) s.pbc.recvCount (withRun ⟨true, dominant, run⟩ s) := by
      unfold raiseSend
      show setCounts (min 240 (s.pbc.sendCount + 6)) _ _ = _
      rw [Nat.min_eq_right (by omega)]
      rfl
    rw [dominantRun_on hp hq h1, if_neg (by rw [hc]; decide), if_pos (by rfl), hraise,
      setCounts_moved (conf := .restrained) (by show s.pbc.confinement ≠ _; rw [hc]; decide) (by omega)
        (if_pos (.inl (by omega))).symm, if_neg]
    · have hpbc : s.pbc = { s.pbc with confinement := .restrained, caution := true } := by rw [← hc, ← hcau]
      have hcaution : decide (60 ≤ s.pbc.sendCount + 6 ∨ 60 ≤ s.pbc.recvCount) = true := decide_eq_true (.inl (by omega))
      have hwait : (s.pbc.restrainedWait && decide (Confinement.restrained = .restrained)) = s.pbc.restrainedWait :=
        Bool.and_true _
      unfold withRun
      dsimp only
      rw [hcaution, hwait]
      exact congrArg (fun p : Pbc => Host.Outcome.next { s with pbc := { p with
        sendCount := s.pbc.sendCount + 6, errorSeq := some ⟨true, dominant, true⟩ } }) hpbc.symm
    · rintro (⟨-, h⟩ | ⟨h, -⟩)
      · exact absurd (hcau.symm.trans h) (by decide)
      · exact absurd (hc.symm.trans h) (by decide)
  · have hu : u = withRun q s := hu
    subst hu
    refine ⟨fun hc => ?_, fun hc hd => ?_, fun hc hd => ⟨Config.gapLead s.free % 17, by omega, fun v hv => ?_⟩⟩
    · rw [dominantRun_on hp hq h1, if_neg hc]
      rfl
    · rw [dominantRun_on hp hq h1, if_pos hc, if_pos hd]
    · rw [dominantRun_on hp hq h1, if_pos hc, if_neg (by rw [hd]; exact Bool.false_ne_true), readDominantRun_eq _ v hv,
        leaveSilent_eq]
  · have hgap : readGap s = v := by
      have hx : exec .leaveSilent s = .next (readGap s) := (powered_on hp _ : execLeaveSilent s = _)
      rw [hv] at hx
      cases hx
      rfl
    refine ⟨fun hloud => ?_, fun hsil => ?_⟩
    · obtain ⟨heq, hsil, -⟩ | ⟨hpins, hatt, hawait, -⟩ := readGap_cases hs
      · rw [← hgap, heq] at hloud
        exact absurd hsil hloud
      · rw [hgap] at hpins hatt hawait
        rw [receiveError_on hp e h1 h2, receiveError_on (by rw [Powered, hpins]; exact hp) e hawait (hatt.trans h2), hgap,
          readGap_loud hloud]
    · refine ⟨errorRun e (Config.errorTail v.free), fun he => by rw [he]; rfl, fun he => ?_, fun he => ?_, ?_⟩
      · rw [he]
        unfold errorRun
        dsimp only
        split
        · exact .inr rfl
        · exact .inl rfl
      · rw [he]
        exact Nat.mod_lt _ (by decide)
      · rw [receiveError_on hp e h1 h2, hgap]
        unfold raiseRecv
        rw [setCounts_silent _ _ (by exact hsil)]
        unfold countErrored
        rw [if_pos (by exact hsil)]
        unfold beginErrorSeq
        dsimp only
        rw [hsil, decide_eq_false (not_not.mpr rfl), Bool.and_false, Bool.false_and, decide_eq_false (by decide), Bool.false_and]
  · obtain ⟨h1, h2, h3, h4⟩ := setCounts_now (s := s) send recv hc
    have hev := setCounts_busState (s := s) send recv hc
    rw [← ht] at h1 h2 h3 h4 hev
    refine ⟨h1, h2, h3, fun hv hlt => ?_, fun hr => ?_, fun u hu => setCounts_shape send recv hc ht hu, ?_⟩
    · rw [h4, nextConfinement_loud hc hlt]
      split
      · rename_i h
        exact ⟨iff_of_true rfl h, by decide⟩
      · rename_i h
        exact ⟨iff_of_false (by decide) h, by decide⟩
    · rw [h4, hr]
      unfold nextConfinement
      dsimp only
      by_cases h240 : send = 240
      · rw [if_pos h240]
        exact ⟨iff_of_true rfl h240, iff_of_false (by decide) (by omega)⟩
      · rw [if_neg h240]
        split
        · rename_i h
          exact ⟨iff_of_false (by decide) h240, iff_of_true rfl h⟩
        · rename_i h
          exact ⟨iff_of_false (by decide) h240, iff_of_false (by decide) h⟩
    · rw [hev, h3, h4, decide_eq_true_iff]

end Sys2Proof.Machine
end

section
/-! PROOFS. Bytes, the fields of bodies, and the check. -/

namespace Sys2Proof.Machine

variable {w n k off : Nat}

/-! ### Numbers as bytes (R193) -/

@[simp] theorem toBytes_length (n x : Nat) : (toBytes n x).length = n := by simp [toBytes]

theorem toBytes_succ (n x : Nat) : toBytes (n + 1) x = BitVec.ofNat 8 (x / 256 ^ n) :: toBytes n x := by
  unfold toBytes
  rw [List.range_succ_eq_map, List.map_cons, List.map_map]
  congr 1
  refine List.map_congr_left fun i _ => ?_
  show BitVec.ofNat 8 (x / 256 ^ (n + 1 - 1 - (i + 1))) = BitVec.ofNat 8 (x / 256 ^ (n - 1 - i))
  congr 3
  omega

theorem toBytes_getD {i : Nat} (x : Nat) (h : i < n) : ((toBytes n x).getD i 0).toNat = x / 256 ^ (n - 1 - i) % 256 := by
  simp [toBytes, List.getD_eq_getElem?_getD, h]

theorem foldl_bytes (a : Nat) (bs : List Byte) :
    bs.foldl (fun a b => a * 256 + b.toNat) a = a * 256 ^ bs.length + ofBytes bs := by
  unfold ofBytes
  induction bs generalizing a with
  | nil => simp
  | cons b bs ih =>
    rw [List.foldl_cons, List.foldl_cons, ih, ih (0 * 256 + b.toNat), List.length_cons, Nat.pow_succ]
    ring

theorem ofBytes_cons (b : Byte) (bs : List Byte) : ofBytes (b :: bs) = b.toNat * 256 ^ bs.length + ofBytes bs := by
  show bs.foldl _ (0 * 256 + b.toNat) = _
  rw [foldl_bytes, Nat.zero_mul, Nat.zero_add]

theorem ofBytes_toBytes (n x : Nat) : ofBytes (toBytes n x) = x % 256 ^ n := by
  induction n with
  | zero => simp [toBytes, ofBytes, Nat.mod_one]
  | succ n ih =>
    rw [toBytes_succ, ofBytes_cons, toBytes_length, ih, Nat.mod_pow_succ, BitVec.toNat_ofNat]
    ring

theorem ofBytes_injective {xs ys : List Byte} (hl : xs.length = ys.length) (h : ofBytes xs = ofBytes ys) : xs = ys := by
  have hlt (zs : List Byte) : ofBytes zs < 256 ^ zs.length := by
    induction zs with
    | nil => exact Nat.one_pos
    | cons z zs ih =>
      rw [ofBytes_cons, List.length_cons, Nat.pow_succ]
      have hz : z.toNat < 256 := z.isLt
      have : z.toNat * 256 ^ zs.length + 256 ^ zs.length ≤ 256 * 256 ^ zs.length := by
        rw [← Nat.succ_mul]
        exact Nat.mul_le_mul_right _ hz
      omega
  induction xs generalizing ys with
  | nil => exact (List.length_eq_zero_iff.mp hl.symm).symm
  | cons x xs ih =>
    cases ys with
    | nil => cases hl
    | cons y ys =>
      have hl' : xs.length = ys.length := Nat.succ_injective hl
      rw [ofBytes_cons, ofBytes_cons, hl'] at h
      have hx := hlt xs
      have hy := hlt ys
      rw [hl'] at hx
      have hhead : x.toNat = y.toNat := by
        have hdx := Nat.add_mul_div_right (ofBytes xs) x.toNat (Nat.pow_pos (n := ys.length) (show 0 < 256 by decide))
        have hdy := Nat.add_mul_div_right (ofBytes ys) y.toNat (Nat.pow_pos (n := ys.length) (show 0 < 256 by decide))
        rw [Nat.div_eq_of_lt hx] at hdx
        rw [Nat.div_eq_of_lt hy] at hdy
        rw [Nat.add_comm] at hdx hdy
        rw [h] at hdx
        omega
      have htail : ofBytes xs = ofBytes ys := by
        rw [hhead] at h
        omega
      rw [BitVec.eq_of_toNat_eq hhead, ih hl' htail]

theorem toBytes_drop (n k x : Nat) : (toBytes n x).drop k = toBytes (n - k) x := by
  induction k generalizing n with
  | zero => rfl
  | succ k ih =>
    cases n with
    | zero => simp [toBytes]
    | succ n =>
      rw [toBytes_succ, List.drop_succ_cons, ih, Nat.add_sub_add_right]

theorem toBytes_take (x : Nat) (h : k ≤ n) : (toBytes n x).take k = toBytes k (x / 256 ^ (n - k)) := by
  induction k generalizing n with
  | zero => simp [toBytes]
  | succ k ih =>
    obtain ⟨n, rfl⟩ : ∃ m, n = m + 1 := ⟨n - 1, by omega⟩
    rw [toBytes_succ, List.take_succ_cons, ih (by omega), toBytes_succ, Nat.add_sub_add_right, Nat.div_div_eq_div_mul,
      ← Nat.pow_add, Nat.sub_add_cancel (by omega)]

/-! ### Fields (12.3, 12.4) -/

theorem field_toBytes (x : Nat) (h : off + k ≤ n) : field (toBytes n x) off k = x / 256 ^ (n - off - k) % 256 ^ k := by
  unfold field
  rw [toBytes_drop, toBytes_take _ (by omega), ofBytes_toBytes]

theorem field_head (n x : Nat) (rest : List Byte) : field (toBytes n x ++ rest) 0 n = x % 256 ^ n := by
  unfold field
  rw [List.drop_zero, List.take_left' (toBytes_length ..), ofBytes_toBytes]

theorem field_whole (n x : Nat) : field (toBytes n x) 0 n = x % 256 ^ n := by
  have h := field_head n x []
  rwa [List.append_nil] at h

theorem field_skip (x : Nat) (rest : List Byte) (h : k ≤ off) : field (toBytes k x ++ rest) off n = field rest (off - k) n := by
  unfold field
  rw [List.drop_append, toBytes_drop, Nat.sub_eq_zero_of_le h, toBytes_length]
  rfl

theorem field_cons (b : Byte) (rest : List Byte) (h : 1 ≤ off) : field (b :: rest) off n = field rest (off - 1) n := by
  obtain ⟨m, rfl⟩ : ∃ m, off = m + 1 := ⟨off - 1, by omega⟩
  rfl

theorem field_byte (b : Byte) (rest : List Byte) : field (b :: rest) 0 1 = b.toNat := by simp [field, ofBytes]

theorem ofNat_field {v : BitVec w} (h : w = 8 * n) : BitVec.ofNat w (v.toNat % 256 ^ n) = v := by
  have hp : 256 ^ n = 2 ^ w := by rw [h, Nat.pow_mul]
  rw [hp, Nat.mod_eq_of_lt v.isLt, BitVec.ofNat_toNat, BitVec.setWidth_eq]

theorem bvField_head (v : BitVec w) (rest : List Byte) (h : w = 8 * n) : bvField w (toBytes n v.toNat ++ rest) 0 n = v := by
  unfold bvField
  rw [field_head, ofNat_field h]

theorem bvField_whole (v : BitVec w) (h : w = 8 * n) : bvField w (toBytes n v.toNat) 0 n = v := by
  unfold bvField
  rw [field_whole, ofNat_field h]

theorem bvField_skip (x : Nat) (rest : List Byte) (h : k ≤ off) :
    bvField w (toBytes k x ++ rest) off n = bvField w rest (off - k) n := by
  unfold bvField
  rw [field_skip x rest h]

theorem bvField_cons (b : Byte) (rest : List Byte) (h : 1 ≤ off) : bvField w (b :: rest) off n = bvField w rest (off - 1) n := by
  unfold bvField
  rw [field_cons b rest h]

theorem bvField_byte (b : Byte) (rest : List Byte) : bvField 8 (b :: rest) 0 1 = b := by
  unfold bvField
  rw [field_byte, BitVec.ofNat_toNat, BitVec.setWidth_eq]

/-! ### The check (R89) -/

theorem checkOf_concat (bits : List Bool) (b : Bool) : checkOf (bits ++ [b]) =
    if (checkOf bits).getLsbD 15 = b then checkOf bits <<< 1 else (checkOf bits <<< 1) ^^^ 0x1021 := by
  unfold checkOf
  rw [List.foldl_append]
  show checkStep (bits.foldl checkStep 0xFFFF#16) b = _
  generalize bits.foldl checkStep 0xFFFF#16 = reg
  by_cases h : reg.getLsbD 15 = b
  · unfold checkStep
    rw [if_pos h, if_neg (by rw [h, Bool.xor_self]; exact Bool.false_ne_true)]
  · unfold checkStep
    rw [if_neg h, if_pos (by simpa using h)]
    rfl

end Sys2Proof.Machine
end

section
/-! PROOFS. Peer payloads, and the frames of the request link and of the service line. -/

namespace Sys2Proof.Machine

variable {w n k off : Nat} {tag kind : Byte} {body : List Byte}

/-! ### Peer payloads (R94, R102) -/

theorem tableLength_payload (f : PeerFrame) : tableLength (kindOf f) = some (payloadOf f).length := by
  cases f with
  | drop key reason => cases reason <;> (simp only [payloadOf, List.length_append, toBytes_length]; rfl)
  | _ => simp only [payloadOf, List.length_append, toBytes_length]; rfl

/-- The marks of a BEACON in their byte. -/
theorem marks_testBit (invalid dormant fault : Bool) :
    (invalid.toNat + 2 * dormant.toNat + 4 * fault.toNat).testBit 0 = invalid ∧
    (invalid.toNat + 2 * dormant.toNat + 4 * fault.toNat).testBit 1 = dormant ∧
    (invalid.toNat + 2 * dormant.toNat + 4 * fault.toNat).testBit 2 = fault ∧
    invalid.toNat + 2 * dormant.toNat + 4 * fault.toNat < 256 ^ 1 := by
  revert invalid dormant fault
  decide

theorem readPayload_payloadOf (f : PeerFrame) (h : f.Sendable) : readPayload (kindOf f) (payloadOf f) = some f := by
  unfold readPayload
  rw [if_pos (tableLength_payload f)]
  cases f with
  | hold m p x time =>
    obtain ⟨hp, ht⟩ := h
    show some (PeerFrame.hold _ _ _ _) = _
    unfold payloadOf
    simp only [List.append_assoc, field_head, field_skip, field_whole, Nat.reduceLeDiff, Nat.reduceSub, ofNat_field,
      Nat.reduceMul, Nat.mod_eq_of_lt (show time < 256 ^ 5 from ht), Nat.mod_eq_of_lt (show p < 256 ^ 1 by omega),
      Nat.min_eq_right hp]
  | lift m time =>
    show some (PeerFrame.lift _ _) = _
    unfold payloadOf
    simp only [field_head, field_skip, field_whole, Nat.reduceLeDiff, Nat.reduceSub, ofNat_field, Nat.reduceMul,
      Nat.mod_eq_of_lt (show time < 256 ^ 5 from h)]
  | drop key reason =>
    have hkey (r : DropReason) : BitVec.ofNat 64 (field (payloadOf (.drop key r)) 0 8) = key := by
      unfold payloadOf
      simp only [field_head, ofNat_field, Nat.reduceMul]
    have hreason (r : DropReason) : field (payloadOf (.drop key r)) 8 1 = dropReasonCode r := by
      unfold payloadOf
      simp only [field_skip, field_whole, Nat.reduceLeDiff, Nat.reduceSub]
      cases r <;> rfl
    cases reason with
    | damaged =>
      rw [hreason .damaged]
      exact congrArg (fun k => some (PeerFrame.drop k .damaged)) (hkey .damaged)
    | disposed =>
      rw [hreason .disposed]
      exact congrArg (fun k => some (PeerFrame.drop k .disposed)) (hkey .disposed)
  | claim key =>
    show some (PeerFrame.claim _) = _
    unfold payloadOf
    simp only [field_whole, ofNat_field, Nat.reduceMul]
  | want x =>
    obtain ⟨ht, hc, hs, h1, h4, hcust⟩ := h
    have hcls : field (payloadOf (.want x)) 13 1 = (if x.held then 128 else 0) + x.cls := by
      unfold payloadOf
      simp only [List.append_assoc, field_head, field_skip, Nat.reduceLeDiff, Nat.reduceSub]
      exact Nat.mod_eq_of_lt (by split <;> omega)
    have hlen : field (payloadOf (.want x)) 18 1 = x.cust.len := by
      unfold payloadOf
      simp only [List.append_assoc, field_head, field_skip, Nat.reduceLeDiff, Nat.reduceSub]
      exact Nat.mod_eq_of_lt (by omega)
    have hmod : ((if x.held then 128 else 0) + x.cls) % 128 = x.cls := by split <;> omega
    have hheld : decide (128 ≤ (if x.held then 128 else 0) + x.cls) = x.held := by
      cases x.held
      · exact decide_eq_false (by simp; omega)
      · exact decide_eq_true (by simp)
    have hcode : custodianOf x.cust.len (BitVec.ofNat 32 (field (payloadOf (.want x)) 19 4)) = x.cust := by
      have hfield : BitVec.ofNat 32 (field (payloadOf (.want x)) 19 4) = x.cust.code := by
        unfold payloadOf
        simp only [List.append_assoc, field_head, field_skip, Nat.reduceLeDiff, Nat.reduceSub, ofNat_field, Nat.reduceMul]
      rw [hfield, ← hcust]
    show (if 15 < field (payloadOf (.want x)) 13 1 % 128 ∨ field (payloadOf (.want x)) 18 1 = 0 ∨
      4 < field (payloadOf (.want x)) 18 1 then none else some (PeerFrame.want ⟨_, _, field (payloadOf (.want x)) 13 1 % 128,
        decide (128 ≤ field (payloadOf (.want x)) 13 1), _,
        custodianOf (field (payloadOf (.want x)) 18 1) (BitVec.ofNat 32 (field (payloadOf (.want x)) 19 4)), _⟩)) = _
    rw [hcls, hlen, hmod, hheld, hcode, if_neg (by omega)]
    unfold payloadOf
    simp only [List.append_assoc, field_head, field_skip, field_whole, Nat.reduceLeDiff, Nat.reduceSub, ofNat_field,
      Nat.reduceMul, Nat.mod_eq_of_lt (show x.lodgeTime < 256 ^ 5 from ht), Nat.mod_eq_of_lt (show x.size < 256 ^ 4 from hs)]
  | haveCopy key time cls =>
    obtain ⟨ht, hc⟩ := h
    have hcls : field (payloadOf (.haveCopy key time cls)) 13 1 = cls := by
      unfold payloadOf
      simp only [List.append_assoc, field_skip, field_whole, Nat.reduceLeDiff, Nat.reduceSub,
        Nat.mod_eq_of_lt (show cls < 256 ^ 1 by omega)]
    show (if 15 < field (payloadOf (.haveCopy key time cls)) 13 1 then none else some (PeerFrame.haveCopy _ _ _)) = _
    rw [hcls, if_neg (by omega)]
    unfold payloadOf
    simp only [List.append_assoc, field_head, field_skip, Nat.reduceLeDiff, Nat.reduceSub, ofNat_field, Nat.reduceMul,
      Nat.mod_eq_of_lt (show time < 256 ^ 5 from ht)]
  | beacon rt invalid dormant fault =>
    obtain ⟨h0, h1, h2, hlt⟩ := marks_testBit invalid dormant fault
    have hmarks : field (payloadOf (.beacon rt invalid dormant fault)) 5 1 =
        invalid.toNat + 2 * dormant.toNat + 4 * fault.toNat := by
      unfold payloadOf
      simp only [field_skip, field_whole, Nat.reduceLeDiff, Nat.reduceSub, Nat.mod_eq_of_lt hlt]
    have hrt : field (payloadOf (.beacon rt invalid dormant fault)) 0 5 = rt := by
      unfold payloadOf
      rw [field_head, Nat.mod_eq_of_lt (show rt < 256 ^ 5 from h)]
    show some (PeerFrame.beacon (field (payloadOf (.beacon rt invalid dormant fault)) 0 5)
      ((field (payloadOf (.beacon rt invalid dormant fault)) 5 1).testBit 0)
      ((field (payloadOf (.beacon rt invalid dormant fault)) 5 1).testBit 1)
      ((field (payloadOf (.beacon rt invalid dormant fault)) 5 1).testBit 2)) = _
    rw [hmarks, hrt, h0, h1, h2]

/-! ### Operands (Table 12-3) -/

theorem kind_of_toNat {n : Nat} (h : kind.toNat = n) : kind = BitVec.ofNat 8 n := by
  rw [← h, BitVec.ofNat_toNat, BitVec.setWidth_eq]

/-- The request kinds with their operand lengths. -/
def requestKinds : List (Byte × Nat) :=
  [(0x01, 53), (0x02, 5), (0x03, 5), (0x04, 111), (0x05, 116), (0x06, 76), (0x07, 3), (0x08, 9), (0x09, 4), (0x0A, 9),
   (0x0B, 4), (0x0C, 17), (0x0D, 17), (0x0E, 17), (0x0F, 0), (0x10, 0), (0x11, 0), (0x12, 3), (0x13, 3)]

theorem operandLength_iff (kind : Byte) (n : Nat) : operandLength kind = some n ↔ (kind, n) ∈ requestKinds := by
  have hin : ∀ k : Byte, (operandLength k).all (fun n => decide ((k, n) ∈ requestKinds)) = true := by decide
  have hout : ∀ p ∈ requestKinds, operandLength p.1 = some p.2 := by decide
  refine ⟨fun h => ?_, fun h => hout _ h⟩
  have hk := hin kind
  rw [h] at hk
  exact of_decide_eq_true hk

section

variable (tag a b c : Byte) (time first : BitVec 40) (index mask : BitVec 24) (matter count code : BitVec 32)
  (key : FullKey) (short handle : BitVec 64) (record : BitVec 416) (slots : BitVec 576)

theorem requestOf_start : requestOf tag 0x01 (a :: toBytes 52 record.toNat) = some (.start tag a record) := by
  show some (Instr.start _ _ _) = _
  simp only [bvField_byte, bvField_cons, bvField_whole, Nat.reduceLeDiff, Nat.reduceSub, Nat.reduceMul]

theorem requestOf_parcel :
    requestOf tag 0x04 (toBytes 32 key.toNat ++ [a] ++ toBytes 4 code.toNat ++ [b, c] ++ toBytes 72 slots.toNat) =
      some (.lodge tag key a code b c slots) ∧
    requestOf tag 0x05 (toBytes 32 key.toNat ++ [a] ++ toBytes 4 code.toNat ++ [b] ++ toBytes 5 time.toNat ++ [c] ++
      toBytes 72 slots.toNat) = some (.adopt tag key a code b time c slots) ∧
    requestOf tag 0x06 (toBytes 3 index.toNat ++ [a] ++ toBytes 72 slots.toNat) = some (.refill tag index a slots) := by
  refine ⟨?_, ?_, ?_⟩
  · show some (Instr.lodge _ _ _ _ _ _ _) = _
    simp only [List.append_assoc, List.cons_append, List.nil_append, bvField_head, bvField_skip, bvField_byte, bvField_cons,
      bvField_whole, Nat.reduceLeDiff, Nat.reduceSub, Nat.reduceMul]
  · show some (Instr.adopt _ _ _ _ _ _ _ _) = _
    simp only [List.append_assoc, List.cons_append, List.nil_append, bvField_head, bvField_skip, bvField_byte, bvField_cons,
      bvField_whole, Nat.reduceLeDiff, Nat.reduceSub, Nat.reduceMul]
  · show some (Instr.refill _ _ _ _) = _
    simp only [List.append_assoc, List.cons_append, List.nil_append, bvField_head, bvField_skip, bvField_byte, bvField_cons,
      bvField_whole, Nat.reduceLeDiff, Nat.reduceSub, Nat.reduceMul]

theorem requestOf_hold :
    requestOf tag 0x08 (toBytes 4 matter.toNat ++ [a] ++ toBytes 4 code.toNat) = some (.placeHold tag matter a code) ∧
    requestOf tag 0x09 (toBytes 4 matter.toNat) = some (.liftHold tag matter) := by
  refine ⟨?_, ?_⟩
  · show some (Instr.placeHold _ _ _ _) = _
    simp only [List.append_assoc, List.cons_append, List.nil_append, bvField_head, bvField_skip, bvField_byte, bvField_cons,
      bvField_whole, Nat.reduceLeDiff, Nat.reduceSub, Nat.reduceMul]
  · exact congrArg (fun m => some (Instr.liftHold tag m)) (bvField_whole _ rfl)

theorem requestOf_report :
    requestOf tag 0x0A (a :: toBytes 8 short.toNat) = some (.lookup tag a short) ∧
    requestOf tag 0x0B (toBytes 3 index.toNat ++ [a]) = some (.listReleasable tag index a) := by
  refine ⟨?_, ?_⟩
  · show some (Instr.lookup _ _ _) = _
    simp only [bvField_byte, bvField_cons, bvField_whole, Nat.reduceLeDiff, Nat.reduceSub, Nat.reduceMul]
  · show some (Instr.listReleasable _ _ _) = _
    simp only [bvField_head, bvField_skip, bvField_byte, Nat.reduceLeDiff, Nat.reduceSub, Nat.reduceMul]

theorem requestOf_media {media : List Byte}
    (h : media = toBytes 5 first.toNat ++ toBytes 4 count.toNat ++ toBytes 8 handle.toNat) :
    requestOf tag 0x0C media = some (.mediaRead tag first count handle) ∧
    requestOf tag 0x0D media = some (.mediaWrite tag first count handle) ∧
    requestOf tag 0x0E media = some (.mediaTrim tag first count handle) := by
  have h1 : bvField 40 media 0 5 = first := by
    rw [h, List.append_assoc]
    exact bvField_head _ _ rfl
  have h2 : bvField 32 media 5 4 = count := by
    rw [h, List.append_assoc, bvField_skip _ _ (Nat.le_refl 5)]
    exact bvField_head _ _ rfl
  have h3 : bvField 64 media 9 8 = handle := by
    rw [h, List.append_assoc, bvField_skip _ _ (by decide), bvField_skip _ _ (by decide)]
    exact bvField_whole _ rfl
  refine ⟨?_, ?_, ?_⟩
  · show some (Instr.mediaRead tag (bvField 40 media 0 5) (bvField 32 media 5 4) (bvField 64 media 9 8)) = _
    rw [h1, h2, h3]
  · show some (Instr.mediaWrite tag (bvField 40 media 0 5) (bvField 32 media 5 4) (bvField 64 media 9 8)) = _
    rw [h1, h2, h3]
  · show some (Instr.mediaTrim tag (bvField 40 media 0 5) (bvField 32 media 5 4) (bvField 64 media 9 8)) = _
    rw [h1, h2, h3]

end

/-! ### Extent slots, keys and codes (R193) -/

theorem flatMap_drop {α : Type} {f : α → List Byte} {m : Nat} (hf : ∀ x, (f x).length = m) (es : List α) (i : Nat) :
    (es.flatMap f).drop (m * i) = (es.drop i).flatMap f := by
  induction i generalizing es with
  | zero => rfl
  | succ i ih =>
    cases es with
    | nil => simp
    | cons e es =>
      rw [List.flatMap_cons, List.drop_succ_cons, Nat.mul_succ, Nat.add_comm, ← List.drop_drop, List.drop_left' (hf e), ih]

theorem usedSlots_eq {slots : BitVec 576} {es : List (BitVec 40 × BitVec 32)} (hlen : es.length = 8)
    (h : toBytes 72 slots.toNat = es.flatMap (fun x => toBytes 5 x.1.toNat ++ toBytes 4 x.2.toNat)) (hn : n ≤ 8) :
    usedSlots slots n = (es.take n).map fun x => ⟨x.1.toNat, x.2.toNat⟩ := by
  have hpiece (i : Nat) (hi : i < 8) : (toBytes 72 slots.toNat).drop (9 * i) =
      toBytes 5 es[i].1.toNat ++ (toBytes 4 es[i].2.toNat ++
        (es.drop (i + 1)).flatMap (fun x => toBytes 5 x.1.toNat ++ toBytes 4 x.2.toNat)) := by
    rw [h, flatMap_drop (fun x => by simp), List.drop_eq_getElem_cons (by omega), List.flatMap_cons, List.append_assoc]
  have hfield (i off k : Nat) : field (toBytes 72 slots.toNat) (9 * i + off) k =
      field ((toBytes 72 slots.toNat).drop (9 * i)) off k := by
    unfold field
    rw [List.drop_drop]
  have hbits (i off k a : Nat) (hi : 9 * i + off + k ≤ 72) (ha : 8 * (72 - (9 * i + off) - k) = a) :
      (slots.extractLsb' a (8 * k)).toNat = field (toBytes 72 slots.toNat) (9 * i + off) k := by
    rw [field_toBytes _ hi, BitVec.extractLsb'_toNat, Nat.shiftRight_eq_div_pow, ← ha, Nat.pow_mul 2 8, Nat.pow_mul 2 8]
  have hslot (i : Nat) (hi : i < 8) : slotExtent slots i = ⟨es[i].1.toNat, es[i].2.toNat⟩ := by
    have hfirst := hbits i 0 5 (72 * (7 - i) + 32) (by omega) (by omega)
    have hcount := hbits i 5 4 (72 * (7 - i)) (by omega) (by omega)
    rw [hfield, hpiece i hi, field_head, Nat.mod_eq_of_lt (show es[i].1.toNat < 256 ^ 5 from es[i].1.isLt)] at hfirst
    rw [hfield, hpiece i hi, field_skip _ _ (Nat.le_refl 5), Nat.sub_self, field_head, Nat.mod_eq_of_lt (show es[i].2.toNat < 256 ^ 4 from es[i].2.isLt)] at hcount
    exact congrArg₂ Extent.mk hfirst hcount
  refine List.ext_getElem (by simp [usedSlots, hlen, hn]) fun i h1 h2 => ?_
  have hi : i < n := by simpa [usedSlots] using h1
  simp [usedSlots, hslot i (by omega)]

theorem shortKeyOf_bytes (key : FullKey) : (toBytes 32 key.toNat).take 8 = toBytes 8 (shortKeyOf key).toNat := by
  have hlt : key.toNat / 2 ^ 192 < 2 ^ 64 := Nat.div_lt_of_lt_mul (by rw [← Nat.pow_add]; exact key.isLt)
  have hshort : (shortKeyOf key).toNat = key.toNat / 2 ^ 192 := by
    rw [shortKeyOf, BitVec.extractLsb'_toNat, Nat.shiftRight_eq_div_pow, Nat.mod_eq_of_lt hlt]
  rw [toBytes_take _ (by decide), hshort, show 256 ^ (32 - 8) = 2 ^ 192 by norm_num]

theorem custodianOf_bits (code : BitVec 32) {len : Nat} (hk : k < 32) :
    (custodianOf len code).code.getLsbD (31 - k) = (decide (k < 8 * len) && code.getLsbD (31 - k)) := by
  have h31 : 31 - k < 32 := by omega
  have hmask : (!decide (8 * len + (31 - k) < 32)) = decide (k < 8 * len) := by
    rw [← decide_not]
    exact decide_eq_decide.mpr (by omega)
  simp only [custodianOf, BitVec.getLsbD_and, BitVec.getLsbD_not, BitVec.getLsbD_ushiftRight, BitVec.getLsbD_allOnes,
    decide_eq_true h31, Bool.true_and, hmask]
  exact Bool.and_comm _ _

theorem extentsFit_iff (n : Byte) (slots : BitVec 576) : extentsFit n slots = true ↔
    1 ≤ n.toNat ∧ n.toNat ≤ 8 ∧ ∀ x ∈ usedSlots slots n.toNat, 1 ≤ x.count ∧ x.count ≤ 16777216 := by
  simp [extentsFit, and_assoc]

end Sys2Proof.Machine
end

section
/-! PROOFS. Reading the frames of the request link and of the service line. -/

namespace Sys2Proof.Machine

variable {w n k off : Nat} {tag kind : Byte} {body tail : List Byte}

/-! ### A frame's covered bytes and its check (12.3, 12.4) -/

theorem field_at (front rest : List Byte) (n : Nat) : field (front ++ rest) front.length n = ofBytes (rest.take n) := by
  unfold field
  rw [List.drop_left]

theorem check_bytes (bits : List Bool) : ofBytes (toBytes 2 (checkOf bits).toNat) = (checkOf bits).toNat := by
  rw [ofBytes_toBytes]
  exact Nat.mod_eq_of_lt (checkOf bits).isLt

/-- Two bytes that are not a frame's check do not spell it. -/
theorem other_check {bytes covered : List Byte} {c d c' d' : Byte} {bits : List Bool}
    (h : covered ++ toBytes 2 (checkOf bits).toNat = bytes ++ [c, d]) (hne : (c', d') ≠ (c, d)) :
    bytes = covered ∧ ofBytes [c', d'] ≠ (checkOf bits).toNat := by
  obtain ⟨hc, ht⟩ := List.append_inj' h (by simp)
  refine ⟨hc.symm, fun he => hne ?_⟩
  rw [← check_bytes, ht] at he
  have hl := ofBytes_injective (by rfl) he
  cases hl
  rfl

/-! ### Request link frames (R173) -/

/-- The bytes of a request link frame that its check covers. -/
def linkCovered (tag kind : Byte) (body : List Byte) : List Byte := toBytes 2 (2 + body.length) ++ [tag, kind] ++ body

/-- What RLI makes of tag, kind and operands of a good frame. -/
def linkBody (tag kind : Byte) (body : List Byte) : LinkRead :=
  if operandLength kind = some body.length then
    match requestOf tag kind body with
    | some i => .request i
    | none => .badField tag kind
  else .badField tag kind

theorem readLinkFrame_covered (ht : tag ≠ 0) (hb : body.length ≤ 65533) (hl : tail.length = 2) :
    readLinkFrame (linkCovered tag kind body ++ tail) =
      if ofBytes tail ≠ (checkOf (bytesBits (linkCovered tag kind body))).toNat then .discard else linkBody tag kind body := by
  have hlen : (linkCovered tag kind body).length = 2 + (2 + body.length) := by simp [linkCovered]; omega
  have hlength : field (linkCovered tag kind body ++ tail) 0 2 = 2 + body.length := by
    unfold linkCovered
    rw [List.append_assoc, List.append_assoc, field_head]
    exact Nat.mod_eq_of_lt (by omega)
  have hcheck : field (linkCovered tag kind body ++ tail) (2 + (2 + body.length)) 2 = ofBytes tail := by
    rw [← hlen, field_at, List.take_of_length_le (Nat.le_of_eq hl)]
  have htag : bvField 8 (linkCovered tag kind body ++ tail) 2 1 = tag := by
    unfold linkCovered
    rw [List.append_assoc, List.append_assoc, bvField_skip _ _ (Nat.le_refl 2)]
    exact bvField_byte ..
  have hkind : bvField 8 (linkCovered tag kind body ++ tail) 3 1 = kind := by
    unfold linkCovered
    rw [List.append_assoc, List.append_assoc, bvField_skip _ _ (by decide)]
    exact (bvField_cons _ _ (Nat.le_refl 1)).trans (bvField_byte ..)
  have hbody : (linkCovered tag kind body).drop 4 = body := by
    unfold linkCovered
    exact List.drop_left' (by simp)
  unfold readLinkFrame
  dsimp only
  rw [hlength, hcheck, htag, hkind, List.take_left' hlen, hbody, if_neg (by rw [List.length_append, hlen, hl]; omega), if_neg ht]
  split
  · rfl
  · unfold linkBody
    split
    · cases requestOf tag kind body <;> rfl
    · rfl

/-! ### Service frames (R188) -/

/-- The bytes of a service frame that its check covers. -/
def svcCovered (kind : Byte) (body : List Byte) : List Byte := toBytes 1 (1 + body.length) ++ [kind] ++ body

/-- What SLI makes of kind and operand of a good frame. -/
def svcBody (kind : Byte) (body : List Byte) : SvcRead :=
  match svcCommandOf kind body with
  | some i => .command i
  | none => .badField

theorem readSvcFrame_covered (hb : body.length ≤ 254) (hl : tail.length = 2) :
    readSvcFrame (svcCovered kind body ++ tail) =
      if ofBytes tail ≠ (checkOf (bytesBits (svcCovered kind body))).toNat then .discard else svcBody kind body := by
  have hlen : (svcCovered kind body).length = 1 + (1 + body.length) := by simp [svcCovered]; omega
  have hlength : field (svcCovered kind body ++ tail) 0 1 = 1 + body.length := by
    unfold svcCovered
    rw [List.append_assoc, List.append_assoc, field_head]
    exact Nat.mod_eq_of_lt (by omega)
  have hcheck : field (svcCovered kind body ++ tail) (1 + (1 + body.length)) 2 = ofBytes tail := by
    rw [← hlen, field_at, List.take_of_length_le (Nat.le_of_eq hl)]
  have hkind : bvField 8 (svcCovered kind body ++ tail) 1 1 = kind := by
    unfold svcCovered
    rw [List.append_assoc, List.append_assoc, bvField_skip _ _ (Nat.le_refl 1)]
    exact bvField_byte ..
  have hbody : (svcCovered kind body).drop 2 = body := by
    unfold svcCovered
    exact List.drop_left' (by simp)
  unfold readSvcFrame
  dsimp only
  rw [hlength, hcheck, hkind, List.take_left' hlen, hbody, if_neg (by rw [List.length_append, hlen, hl]; omega)]
  split
  · rfl
  · unfold svcBody
    cases svcCommandOf kind body <;> rfl

theorem svcCommandOf_index {n : Nat} (h : n < 2 ^ 24) :
    svcCommandOf 0x02 (toBytes 3 n) = some (.inspectEntry (BitVec.ofNat 24 n)) := by
  show some (Instr.inspectEntry (BitVec.ofNat 24 (field (toBytes 3 n) 0 3))) = _
  rw [field_whole, Nat.mod_eq_of_lt (show n < 256 ^ 3 from h)]

theorem svcCommandOf_key (key : ShortKey) : svcCommandOf 0x03 (toBytes 8 key.toNat) = some (.inspectKey key) ∧
    svcCommandOf 0x07 (toBytes 8 key.toNat) = some (.setWatch key) := by
  have h : bvField 64 (toBytes 8 key.toNat) 0 8 = key := bvField_whole key rfl
  exact ⟨congrArg (fun k => some (Instr.inspectKey k)) h, congrArg (fun k => some (Instr.setWatch k)) h⟩

theorem svcCommandOf_byte (b : Byte) : svcCommandOf 0x04 [b] = some (.inspectHold b) ∧
    svcCommandOf 0x05 [b] = some (.inspectPeer b) := by
  have h : bvField 8 [b] 0 1 = b := bvField_byte b []
  exact ⟨congrArg (fun k => some (Instr.inspectHold k)) h, congrArg (fun k => some (Instr.inspectPeer k)) h⟩

/-- The service commands with their operand lengths. -/
def svcKinds : List (Byte × Nat) :=
  [(0x01, 0), (0x02, 3), (0x03, 8), (0x04, 1), (0x05, 1), (0x06, 0), (0x07, 8), (0x08, 0)]

theorem svcCommandOf_other (h : (kind, body.length) ∉ svcKinds) : svcCommandOf kind body = none := by
  have hother {k n : Nat} (hk : kind.toNat = k) (hn : body.length = n) (hin : (BitVec.ofNat 8 k, n) ∈ svcKinds) : False :=
    h (by rw [kind_of_toNat hk, hn]; exact hin)
  unfold svcCommandOf
  split
  case h_9 => rfl
  all_goals
    rename_i hk hn
    exact (hother hk hn (by decide)).elim

/-! ### The layouts together -/

/-- Settles O57. -/
theorem payloadsAndLinkFrames : Obligations.PayloadsAndLinkFrames := by
  unfold Obligations.PayloadsAndLinkFrames
  refine ⟨fun f h => ⟨tableLength_payload f, readPayload_payloadOf f h⟩,
    fun n x => ⟨toBytes_length n x, fun i hi => toBytes_getD x hi⟩,
    fun m key pattern patLen time cls rt w invalid dormant fault =>
      ⟨rfl, rfl, rfl, rfl, rfl, rfl, rfl, by cases invalid <;> cases dormant <;> cases fault <;> rfl⟩,
    ⟨rfl, checkOf_concat⟩, fun tag kind body covered h => by rw [h]; rfl,
    fun tag kind body ht hb => ⟨fun i hk hi => ?_, fun hk => ?_, fun c d bytes heq c' d' hne => ?_⟩,
    operandLength_iff,
    fun tag a b c time first index mask matter count code key short handle record slots => ?_,
    fun slots es hlen h n hn => usedSlots_eq hlen h hn, extentsFit_iff, shortKeyOf_bytes,
    fun code len h1 h4 => ⟨rfl, fun k hk => custodianOf_bits code hk⟩,
    fun kind body hb => ⟨?_, fun c d bytes heq c' d' hne => ?_⟩,
    ⟨rfl, rfl, rfl, fun n hn => svcCommandOf_index hn, svcCommandOf_key, svcCommandOf_byte, fun kind body => svcCommandOf_other⟩⟩
  · have h := readLinkFrame_covered (kind := kind) ht hb (toBytes_length 2 (checkOf (bytesBits (linkCovered tag kind body))).toNat)
    rw [if_neg (not_not.mpr (check_bytes _)), linkBody, if_pos hk, hi] at h
    exact h
  · have h := readLinkFrame_covered (kind := kind) ht hb (toBytes_length 2 (checkOf (bytesBits (linkCovered tag kind body))).toNat)
    rw [if_neg (not_not.mpr (check_bytes _)), linkBody, if_neg hk] at h
    exact h
  · obtain ⟨rfl, hcheck⟩ := other_check (covered := linkCovered tag kind body) heq hne
    rw [readLinkFrame_covered ht hb (by rfl), if_pos (by exact hcheck)]
  · obtain ⟨hlodge, hadopt, hrefill⟩ := requestOf_parcel tag a b c time index code key slots
    obtain ⟨hplace, hlift⟩ := requestOf_hold tag a matter code
    obtain ⟨hlookup, hlist⟩ := requestOf_report tag a index short
    exact ⟨requestOf_start tag a record, congrArg (fun x => some (Instr.setTime tag x)) (bvField_whole time rfl),
      congrArg (fun x => some (Instr.setSpace tag x)) (bvField_whole first rfl), hlodge, hadopt, hrefill,
      congrArg (fun x => some (Instr.dispose tag x)) (bvField_whole index rfl), hplace, hlift, hlookup, hlist,
      fun media h => requestOf_media tag first count handle h, rfl, rfl, rfl,
      congrArg (fun x => some (Instr.clearEvents tag x)) (bvField_whole mask rfl),
      congrArg (fun x => some (Instr.setEventEnables tag x)) (bvField_whole mask rfl)⟩
  · have h := readSvcFrame_covered (kind := kind) hb (toBytes_length 2 (checkOf (bytesBits (svcCovered kind body))).toNat)
    rw [if_neg (not_not.mpr (check_bytes _))] at h
    exact h
  · obtain ⟨rfl, hcheck⟩ := other_check (covered := svcCovered kind body) heq hne
    rw [readSvcFrame_covered hb (by rfl), if_pos (by exact hcheck)]

end Sys2Proof.Machine
end
